-- ==== Sys2Proof/Word.lean ====
section
/-! DEFINITION. The word types of the Uamor 9616: bytes, 32-bit lanes and masks, 64-bit words (R2, R6). -/

namespace Sys2Proof

/-- One byte of memory. -/
abbrev Byte := BitVec 8

/-- A 32-bit value: a thread mask, a mask register or a binary32 code. -/
abbrev Half := BitVec 32

/-- A 64-bit word: a thread's share of a vector register, a uniform register, an address. -/
abbrev Word := BitVec 64

end Sys2Proof
end

