-- ==== Sys2Proof/Machine/Bits.lean ====
section
/-! DEFINITION. Bit fields, sign extension, byte order and bit streams (R2, R53), and reading a word in signed or unsigned form. -/

namespace Sys2Proof.Machine

/-- Bits [hi:lo] of a natural number. -/
def bitsOf (n hi lo : Nat) : Nat := (n >>> lo) % 2 ^ (hi + 1 - lo)

/-- Bit `i` of a natural number. -/
def bitAt (n i : Nat) : Bool := n.testBit i

/-- Bits [hi:lo] of a word, as a number. -/
def fld (w : Word) (hi lo : Nat) : Nat := bitsOf w.toNat hi lo

/-- The two's-complement value of the low `n` bits of a number. -/
def sextNat (n v : Nat) : Int :=
  let u := v % 2 ^ n
  if n = 0 then 0 else if u < 2 ^ (n - 1) then (u : Int) else (u : Int) - (2 ^ n : Nat)

/-- An integer modulo 2^n as a number. -/
def wrapNat (n : Nat) (v : Int) : Nat := (v % ((2 ^ n : Nat) : Int)).toNat

/-- An integer modulo 2^64 as a word. -/
def wordOfInt (v : Int) : Word := BitVec.ofNat 64 (wrapNat 64 v)

/-- The word of a number modulo 2^64. -/
def wd (n : Nat) : Word := BitVec.ofNat 64 n

/-- A word as a signed value. -/
def sgn (w : Word) : Int := sextNat 64 w.toNat

/-- A Boolean as a word, 1 or 0. -/
def wordOfBool (b : Bool) : Word := if b then 1 else 0

/-- A Boolean as a number, 1 or 0. -/
def natOfBool (b : Bool) : Nat := if b then 1 else 0

/-- Little-endian value of a list of bytes (R2). -/
def leNat (bs : List Byte) : Nat :=
  match bs with
  | [] => 0
  | b :: rest => b.toNat + 256 * leNat rest

/-- The low `n` bytes of a number, little-endian (R2). -/
def leBytes (n v : Nat) : List Byte :=
  (List.range n).map (fun i => BitVec.ofNat 8 (v >>> (8 * i)))

/-- Rounding a quotient up. -/
def ceilDiv (a b : Nat) : Nat := (a + b - 1) / b

/-- Number of set bits. -/
def popNat (w n : Nat) : Nat := (List.range w).countP (fun i => n.testBit i)

/-- The lowest set bit below `w`, or `w`. -/
def lowBit (w n : Nat) : Nat :=
  match (List.range w).find? (fun i => n.testBit i) with
  | some i => i
  | none => w

/-- The highest set bit below `w`, if any. -/
def highBit (w n : Nat) : Option Nat := ((List.range w).filter (fun i => n.testBit i)).getLast?

/-- The number whose bit `i`, for i < w, is `f i`. -/
def natOfBits (w : Nat) (f : Nat → Bool) : Nat :=
  (List.range w).foldl (fun acc i => if f i then acc + 2 ^ i else acc) 0

/-- The threads of a mask, ascending. -/
def threadsOf (m : Half) : List Nat := (List.range 32).filter (fun t => m.getLsbD t)

/-- The mask of a set of threads. -/
def maskOf (f : Nat → Bool) : Half := BitVec.ofNat 32 (natOfBits 32 f)

/-- The mask of one thread. -/
def oneThread (t : Nat) : Half := BitVec.ofNat 32 (2 ^ t)

/-- Replace bits [hi:lo] of a number. -/
def putBits (n lo len v : Nat) : Nat :=
  n - (bitsOf n (lo + len - 1) lo) * 2 ^ lo + (v % 2 ^ len) * 2 ^ lo

/-- Element `i` of width `w` in a thread word (R15). -/
def elemOf (w : Nat) (word : Word) (i : Nat) : Nat := (word.toNat >>> (i * w)) % 2 ^ w

/-- The thread word of a list of elements of width `w`, pad bits zero (R15). -/
def wordOfElems (w : Nat) (es : List Nat) : Word :=
  BitVec.ofNat 64 ((es.zipIdx).foldl (fun acc p => acc + (p.1 % 2 ^ w) * 2 ^ (p.2 * w)) 0)

/-- The elements of a thread word. -/
def elemsOf (w k : Nat) (word : Word) : List Nat := (List.range k).map (elemOf w word)

/-- Elements per thread word, k = floor(64/w) (R15). -/
def lanesOf (w : Nat) : Nat := 64 / w

/-- The greatest exponent `e` with 2^e ≤ n, for n ≥ 1. -/
def log2Nat (n : Nat) : Nat := Nat.log2 n

/-- Round an address up to a multiple. -/
def alignedTo (n a : Nat) : Bool := a % n = 0

/-- CRC-32C of a byte list, reflected, initial value and final XOR all ones (R395). -/
def crc32c (bs : List Byte) : Nat :=
  let step (c : Nat) (b : Byte) : Nat :=
    (List.range 8).foldl (fun x _ => if x % 2 = 1 then (x >>> 1) ^^^ 0x82F63B78 else x >>> 1) (c ^^^ b.toNat)
  (bs.foldl step 0xFFFFFFFF) ^^^ 0xFFFFFFFF

/-- Bit `j` of a little-endian bit stream (R53). -/
def streamBit (bs : List Byte) (j : Nat) : Bool := (bs.getD (j / 8) 0).getLsbD (j % 8)

/-- `len` stream bits from bit `j` as a number (R53). -/
def streamBits (bs : List Byte) (j len : Nat) : Nat := natOfBits len (fun i => streamBit bs (j + i))

end Sys2Proof.Machine
end

