-- ==== Sys2Proof/Machine/Format.lean ====
section
/-! DEFINITION. Number formats defined by software: definition words, decoding, exact values, and encoding with a single rounding (R27 to R48, R174). -/

namespace Sys2Proof.Machine

/-! ### Definition words (R27 to R29) -/

/-- The fields of a definition word (R27). -/
structure Fmt where
  kind : Nat
  s : Nat
  e : Nat
  m : Nat
  bias : Int
  sub : Nat
  inf : Nat
  nan : Nat
  rnd : Nat
  sat : Bool
  blk : Nat
  w : Nat
  deriving DecidableEq, Repr, Inhabited

/-- The fields of a word, W computed (R27, R28). -/
def fmtOf (d : Word) : Fmt where
  kind := fld d 1 0
  s := fld d 2 2
  e := fld d 7 3
  m := fld d 12 8
  bias := sextNat 10 (fld d 22 13)
  sub := fld d 24 23
  inf := fld d 26 25
  nan := fld d 29 27
  rnd := fld d 32 30
  sat := d.getLsbD 33
  blk := fld d 35 34
  w := fld d 2 2 + fld d 7 3 + fld d 12 8

/-- A definition word with W filled in (R28). -/
def fmtStored (d : Word) : Word := BitVec.ofNat 64 (putBits d.toNat 36 6 (fmtOf d).w)

/-- A definition is valid (R29). -/
def fmtValid (d : Word) : Bool :=
  let f := fmtOf d
  fld d 63 42 = 0 && decide (f.blk ≤ 1) && decide (f.rnd ≤ 5) && decide (f.nan ≤ 3) && decide (f.inf ≤ 1) &&
    decide (2 ≤ f.w) && decide (f.w ≤ 32) &&
    (match f.kind with
     | 0 => decide (1 ≤ f.e) && decide (f.e ≤ 8) && decide (f.m ≤ 23) && ((f.nan = 1) == (f.inf = 1)) &&
         (f.nan != 1 || decide (1 ≤ f.m)) && (f.nan != 3 || f.s = 1)
     | 1 => f.e = 0 && f.bias = 0 && f.nan = 0 && f.inf = 0 && f.sub = 0 && f.blk = 0
     | 2 => decide (1 ≤ f.m) && f.bias = 0 && f.nan = 0 && f.inf = 0 && f.sub = 0 && f.blk = 0
     | _ => decide (1 ≤ f.e) && decide (f.e ≤ 5) && decide (f.m ≤ 4) && (f.nan = 0 || f.nan = 3) && f.inf = 0 && f.sub = 0 &&
         f.blk = 0 && (f.nan != 3 || f.s = 1)) &&
    (f.blk != 1 || (f.kind = 0 && (f.w = 4 || f.w = 6 || f.w = 8)))

/-- The default definition of each slot (R48). -/
def defaultFmt (n : Nat) : Word :=
  match n with
  | 1 => 0x000001000A0FE744
  | 2 => 0x000001000A01EA2C
  | 3 => 0x000000801000E324
  | 4 => 0x000000800A01E22C
  | 5 => 0x0000004400002114
  | 6 => 0x000000640000621C
  | 7 => 0x0000006400002314
  | 8 => 0x0000008200000705
  | 9 => 0x0000004200000305
  | 10 => 0x0000020000001F05
  | 11 => 0x000000600002021F
  | _ => 0x000002000A0FF744

/-- What a launch record's slot word gives: zero is the default (R21, R48). -/
def launchFmt (n : Nat) (d : Word) : Word := if d = 0 then defaultFmt n else fmtStored d

/-! ### Exact values -/

/-- A positive real: a ratio n/d, the square root of one, 2 to a rational power, or log2 of a ratio above 1. -/
inductive Mag where
  | ratio (n d : Nat)
  | root (n d : Nat)
  /-- 2^(±n/d). -/
  | pow (neg : Bool) (n d : Nat)
  /-- log2(n/d), n > d. -/
  | log (n d : Nat)
  deriving DecidableEq, Repr, Inhabited

/-- An exact result before encoding (R174). -/
inductive Ex where
  | nan
  | inf (neg : Bool)
  | zero (neg : Bool)
  | val (neg : Bool) (m : Mag)
  deriving DecidableEq, Repr, Inhabited

/-- Integer square root by binary digits. -/
def isqrtGo (fuel n r : Nat) : Nat :=
  match fuel with
  | 0 => r
  | k + 1 => isqrtGo k n (if (r + 2 ^ k) * (r + 2 ^ k) ≤ n then r + 2 ^ k else r)

/-- The integer square root, rounded down. -/
def isqrt (n : Nat) : Nat := isqrtGo (Nat.log2 n / 2 + 1) n 0

/-- 2^k for an integer k, as a ratio. -/
def pow2R (k : Int) : Nat × Nat := if 0 ≤ k then (2 ^ k.toNat, 1) else (1, 2 ^ (-k).toNat)

/-- Bits of working precision of the transcendental functions (log 9). -/
def workBits : Nat := 384

/-- Terms z^(2i+1)/(2i+1) of atanh z for z = n/d, on a grid of 2^-p, rounded down; `up` rounds each up. -/
def atanhGo (fuel p : Nat) (zz term i acc : Nat) (up : Bool) : Nat :=
  match fuel with
  | 0 => acc + (if up then 2 else 0)
  | k + 1 =>
    let t := term / (2 * i + 1) + (if up then 1 else 0)
    let next := term * zz / 2 ^ p + (if up then 1 else 0)
    atanhGo k p zz next (i + 1) (acc + t) up

/-- Natural logarithm of n/d in [1, 2] on a grid of 2^-p, rounded down or up. -/
def lnGrid (p n d : Nat) (up : Bool) : Nat :=
  let z := if up then ceilDiv ((n - d) * 2 ^ p) (n + d) else (n - d) * 2 ^ p / (n + d)
  let zz := z * z / 2 ^ p + (if up then 1 else 0)
  2 * atanhGo (p / 3 + 4) p zz z 0 0 up

/-- log2 of n/d > 1 on a grid of 2^-p, rounded down or up. -/
def log2Grid (p n d : Nat) (up : Bool) : Nat :=
  let e0 := Nat.log2 (n / d)
  let frac := if up then ceilDiv (lnGrid (p + 16) n (d * 2 ^ e0) true * 2 ^ p) (lnGrid (p + 16) 2 1 false)
    else lnGrid (p + 16) n (d * 2 ^ e0) false * 2 ^ p / lnGrid (p + 16) 2 1 true
  e0 * 2 ^ p + frac

/-- Terms x^i/i! of e^x on a grid of 2^-p. -/
def expGo (fuel p x term i acc : Nat) (up : Bool) : Nat :=
  match fuel with
  | 0 => acc + (if up then 2 else 0)
  | k + 1 =>
    let next := term * x / 2 ^ p / i + (if up then 1 else 0)
    expGo k p x next (i + 1) (acc + next) up

/-- 2^(n/d) for 0 ≤ n/d < 1 on a grid of 2^-p, rounded down or up. -/
def exp2Grid (p n d : Nat) (up : Bool) : Nat :=
  let ln2 := lnGrid (p + 16) 2 1 up
  let x := if up then ceilDiv (n * ln2) (d * 2 ^ 16) else n * ln2 / (d * 2 ^ 16)
  expGo (p / 4 + 8) p x (2 ^ p) 1 (2 ^ p) up

/-- Greatest integer at or below a value known between two grid values, the lower preferred when they differ (log 9). -/
def gridFloor (lo p num den : Nat) : Nat := lo * num / (den * 2 ^ p)

/-- floor(v·num/den), and whether the product is exactly that integer. -/
def Mag.floorMul (v : Mag) (num den : Nat) : Nat × Bool :=
  match v with
  | .ratio n d => (n * num / (d * den), n * num % (d * den) = 0)
  | .root n d =>
    let x := n * num * num / (d * den * den)
    (isqrt x, n * num * num % (d * den * den) = 0 && isqrt x * isqrt x = x)
  | .pow neg n d =>
    -- 2^(i + f) with 0 ≤ f < 1
    let i : Int := if neg then -((ceilDiv n d : Nat) : Int) else ((n / d : Nat) : Int)
    let fn := if neg then ceilDiv n d * d - n else n % d
    let r := pow2R i
    let p := workBits + i.toNat
    (gridFloor (exp2Grid p fn d false) p (num * r.1) (den * r.2), false)
  | .log n d => (gridFloor (log2Grid workBits n d false) workBits num den, false)

/-- v ≥ num/den. -/
def Mag.ge (v : Mag) (num den : Nat) : Bool := decide (1 ≤ (v.floorMul den num).1)

/-- floor(log2 v). -/
def Mag.ilog (v : Mag) : Int :=
  match v with
  | .ratio n d => if d ≤ n then (Nat.log2 (n / d) : Int) else
      -- n/d < 1: the least k with n·2^k ≥ d
      let k := Nat.log2 (d / n)
      if n * 2 ^ k < d then -((k : Int) + 1) else -(k : Int)
  | .root n d =>
    let l := if d ≤ n then (Nat.log2 (n / d) : Int) else
      let k := Nat.log2 (d / n)
      if n * 2 ^ k < d then -((k : Int) + 1) else -(k : Int)
    l / 2
  | .pow neg n d => if neg then -((ceilDiv n d : Nat) : Int) else ((n / d : Nat) : Int)
  | .log _ _ => (Nat.log2 (v.floorMul (2 ^ 300) 1).1 : Int) - 300

/-! ### Rounding (R38, R39) -/

/-- Round v·num/den to an integer: `odd` says whether the code of the value below is odd; `up` and `away` what the mode asks; `r` is the random word. -/
def roundStep (rnd : Nat) (neg odd : Bool) (v : Mag) (num den r : Nat) : Nat :=
  let f := v.floorMul num den
  if f.2 then f.1
  else
    let h := v.floorMul (2 * num) den
    let above := decide (2 * f.1 + 1 ≤ h.1)
    let tie := above && h.2
    let up :=
      match rnd with
      | 0 => if tie then odd else above
      | 1 => false
      | 2 => !neg
      | 3 => neg
      | 4 => above
      | _ => decide (2 ^ 32 ≤ (v.floorMul (2 ^ 32 * num) den).1 - f.1 * 2 ^ 32 + r)
    if up then f.1 + 1 else f.1

/-- The parity the tie rule asks for: that of f.1 plus an offset. -/
def floorOdd (v : Mag) (num den off : Nat) : Bool := ((v.floorMul num den).1 + off) % 2 = 1

/-! ### Special codes (R31 to R33, R42, R46) -/

/-- The sign bit of a code. -/
def Fmt.signBit (f : Fmt) (neg : Bool) : Nat := if neg && f.s = 1 then 2 ^ (f.w - 1) else 0

/-- Magnitude bits of a code. -/
def Fmt.magBits (f : Fmt) : Nat := f.w - f.s

/-- The magnitude code of the largest finite value (R33, R42). -/
def Fmt.maxCode (f : Fmt) : Nat :=
  if f.kind = 3 then 2 ^ (f.e + f.m) - 1
  else if f.inf = 1 then (2 ^ f.e - 1) * 2 ^ f.m - 1
  else if f.nan = 2 then 2 ^ (f.e + f.m) - 2
  else 2 ^ (f.e + f.m) - 1

/-- The canonical NaN, or +0 where the slot has none (R31, R32, R46). -/
def Fmt.nanCode (f : Fmt) : Nat :=
  if f.kind = 1 ∨ f.kind = 2 then 0
  else
    match f.nan with
    | 1 => (2 ^ f.e - 1) * 2 ^ f.m + 2 ^ (f.m - 1)
    | 2 => 2 ^ (f.e + f.m) - 1
    | 3 => 2 ^ (f.w - 1)
    | _ => 0

/-- A zero: signed where the slot has −0 (R45). -/
def Fmt.zeroCode (f : Fmt) (neg : Bool) : Nat :=
  if f.kind = 1 ∨ f.kind = 2 then 0 else if f.nan = 3 then 0 else f.signBit neg

/-- A negative result a slot without sign cannot hold (R46). -/
def Fmt.negCode (f : Fmt) : Nat := if f.nan = 0 then 0 else f.nanCode

/-- An infinite result (R46); with INF = 1 the infinity code under every SAT and rounding mode, for an exactly infinite value (R42; log 106). -/
def Fmt.infCode (f : Fmt) (neg : Bool) : Nat :=
  if f.kind = 1 ∨ f.kind = 2 then
    if neg then (if f.s = 1 then 2 ^ (f.w - 1) else 0) else 2 ^ (f.w - f.s) - 1
  else if neg && f.s = 0 then f.negCode
  else if f.inf = 1 then f.signBit neg + (2 ^ f.e - 1) * 2 ^ f.m
  else f.signBit neg + f.maxCode

/-- An overflowing float or log result (R42). -/
def Fmt.overflow (f : Fmt) (neg : Bool) : Nat :=
  let max := f.signBit neg + f.maxCode
  if f.sat then max
  else
    -- does the mode round this sign away from zero
    let away := f.rnd = 0 || f.rnd = 4 || f.rnd = 5 || (f.rnd = 2 && !neg) || (f.rnd = 3 && neg)
    if !away then max
    else if f.inf = 1 then f.signBit neg + (2 ^ f.e - 1) * 2 ^ f.m
    else if f.nan = 2 ∨ f.nan = 3 then f.nanCode
    else max

/-! ### Logarithmic codes (R36, R47) -/

/-- T[j]·2^24 (R36). -/
def logT (m j : Nat) : Nat :=
  let x := 2 ^ (25 * 2 ^ m + j)
  let root := (List.range m).foldl (fun y _ => isqrt y) x
  (root + 1) / 2

/-- The linear value of magnitude code `c`, unbounded, as a ratio (R36, R47). -/
def logLinear (f : Fmt) (c : Int) : Nat × Nat :=
  let k := c - f.bias
  let j := (k % ((2 ^ f.m : Nat) : Int)).toNat
  let q := k / ((2 ^ f.m : Nat) : Int)
  let r := pow2R q
  (logT f.m j * r.1, 2 ^ 24 * r.2)

/-- The code at or below a magnitude: 0, or c with linear(c) ≤ v < linear(c + 1) (R47). -/
def logBelow (f : Fmt) (v : Mag) : Nat :=
  let e := v.ilog
  let r := pow2R e
  let j := ((List.range (2 ^ f.m)).filter (fun j => v.ge (logT f.m j * r.1) (2 ^ 24 * r.2))).getLast?.getD 0
  (e * ((2 ^ f.m : Nat) : Int) + f.bias + (j : Int)).toNat

/-- The greatest d < 2^32 with t + d·u/2^32 ≤ v, for ratios t and u, by binary search (R39). -/
def logFraction (v : Mag) (t u : Nat × Nat) (fuel d : Nat) : Nat :=
  match fuel with
  | 0 => d
  | k + 1 =>
    let x := d + 2 ^ k
    logFraction v t u k (if v.ge (t.1 * u.2 * 2 ^ 32 + x * u.1 * t.2) (t.2 * u.2 * 2 ^ 32) then x else d)

/-- Encode a non-zero magnitude into a log slot: the code, before overflow (R47). -/
def logRound (f : Fmt) (neg : Bool) (v : Mag) (r : Nat) : Nat :=
  let c := logBelow f v
  let lo := if c = 0 then (0, 1) else logLinear f c
  let hi := logLinear f (c + 1)
  if c != 0 && (v.floorMul lo.2 lo.1) = (1, true) then c
  else
    let mid := (lo.1 * hi.2 + hi.1 * lo.2, 2 * lo.2 * hi.2)
    let above : Bool := v.ge mid.1 mid.2
    let tie : Bool := above && decide ((v.floorMul mid.2 mid.1) = (1, true))
    let up : Bool :=
      match f.rnd with
      | 0 => if tie then decide (c % 2 = 1) else above
      | 1 => false
      | 2 => !neg
      | 3 => neg
      | 4 => above
      | _ => decide (2 ^ 32 ≤ logFraction v lo (hi.1 * lo.2 - lo.1 * hi.2, hi.2 * lo.2) 32 0 + r)
    if up then c + 1 else c

/-! ### Decoding and encoding -/

/-- Decode a code (R30, R31, R34 to R36), flushing subnormal inputs where SUB says so (R44). -/
def decodeCode (f : Fmt) (code : Nat) : Ex :=
  let c := code % 2 ^ f.w
  let neg := f.s = 1 && c.testBit (f.w - 1)
  let mag := c % 2 ^ f.magBits
  match f.kind with
  | 0 =>
    let e := mag / 2 ^ f.m
    let m := mag % 2 ^ f.m
    let ones := 2 ^ f.e - 1
    if f.nan = 1 ∧ e = ones then (if m = 0 then .inf neg else .nan)
    else if f.nan = 2 ∧ e = ones ∧ m = 2 ^ f.m - 1 then .nan
    else if f.nan = 3 ∧ neg ∧ mag = 0 then .nan
    else if mag = 0 then .zero neg
    else if e = 0 then
      if f.sub = 1 ∨ f.sub = 3 then .zero neg
      else let r := pow2R (1 - f.bias - f.m); .val neg (.ratio (m * r.1) r.2)
    else let r := pow2R ((e : Int) - f.bias - f.m); .val neg (.ratio ((2 ^ f.m + m) * r.1) r.2)
  | 1 =>
    let v : Int := if f.s = 1 then sextNat f.w c else c
    if v = 0 then .zero false else .val (decide (v < 0)) (.ratio v.natAbs 1)
  | 2 =>
    let v : Int := if f.s = 1 then sextNat f.w c else c
    if v = 0 then .zero false else .val (decide (v < 0)) (.ratio v.natAbs (2 ^ f.m))
  | _ =>
    if mag = 0 then (if f.nan = 3 ∧ neg then .nan else .zero neg)
    else let r := logLinear f mag; .val neg (.ratio r.1 r.2)

/-- Encode a non-zero finite value into a float slot (R38, R42, R44, R46). -/
def encodeFloat (f : Fmt) (neg : Bool) (v : Mag) (r : Nat) : Nat :=
  let emin : Int := 1 - f.bias
  let ex := v.ilog
  if (f.sub = 2 ∨ f.sub = 3) ∧ ex < emin then f.zeroCode neg
  else
    let j := (max ex emin) - emin
    let g := pow2R (emin - f.m + j)
    let off := j.toNat * 2 ^ f.m
    let mag := off + roundStep f.rnd neg (floorOdd v g.2 g.1 off) v g.2 g.1 r
    if mag = 0 then f.zeroCode neg
    else if neg && f.s = 0 then f.negCode
    else if f.maxCode < mag then f.overflow neg
    else f.signBit neg + mag

/-- Encode a non-zero finite value into an integer or fixed-point slot (R38, R43). -/
def encodeInt (f : Fmt) (neg : Bool) (v : Mag) (r : Nat) : Nat :=
  let scale := if f.kind = 2 then 2 ^ f.m else 1
  let t := roundStep f.rnd neg (floorOdd v scale 1 0) v scale 1 r
  let x : Int := if neg then -(t : Int) else t
  let lo : Int := if f.s = 1 then -((2 ^ (f.w - 1) : Nat) : Int) else 0
  let hi : Int := ((2 ^ (f.w - f.s) : Nat) : Int) - 1
  wrapNat f.w (if f.sat then min (max x lo) hi else x)

/-- A magnitude above that of the largest log code (R47). -/
def logAbove (f : Fmt) (v : Mag) : Bool :=
  let m := logLinear f f.maxCode
  v.ge m.1 m.2 && v.floorMul m.2 m.1 != (1, true)

/-- Encode a non-zero finite value into a log slot; a magnitude above the largest code overflows, however it would round (R42, R46, R47). -/
def encodeLog (f : Fmt) (neg : Bool) (v : Mag) (r : Nat) : Nat :=
  let c := logRound f neg v r
  if c = 0 then f.zeroCode neg
  else if neg && f.s = 0 then f.negCode
  else if logAbove f v then f.overflow neg
  else f.signBit neg + c

/-- Encode an exact result with one rounding; `r` is the random word of a stochastic slot (R37 to R46). -/
def encode1 (f : Fmt) (x : Ex) (r : Nat) : Nat :=
  match x with
  | .nan => f.nanCode
  | .inf neg => f.infCode neg
  | .zero neg => f.zeroCode neg
  | .val neg v =>
    match f.kind with
    | 0 => encodeFloat f neg v r
    | 3 => encodeLog f neg v r
    | _ => encodeInt f neg v r

/-! ### Exact arithmetic (R45, R174) -/

/-- The sign-inverted value. -/
def Ex.negate (x : Ex) : Ex :=
  match x with
  | .nan => .nan
  | .inf n => .inf !n
  | .zero n => .zero !n
  | .val n v => .val (!n) v

/-- The sign of a value that is not NaN. -/
def Ex.sign (x : Ex) : Bool :=
  match x with
  | .nan => false
  | .inf n => n
  | .zero n => n
  | .val n _ => n

/-- A rational magnitude as numerator and denominator. -/
def Mag.parts (v : Mag) : Nat × Nat :=
  match v with
  | .ratio n d => (n, d)
  | _ => (0, 1)

/-- A rational number as an exact value; `zneg` is the sign of zero. -/
def exOfRat (num : Int) (den : Nat) (zneg : Bool) : Ex :=
  if num = 0 then .zero zneg else .val (decide (num < 0)) (.ratio num.natAbs den)

/-- A finite value as a signed fraction. -/
def Ex.rat (x : Ex) : Int × Nat :=
  match x with
  | .val n v => (if n then -(v.parts.1 : Int) else v.parts.1, v.parts.2)
  | _ => (0, 1)

/-- Add fractions; a common power-of-two denominator is kept small. -/
def addRat (x y : Int × Nat) : Int × Nat :=
  if y.2 ≤ x.2 ∧ x.2 % y.2 = 0 then (x.1 + y.1 * ((x.2 / y.2 : Nat) : Int), x.2)
  else if x.2 ≤ y.2 ∧ y.2 % x.2 = 0 then (x.1 * ((y.2 / x.2 : Nat) : Int) + y.1, y.2)
  else (x.1 * (y.2 : Int) + y.1 * (x.2 : Int), x.2 * y.2)

/-- The exact sum of terms: NaN, infinities, then the fraction; a zero sum takes the common sign of zero terms, else + or, under RDN, − (R45, R174). -/
def exSum (rdn : Bool) (xs : List Ex) : Ex :=
  if xs.any (fun x => x = .nan) then .nan
  else if xs.any (fun x => x = .inf true) then (if xs.any (fun x => x = .inf false) then .nan else .inf true)
  else if xs.any (fun x => x = .inf false) then .inf false
  else
    let allZero (n : Bool) : Bool := xs.all (fun x => x = .zero n)
    if !xs.isEmpty && allZero true then .zero true
    else if !xs.isEmpty && allZero false then .zero false
    else
      let r := xs.foldl (fun acc x => addRat acc x.rat) (0, 1)
      exOfRat r.1 r.2 rdn

/-- The exact product (R45, R174). -/
def exMul (x y : Ex) : Ex :=
  let n := x.sign != y.sign
  match x, y with
  | .nan, _ => .nan
  | _, .nan => .nan
  | .inf _, .zero _ => .nan
  | .zero _, .inf _ => .nan
  | .inf _, _ => .inf n
  | _, .inf _ => .inf n
  | .zero _, _ => .zero n
  | _, .zero _ => .zero n
  | .val _ a, .val _ b => .val n (.ratio (a.parts.1 * b.parts.1) (a.parts.2 * b.parts.2))

/-- The exact quotient (R45, R174). -/
def exDiv (x y : Ex) : Ex :=
  let n := x.sign != y.sign
  match x, y with
  | .nan, _ => .nan
  | _, .nan => .nan
  | .inf _, .inf _ => .nan
  | .zero _, .zero _ => .nan
  | .inf _, _ => .inf n
  | _, .zero _ => .inf n
  | _, .inf _ => .zero n
  | .zero _, _ => .zero n
  | .val _ a, .val _ b => .val n (.ratio (a.parts.1 * b.parts.2) (a.parts.2 * b.parts.1))

/-- The exact square root (R174). -/
def exSqrt (x : Ex) : Ex :=
  match x with
  | .nan => .nan
  | .inf n => if n then .nan else .inf false
  | .zero n => .zero n
  | .val n v => if n then .nan else .val false (.root v.parts.1 v.parts.2)

/-- The exact reciprocal (R174). -/
def exRcp (x : Ex) : Ex :=
  match x with
  | .nan => .nan
  | .inf n => .zero n
  | .zero n => .inf n
  | .val n v => .val n (.ratio v.parts.2 v.parts.1)

/-- The exact reciprocal square root (R174). -/
def exRsq (x : Ex) : Ex :=
  match x with
  | .nan => .nan
  | .inf n => if n then .nan else .zero false
  | .zero n => .inf n
  | .val n v => if n then .nan else .val false (.root v.parts.2 v.parts.1)

/-- 2 to a rational power: exact for an integer power; in a float or log slot a power beyond ±8192 is taken as ±8192, past every such format's range (R174, log 9). -/
def exExp2 (bounded : Bool) (x : Ex) : Ex :=
  match x with
  | .nan => .nan
  | .inf n => if n then .zero false else .inf false
  | .zero _ => .val false (.ratio 1 1)
  | .val n v =>
    let p := v.parts
    if (n || bounded) && decide (8192 * p.2 < p.1) then
      let r := pow2R (if n then -8192 else 8192)
      .val false (.ratio r.1 r.2)
    else if p.1 % p.2 = 0 then
      let r := pow2R (if n then -((p.1 / p.2 : Nat) : Int) else ((p.1 / p.2 : Nat) : Int))
      .val false (.ratio r.1 r.2)
    else .val false (.pow n p.1 p.2)

/-- A ratio is a power of two: its exponent. -/
def exactLog (n d : Nat) : Option Int :=
  let e := (Mag.ratio n d).ilog
  let r := pow2R e
  if n * r.2 = d * r.1 then some e else none

/-- The exact base-2 logarithm (R174). -/
def exLog2 (x : Ex) : Ex :=
  match x with
  | .nan => .nan
  | .inf n => if n then .nan else .inf false
  | .zero _ => .inf true
  | .val n v =>
    if n then .nan
    else
      let p := v.parts
      match exactLog p.1 p.2 with
      | some e => exOfRat e 1 false
      | none => if p.2 < p.1 then .val false (.log p.1 p.2) else .val true (.log p.2 p.1)

/-- The product of two codes of a log slot by code addition, in linear form with no bound (R47). -/
def logProduct (f : Fmt) (ca cb : Nat) : Ex :=
  let x := decodeCode f ca
  let y := decodeCode f cb
  match x, y with
  | .val nx _, .val ny _ =>
    let c : Int := ((ca % 2 ^ f.magBits : Nat) : Int) + ((cb % 2 ^ f.magBits : Nat) : Int) - f.bias
    let r := logLinear f c
    .val (nx != ny) (.ratio r.1 r.2)
  | _, _ => exMul x y

/-- The product of two codes of a slot: by code addition in a log slot, exact otherwise (R37, R47). -/
def codeProduct (f : Fmt) (ca cb : Nat) : Ex :=
  if f.kind = 3 then logProduct f ca cb else exMul (decodeCode f ca) (decodeCode f cb)

/-- Multiply by a power of two (R176). -/
def exScale (k : Int) (x : Ex) : Ex :=
  match x with
  | .val n v => let r := pow2R k; .val n (.ratio (v.parts.1 * r.1) (v.parts.2 * r.2))
  | _ => x

/-- x < y by value, −0 = +0, neither NaN (R179). -/
def exLt (x y : Ex) : Bool :=
  match x, y with
  | .nan, _ => false
  | _, .nan => false
  | .inf true, .inf true => false
  | .inf true, _ => true
  | _, .inf true => false
  | .inf false, _ => false
  | _, .inf false => true
  | _, _ => decide (x.rat.1 * (y.rat.2 : Int) < y.rat.1 * (x.rat.2 : Int))

/-- x = y by value, −0 = +0, neither NaN (R179). -/
def exEq (x y : Ex) : Bool := x != .nan && y != .nan && !exLt x y && !exLt y x

/-- x precedes y for FMIN: by value, −0 below +0 (R175). -/
def exBelow (x y : Ex) : Bool :=
  exLt x y || (exEq x y && x.sign && !y.sign)

/-- floor(log2 |x|) of a finite non-zero value. -/
def Ex.ilog (x : Ex) : Int :=
  match x with
  | .val _ v => v.ilog
  | _ => 0

end Sys2Proof.Machine
end

