-- ==== Sys2Proof/Config.lean ====
section
/-! DEFINITION. What one device fixes, and the free values: constants of which nothing can be proved but their type. -/

namespace Sys2Proof.Config

/-- The 64-byte generation identity of a first-stepping part, as eight words (R453). -/
def identity (n : Nat) : Word := if n = 0 then 0x25900001 else 0

/-- A byte of scratchpad that nothing has written since the team became resident: undefined (R327); by the team's residency epoch, the side of the pair and the offset (log 7). -/
opaque scratchByte : Nat → Nat → Nat → Byte

/-- A free value, by a fresh index (log 15). -/
opaque freeWord : Nat → Word

/-- The AES-256-GCM tag of a flit under a port's session key (log 12): session number, sequence number and bytes. -/
opaque flitTag : Nat → Nat → List Byte → Nat

/-- Answers of Smalt to an SPDM request, by request index (log 12). -/
opaque spdmAnswer : Nat → List Byte

/-- The host page that the host's I/O address space maps an I/O page of a PASID to, where link0's translation cache holds none (R380, R451; log 13). -/
opaque hostPage : Nat → Nat → Nat

/-- What the Smalt mailbox holds at an offset, given the peers whose measurements Smalt has received, as port and package (R504; log 12). -/
opaque smaltMailbox : Nat → List (Nat × Nat) → Word

end Sys2Proof.Config
end

