-- ==== Sys2Proof/Syntax.lean ====
section
/-! DEFINITION. The instructions of the Uamor 9616 in their five forms (R58 to R69), and the hardware events of the operation table, each a constructor of `Instr`. -/

namespace Sys2Proof

/-- A register field as R8 decodes it; `lit` is a field that holds no register: a literal, or a field that must be zero. -/
inductive Opnd where
  | v (n : Fin 192)
  | g (n : Fin 48)
  | k (n : Fin 8)
  | vz
  | lit (n : BitVec 8)
  deriving DecidableEq, Repr, Inhabited

/-- MI and MK: the named mask register, and whether its complement is meant (R10, R58). -/
structure Mask where
  neg : Bool
  k : Fin 8
  deriving DecidableEq, Repr, Inhabited

/-- No mask: MK = 0 with MI = 0 names k0. -/
def Mask.none : Mask := ⟨false, 0⟩

/-- The address spaces of SPACE (R66, R209). -/
inductive Space where
  | glob | scratch | priv | const
  deriving DecidableEq, Repr, Inhabited

/-- ORDER of the memory form (R66); `bad` holds the reserved values 4 to 7. -/
inductive Order where
  | plain | relaxed | acquire | release
  deriving DecidableEq, Repr, Inhabited

/-- Register form (R63). `mod` is word bits [11:1]. -/
structure RegForm where
  la : BitVec 4
  fs : BitVec 4
  mask : Mask
  d : Opnd
  a : Opnd
  b : Opnd
  c : Opnd
  mod : BitVec 11
  deriving DecidableEq, Repr, Inhabited

/-- Immediate form (R64): the 64-bit operand, and whether it stands in an extension word. -/
structure ImmForm where
  fs : BitVec 4
  mask : Mask
  d : Opnd
  a : Opnd
  imm : Word
  long : Bool
  deriving DecidableEq, Repr, Inhabited

/-- Branch form (R65): the 27-bit word offset, and for BRD the reconvergence offset. -/
structure BranchForm where
  fs : BitVec 4
  mask : Mask
  d : Opnd
  a : Opnd
  off : BitVec 27
  recv : Option (BitVec 32)
  deriving DecidableEq, Repr, Inhabited

/-- Memory form (R66). `cache` is CACHE, which the atomics use for operation bits. -/
structure MemForm where
  la : BitVec 4
  fs : BitVec 4
  mask : Mask
  d : Opnd
  a : Opnd
  b : Opnd
  c : Opnd
  space : Space
  size : Fin 8
  cache : BitVec 2
  order : Order
  sx : Bool
  disp : Option Word
  deriving DecidableEq, Repr, Inhabited

/-- Format form (R69). -/
structure FmtForm where
  la : BitVec 4
  slot : BitVec 4
  mask : Mask
  d : Opnd
  a : Opnd
  b : Opnd
  c : Opnd
  xa : Bool
  xb : Bool
  bank : BitVec 3
  iw : BitVec 3
  npi : BitVec 2
  neg : Bool
  deriving DecidableEq, Repr, Inhabited

/-- A word protected by SECDED, or by the ECC of HBM (R399): a register of a thread of a group, numbered as its field value; 8 aligned bytes of a scratchpad side, of an L1, of the L2 or of HBM; a tile value; an entry of a codebook plane, or as 256 its configuration word. -/
inductive BadPlace where
  | reg (team grp reg thr : Nat)
  | sp (team side word : Nat)
  | l1 (core word : Nat)
  | l2 (word : Nat)
  | hbm (word : Nat)
  | tile (core tile elem : Nat)
  | book (core bank : Nat) (plane : Bool) (entry : Nat)
  deriving DecidableEq, Repr, Inhabited

/-- Failed tests of one 32-byte sector of a store: of the code the store carries, and of the old code of the L2 sector it merges into (R396, R397). -/
structure SectorFail where
  sector : Nat
  stored : Nat := 0
  old : Nat := 0
  deriving DecidableEq, Repr, Inhabited

/-- What the end-to-end tests of an access find: failing sectors of what it writes, and mismatches of the read check of what it reads, or of the code of a sector that is written back (R397, R398). -/
structure Checks where
  fails : List SectorFail := []
  mismatches : Nat := 0
  deriving DecidableEq, Repr, Inhabited

/-- What an event is about, with what its tests find. -/
structure Checked (α : Type) where
  it : α
  checks : Checks := {}
  deriving DecidableEq, Repr, Inhabited

/-- What reaches memory: an issued store or atomic, or the write-back of a dirty sector from the L2 to HBM, whose failing is reported to the region of a group (R235, R379, R397). -/
inductive StoreEvent where
  | performed (id : Nat)
  | writeBack (sector team grp : Nat)
  deriving DecidableEq, Repr, Inhabited

/-- What a die finds of its errors: the location of the last that a scrub met, or that words were corrected as they were used; with it what has befallen the package's protected words since: those that became uncorrectable, sectors whose next store fails its tests, and words whose next read does as it is written there (R397 to R399, R454; log 104). -/
structure Scrubbed where
  loc : Nat
  words : List BadPlace := []
  used : Bool := false
  tests : List SectorFail := []
  misreads : List BadPlace := []
  deriving DecidableEq, Repr, Inhabited

/-- What Smalt reads of a firmware image: whether its signature verifies, whether header and length are well formed, its security version, and whether it asks to raise the fused minimum (R455). -/
structure BootImage where
  sigOk : Bool := true
  formOk : Bool := true
  version : Nat := 0
  raise : Bool := false
  deriving DecidableEq, Repr, Inhabited

/-- A split of a resident group: the team's number in this model, the group's index in its team, the split-table entry. -/
structure SplitRef where
  team : Nat
  grp : Nat
  split : Nat
  deriving DecidableEq, Repr, Inhabited

/-- A fabric packet: the transaction header of R464 and its data. -/
structure Packet where
  eseq : Nat
  djid : Nat
  dest : Nat
  src : Nat
  va : Nat
  len : Nat
  op : Nat
  resp : Bool
  rel : Bool
  acq : Bool
  resent : Bool
  rtag : Nat
  asz : Bool
  sub : Nat
  index : Nat
  tile : Nat
  core : Nat
  count : Nat
  data : List Byte
  deriving DecidableEq, Repr, Inhabited

/-- A flit: the header fields of R500 and its payload. -/
structure Flit where
  stopBits : BitVec 12
  kph : Bool
  ctrl : Bool
  cls : Bool
  vc : Nat
  ack : Nat
  seq : Nat
  payload : List Byte
  deriving DecidableEq, Repr, Inhabited

/-- One instruction of the opcode map, or one hardware event of the operation table. An event carries what the outside world or an engine decides; it acts on the state it meets. -/
inductive Instr where
  /-- NOP (R119). -/
  | nop (f : RegForm)
  /-- JMP (R120). -/
  | jmp (f : BranchForm)
  /-- BRU (R121). -/
  | bru (f : BranchForm)
  /-- BRD (R122). -/
  | brd (f : BranchForm)
  /-- RCV (R103). -/
  | rcv (f : RegForm)
  /-- CALL (R124). -/
  | call (f : BranchForm)
  /-- RET (R125). -/
  | ret (f : RegForm)
  /-- JMPI (R125). -/
  | jmpi (f : RegForm)
  /-- EXIT (R126). -/
  | exit (f : RegForm)
  /-- DEMOTE (R127). -/
  | demote (f : RegForm)
  /-- YIELD (R128). -/
  | yield (f : RegForm)
  /-- BRX (R129). -/
  | brx (f : BranchForm)
  /-- JOIN (R106). -/
  | join (f : RegForm)
  /-- TRAP (R131). -/
  | trap (f : RegForm)
  /-- BKPT (R131). -/
  | bkpt (f : RegForm)
  /-- IADD (R135). -/
  | iadd (f : RegForm)
  /-- ISUB (R135). -/
  | isub (f : RegForm)
  /-- IMUL (R135). -/
  | imul (f : RegForm)
  /-- IMULH (R135). -/
  | imulh (f : RegForm)
  /-- IMAD (R135). -/
  | imad (f : RegForm)
  /-- IDIV (R136). -/
  | idiv (f : RegForm)
  /-- IREM (R136). -/
  | irem (f : RegForm)
  /-- IMIN (R135). -/
  | imin (f : RegForm)
  /-- IMAX (R135). -/
  | imax (f : RegForm)
  /-- IABS (R135). -/
  | iabs (f : RegForm)
  /-- INEG (R135). -/
  | ineg (f : RegForm)
  /-- ICMP (R137). -/
  | icmp (f : RegForm)
  /-- ISEL (R138). -/
  | isel (f : RegForm)
  /-- AND (R139). -/
  | and (f : RegForm)
  /-- OR (R139). -/
  | or (f : RegForm)
  /-- XOR (R139). -/
  | xor (f : RegForm)
  /-- TLOG (R139). -/
  | tlog (f : RegForm)
  /-- SHL (R140). -/
  | shl (f : RegForm)
  /-- SHR (R140). -/
  | shr (f : RegForm)
  /-- SAR (R140). -/
  | sar (f : RegForm)
  /-- ROTL (R140). -/
  | rotl (f : RegForm)
  /-- SHFN (R141). -/
  | shfn (f : RegForm)
  /-- BEXT (R142). -/
  | bext (f : RegForm)
  /-- BINS (R142). -/
  | bins (f : RegForm)
  /-- POPC (R143). -/
  | popc (f : RegForm)
  /-- CLZ (R143). -/
  | clz (f : RegForm)
  /-- CTZ (R143). -/
  | ctz (f : RegForm)
  /-- BREV (R143). -/
  | brev (f : RegForm)
  /-- LEA (R144). -/
  | lea (f : RegForm)
  /-- MOV (R145). -/
  | mov (f : RegForm)
  /-- MOVI (R145). -/
  | movi (f : ImmForm)
  /-- IADDI (R146). -/
  | iaddi (f : ImmForm)
  /-- IMULI (R146). -/
  | imuli (f : ImmForm)
  /-- ANDI (R146). -/
  | andi (f : ImmForm)
  /-- ORI (R146). -/
  | ori (f : ImmForm)
  /-- XORI (R146). -/
  | xori (f : ImmForm)
  /-- SHLI (R146). -/
  | shli (f : ImmForm)
  /-- SHRI (R146). -/
  | shri (f : ImmForm)
  /-- SARI (R146). -/
  | sari (f : ImmForm)
  /-- ICMPI (R137). -/
  | icmpi (f : ImmForm)
  /-- KLOG (R147). -/
  | klog (f : RegForm)
  /-- KMOV (R148). -/
  | kmov (f : RegForm)
  /-- KPOP (R148). -/
  | kpop (f : RegForm)
  /-- KFIND (R148). -/
  | kfind (f : RegForm)
  /-- SRD (R149). -/
  | srd (f : RegForm)
  /-- SWR (R149). -/
  | swr (f : RegForm)
  /-- PICK (R150). -/
  | pick (f : RegForm)
  /-- FADD (R172). -/
  | fadd (f : FmtForm)
  /-- FSUB (R172). -/
  | fsub (f : FmtForm)
  /-- FMUL (R172). -/
  | fmul (f : FmtForm)
  /-- FMAD (R172). -/
  | fmad (f : FmtForm)
  /-- FDIV (R172). -/
  | fdiv (f : FmtForm)
  /-- FSQRT (R173). -/
  | fsqrt (f : FmtForm)
  /-- FRCP (R173). -/
  | frcp (f : FmtForm)
  /-- FRSQ (R173). -/
  | frsq (f : FmtForm)
  /-- FEXP2 (R173). -/
  | fexp2 (f : FmtForm)
  /-- FLOG2 (R173). -/
  | flog2 (f : FmtForm)
  /-- FMIN (R175). -/
  | fmin (f : FmtForm)
  /-- FMAX (R175). -/
  | fmax (f : FmtForm)
  /-- FSGN (R178). -/
  | fsgn (f : FmtForm)
  /-- FCMP (R180). -/
  | fcmp (f : FmtForm)
  /-- FCLASS (R182). -/
  | fclass (f : FmtForm)
  /-- FCMPK (R181). -/
  | fcmpk (f : FmtForm)
  /-- FSEL (R183). -/
  | fsel (f : FmtForm)
  /-- FDOT (R184). -/
  | fdot (f : FmtForm)
  /-- FSUM (R185). -/
  | fsum (f : FmtForm)
  /-- FCVT (R186). -/
  | fcvt (f : FmtForm)
  /-- FCVTI (R187). -/
  | fcvti (f : FmtForm)
  /-- FSCL (R176). -/
  | fscl (f : FmtForm)
  /-- FBSCL (R188). -/
  | fbscl (f : FmtForm)
  /-- FAMAX (R189). -/
  | famax (f : FmtForm)
  /-- FFRC (R177). -/
  | ffrc (f : FmtForm)
  /-- FDEF (R190). -/
  | fdef (f : RegForm)
  /-- FDRD (R191). -/
  | fdrd (f : RegForm)
  /-- SHFL (R153). -/
  | shfl (f : RegForm)
  /-- EPERM (R154). -/
  | eperm (f : RegForm)
  /-- IRED (R155). -/
  | ired (f : RegForm)
  /-- FRED (R156). -/
  | fred (f : FmtForm)
  /-- ISCAN (R155). -/
  | iscan (f : RegForm)
  /-- FSCAN (R156). -/
  | fscan (f : FmtForm)
  /-- VOTE (R157). -/
  | vote (f : RegForm)
  /-- MATCH (R158). -/
  | matchLanes (f : RegForm)
  /-- RNG (R160). -/
  | rng (f : RegForm)
  /-- RNGSEED (R161). -/
  | rngseed (f : RegForm)
  /-- ELECT (R159). -/
  | elect (f : RegForm)
  /-- LD (R236). -/
  | ld (f : MemForm)
  /-- ST (R236). -/
  | st (f : MemForm)
  /-- LDP (R237). -/
  | ldp (f : MemForm)
  /-- STP (R237). -/
  | stp (f : MemForm)
  /-- LDV (R238). -/
  | ldv (f : MemForm)
  /-- STV (R238). -/
  | stv (f : MemForm)
  /-- LDBK (R239). -/
  | ldbk (f : MemForm)
  /-- STBK (R239). -/
  | stbk (f : MemForm)
  /-- LDU (R240). -/
  | ldu (f : MemForm)
  /-- STU (R240). -/
  | stu (f : MemForm)
  /-- PRF (R241). -/
  | prf (f : MemForm)
  /-- CMNT (R242). -/
  | cmnt (f : MemForm)
  /-- ATOM (R245). -/
  | atom (f : MemForm)
  /-- ACAS (R246). -/
  | acas (f : MemForm)
  /-- FATOM (R247). -/
  | fatom (f : MemForm)
  /-- FENCE (R250). -/
  | fence (f : RegForm)
  /-- PROMO (R251). -/
  | promo (f : RegForm)
  /-- TBEGIN (R252). -/
  | tbegin (f : RegForm)
  /-- TCOMMIT (R254). -/
  | tcommit (f : RegForm)
  /-- TABORT (R255). -/
  | tabort (f : RegForm)
  /-- LDACQ (R243). -/
  | ldacq (f : MemForm)
  /-- STREL (R243). -/
  | strel (f : MemForm)
  /-- BAR (R257). -/
  | bar (f : RegForm)
  /-- BARARV (R257). -/
  | bararv (f : RegForm)
  /-- BARWT (R257). -/
  | barwt (f : RegForm)
  /-- WAITC (R258). -/
  | waitc (f : RegForm)
  /-- TBARV (R259). -/
  | tbarv (f : RegForm)
  /-- TBEXP (R259). -/
  | tbexp (f : RegForm)
  /-- TBWAIT (R259). -/
  | tbwait (f : RegForm)
  /-- HBAR (R260). -/
  | hbar (f : RegForm)
  /-- CBLD (R273). -/
  | cbld (f : RegForm)
  /-- CBWR (R274). -/
  | cbwr (f : RegForm)
  /-- CBSWAP (R275). -/
  | cbswap (f : RegForm)
  /-- CBBIND (R276). -/
  | cbbind (f : RegForm)
  /-- CBINV (R277). -/
  | cbinv (f : RegForm)
  /-- CBRD (R279). -/
  | cbrd (f : RegForm)
  /-- CBXP (R280). -/
  | cbxp (f : RegForm)
  /-- CBSAVE (R281). -/
  | cbsave (f : RegForm)
  /-- CBSAVE_RST (R281). -/
  | cbsaveRst (f : RegForm)
  /-- MMA (R298). -/
  | mma (f : RegForm)
  /-- MMAS (R300). -/
  | mmas (f : RegForm)
  /-- MZERO (R303). -/
  | mzero (f : RegForm)
  /-- MLDA (R304). -/
  | mlda (f : RegForm)
  /-- MDRAIN (R305). -/
  | mdrain (f : RegForm)
  /-- MWAIT (R309). -/
  | mwait (f : RegForm)
  /-- MSEL24 (R302). -/
  | msel24 (f : RegForm)
  /-- MARM (R308). -/
  | marm (f : RegForm)
  /-- CPY (R365). -/
  | cpy (f : RegForm)
  /-- STGADV (R367). -/
  | stgadv (f : RegForm)
  /-- GATH (R366). -/
  | gath (f : RegForm)
  /-- SCAT (R366). -/
  | scat (f : RegForm)
  /-- RCPL (R368). -/
  | rcpl (f : RegForm)
  /-- CPYST (R369). -/
  | cpyst (f : RegForm)
  /-- RLD (R469). -/
  | rld (f : RegForm)
  /-- RST (R470). -/
  | rst (f : RegForm)
  /-- RATOM (R471). -/
  | ratom (f : RegForm)
  /-- RCAS (R471). -/
  | rcas (f : RegForm)
  /-- RGET (R475). -/
  | rget (f : RegForm)
  /-- RPUT (R475). -/
  | rput (f : RegForm)
  /-- RSIG (R476). -/
  | rsig (f : RegForm)
  /-- DRED (R486). -/
  | dred (f : RegForm)
  /-- LNCH (R443). -/
  | lnch (f : RegForm)
  /-- LNCHD (R444). -/
  | lnchd (f : RegForm)
  /-- LNTRG (R445). -/
  | lntrg (f : RegForm)
  /-- GSIG (R446). -/
  | gsig (f : RegForm)
  /-- SYSC (R325). -/
  | sysc (f : RegForm)
  /-- RTT (R323). -/
  | rtt (f : RegForm)
  /-- PSAFE (R326). -/
  | psafe (f : RegForm)
  /-- IDEM (R327). -/
  | idem (f : RegForm)
  /-- Event SLOT_SELECT (R203): Each cycle a slot selects up to two instructions of one group under its policy. -/
  | slotSelect (core slot : Nat)
  /-- Event SPLIT_URGENT (R206): A split whose wait count reaches 192 becomes urgent. -/
  | splitUrgent (r : SplitRef)
  /-- Event INSTRUCTION_FETCH (R59): Fetch and translation of an instruction's words. -/
  | instructionFetch (r : SplitRef)
  /-- Event PRI_RESPONSE (R451): The host answers a page request; the split fetches again or traps FETCHF. -/
  | priResponse (djid : Nat) (va : Word) (success : Bool)
  /-- Event RESULT_ARRIVAL (R202): A long-latency result arrives and is written or held for its window. -/
  | resultArrival (team grp id mismatches : Nat)
  /-- Event STORE_PERFORMED (R235): An issued store or atomic is performed at its location. -/
  | storePerformed (e : StoreEvent) (failures : Checks)
  /-- Event DEFERRED_TRAP (R315): A deferred trap cancels pending writes and enters the handler before the next issue. -/
  | deferredTrap (team grp : Nat)
  /-- Event PAGER_LAUNCH_START (R430): Madder starts the device pager launch when the pager ring holds records. -/
  | pagerLaunchStart (rcb : Nat)
  /-- Event PAGER_RESPONSE (R391): A pager response word for a request arrives at a die. -/
  | pagerResponse (die : Nat) (resp : Word)
  /-- Event PAGER_TIMEOUT (R393): No response within the region's pager time ends every waiter. -/
  | pagerTimeout (die reqid : Nat)
  /-- Event BARSTALL_WATCHDOG (R115): The region watchdog raises BARSTALL on a split parked too long. -/
  | barstallWatchdog (r : SplitRef)
  /-- Event WAITC_RELEASE (R258): A write reaching the point of coherence satisfies a parked counted wait. -/
  | waitcRelease (r : SplitRef)
  /-- Event PROMO_WRITEBACK_DONE (R251): The named core finishes the write-back and PROMO completes with its acquire. -/
  | promoWritebackDone (r : SplitRef)
  /-- Event COMMIT_ARRIVAL (R254): A transaction commit reaches its home, locks its lines or aborts. -/
  | commitArrival (team grp : Nat)
  /-- Event TCOMMIT_ANSWER (R254): The home's answer writes the status and closes the transaction. -/
  | tcommitAnswer (team grp : Nat)
  /-- Event CODEBOOK_LOAD_DONE (R273): A CBLD copy into the shadow plane completes. -/
  | codebookLoadDone (core : Nat) (id : Checked Nat)
  /-- Event MATRIX_ARRAY_START (R288): A queued matrix instruction occupies the free array, or traps MACCBAD. -/
  | matrixArrayStart (core : Checked Nat)
  /-- Event MATRIX_COMPLETE (R296): A matrix instruction completes and writes its status. -/
  | matrixComplete (core id : Nat)
  /-- Event DRAIN_PEER_TIMEOUT (R307): A contribution unaccepted for 10 ms makes the drain trap REMFAULT. -/
  | drainPeerTimeout (core id : Nat)
  /-- Event ENGINE_OP_START (R349): A registered engine operation starts once no earlier overlapping entry remains. -/
  | engineOpStart (cluster tag : Nat)
  /-- Event ENGINE_SECTOR_WRITE (R346): An engine destination sector is written and PENDSEC decremented. -/
  | engineSectorWrite (cluster : Nat) (tag : Checked Nat)
  /-- Event ENGINE_OP_COMPLETE (R349): An engine operation completes and its range-lock entries are removed. -/
  | engineOpComplete (cluster tag : Nat)
  /-- Event TAG_SWEEP (R412): The background sweep clears race tags far behind the package phase. -/
  | tagSweep
  /-- Event HBAR_COMBINER_ARRIVAL (R402): A combiner counts an arrival, forwards upward or completes the phase. -/
  | hbarCombinerArrival (launch scope place : Nat)
  /-- Event HBAR_RELEASE (R402): A completed HBAR phase's release reaches the parked splits, which acquire. -/
  | hbarRelease (launch scope place : Nat)
  /-- Event PREEMPT_REQUEST (R437): Madder pre-empts a lower-priority team for a waiting team. -/
  | preemptRequest (team : Nat)
  /-- Event PREEMPT_FORCE_STOP (R328): After 2,048 instructions without stopping, the group stops and takes a full save. -/
  | preemptForceStop (team grp : Nat)
  /-- Event PREEMPT_SAVE (R329): Once all groups have stopped, the team is saved and its cores freed. -/
  | preemptSave (team : Nat)
  /-- Event REPLY_TO_IMAGE (R330): A remote reply after the freeze is written into the saved group image. -/
  | replyToImage (p : Packet)
  /-- Event TEAM_RESTORE (R331): A saved team is restored, its banks, tiles and images reinstated. -/
  | teamRestore (team core : Nat)
  /-- Event TEAM_PLACE (R436): A dispatcher places a team on the lowest core that can take it. -/
  | teamPlace (die : Nat)
  /-- Event GROUP_RETIRE (R126): A group whose threads have all exited retires once its memory operations are performed. -/
  | groupRetire (team grp : Nat)
  /-- Event LAUNCH_COMPLETE (R438): A launch whose last team retired performs its stores, increments DONEADDR and completes. -/
  | launchComplete (id : Nat)
  /-- Event ARMED_SUCCESSOR_START (R447): An armed successor starts once every team of the arming launch has triggered. -/
  | armedSuccessorStart (id : Nat)
  /-- Event QWRITE (R421): A host write of the producer index rings the queue doorbell. -/
  | qwrite (q : Nat) (v : Word)
  /-- Event QDOOR_CANDIDATE (R421): Madder re-reads a written doorbell word as a candidate producer index. -/
  | qdoorCandidate (q : Nat)
  /-- Event QUEUE_ERR_CLEAR (R421): Writing 1 to ERR clears it and sets the effective producer to QREAD. -/
  | queueErrClear (q : Nat)
  /-- Event QUEUE_LAUNCH (R422): Madder takes a LAUNCH entry and accepts its launch. -/
  | queueLaunch (q : Nat)
  /-- Event QUEUE_GRAPH (R422): Madder takes a GRAPH entry and starts a graph instance. -/
  | queueGraph (q : Nat)
  /-- Event QUEUE_WAIT (R422): Madder takes a WAIT entry and holds the queue on a word. -/
  | queueWait (q : Nat)
  /-- Event QUEUE_WAIT_SATISFIED (R422): The waited word reaches the threshold and the WAIT entry completes. -/
  | queueWaitSatisfied (q : Nat)
  /-- Event QUEUE_SIGNAL (R422): Madder writes VALUE to a word with a release. -/
  | queueSignal (q : Nat)
  /-- Event QUEUE_NOP (R422): A NOP entry completes at once. -/
  | queueNop (q : Nat)
  /-- Event QUEUE_INVAL (R422): Madder starts a translation invalidation for the region's context. -/
  | queueInval (q : Nat)
  /-- Event GRAPH_NODE_ARRIVAL (R432): An arrival counts toward a node's predecessors and may start it. -/
  | graphNodeArrival (inst : Nat)
  /-- Event GRAPH_INSTANCE_COMPLETE (R434): A graph instance completes or ends and its entry completes. -/
  | graphInstanceComplete (inst : Nat)
  /-- Event HELD_RECORD_POST (R439): Held records are posted as ring space frees or an index reads cleanly. -/
  | heldRecordPost (rcb : Nat)
  /-- Event MSIX_COALESCE (R439): The coalescing window closes and the MSI-X vector is raised. -/
  | msixCoalesce (rcb : Nat)
  /-- Event BAR2_WRITE (R450): A host write to package memory through BAR2. -/
  | bar2Write (off : Nat) (bytes : List Byte)
  /-- Event BAR2_READ (R450): A host read of package memory through BAR2. -/
  | bar2Read (off n : Nat)
  /-- Event ATS_INVALIDATE (R451): A host ATS invalidation drops cached host translations. -/
  | atsInvalidate (base size : Nat)
  /-- Event INVGO (R452): A write of LOG starts a host invalidation over a range. -/
  | invgo (log : Nat)
  /-- Event INVALIDATION_COMPLETE (R388): An invalidation completes once all TLBs drop the range and its users have ended. -/
  | invalidationComplete
  /-- Event REQFULL (R458): Requests calibration and entry into FULL service. -/
  | reqfull
  /-- Event REQBASIC (R458): Requests a return to BASIC service. -/
  | reqbasic
  /-- Event CALIBRATION_DONE (R458): Calibration ends after quiescence and the package enters FULL or sets CALFAIL. -/
  | calibrationDone (ok : Bool)
  /-- Event CALIBRATION_TIMEOUT (R458): A calibration unfinished after 50 ms counts as failed. -/
  | calibrationTimeout
  /-- Event REGISTER_WRITE (R452): A host write to a register without a row of its own. -/
  | registerWrite (off : Nat) (v : Word)
  /-- Event PACKAGE_RESET (R455): Smalt verifies firmware images at reset. -/
  | packageReset (images : List BootImage) (diesOk : BitVec 8) (stacksOk : BitVec 16)
  /-- Event RECOVERY_IMAGE_LOAD (R455): The host loads a recovery image through the Smalt mailbox. -/
  | recoveryImageLoad (sigOk formOk : Bool) (version : Nat) (raise : Bool) (diesOk : BitVec 8) (stacksOk : BitVec 16)
  /-- Event SPDM_REQUEST (R456): Smalt answers an SPDM request over DOE. -/
  | spdmRequest (index : Nat)
  /-- Event SUPPLY_FAULT (R459): Supply out of range for 1 ms stops the package. -/
  | supplyFault
  /-- Event CLOCK_STEP_DOWN (R460): Over the power cap or at 95 °C the clock steps down each millisecond. -/
  | clockStepDown (power tinlet tjmax : Nat)
  /-- Event CLOCK_STEP_UP (R460): After 10 ms clear the clock steps back up. -/
  | clockStepUp (power tinlet tjmax : Nat)
  /-- Event THERMAL_TRIP (R460): A 110 °C junction trips the package into FAILED. -/
  | thermalTrip
  /-- Event SCRUB (R399): Background scrub of L2 and stacks, correcting words. -/
  | scrub (die source corrected uncorrectable : Nat) (found : Scrubbed)
  /-- Event FABRIC_CONFIG_WRITE (R492): A write of SELF or RCTBASE, moving locked ports to ERROR. -/
  | fabricConfigWrite (off : Nat) (v : Word)
  /-- Event RTLOAD (R494): Loads the route and combining tree tables into both link dies. -/
  | rtload
  /-- Event ROUTE_TABLE_LOADED (R494): Both dies hold the new tables and RTGEN increments. -/
  | routeTableLoaded
  /-- Event PCFG_WRITE (R493): A write of a port's configuration word, or ERROR if locked. -/
  | pcfgWrite (p : Nat) (v : Word)
  /-- Event LOCK (R506): PCMD LOCK moves a port with a session to CONFIG_LOCKED. -/
  | lockPort (p : Nat)
  /-- Event START (R506): PCMD START moves a locked port to RUN. -/
  | startPort (p : Nat)
  /-- Event STOP (R506): PCMD STOP stops new packets and drains retained flits. -/
  | stopPort (p : Nat)
  /-- Event PORT_STOP_DRAINED (R506): Retained flits are acknowledged or 10 µs pass; the session ends. -/
  | portStopDrained (p : Nat)
  /-- Event LINK_TRAINED (R499): Lane training of an enabled port completes. -/
  | linkTrained (p : Nat) (good : BitVec 16)
  /-- Event LANE_FAIL (R502): A lane loses lock and the port starts a retrain. -/
  | laneFail (p lane : Nat)
  /-- Event RETRAIN_COMPLETE (R502): The retrain completes at a narrower width. -/
  | retrainComplete (p : Nat) (inTime : Bool)
  /-- Event PORT_DOWN (R503): A port goes down and discards its retained flits. -/
  | portDown (p : Nat)
  /-- Event RX_BANK_ERROR (R498): A receive bank with an uncorrectable error is mapped out. -/
  | rxBankError (p bank : Nat)
  /-- Event SESSION_ATTEMPT (R504): Smalt attempts an SPDM session with the peer every 100 ms. -/
  | sessionAttempt (p : Nat) (verified : Bool) (peerPkg peerPort : Nat)
  /-- Event KEY_UPDATE (R505): After 2^36 flits the sender updates its key. -/
  | keyUpdate (p : Nat) (ok : Bool)
  /-- Event FLIT_RECEIVE (R501): A transaction flit is decoded, checked and accepted or discarded. -/
  | flitReceive (p : Nat) (f : Flit) (fecOk tagOk : Bool)
  /-- Event IDLE (R501): IDLE control flit sent after 100 ns of silence. -/
  | idleMsg (p : Nat)
  /-- Event REPLAY (R501): REPLAY message makes the transmitter resend from the named flit. -/
  | replayMsg (p seq : Nat)
  /-- Event VCADV (R498): VCADV message sets the peer's advertised VCs. -/
  | vcadvMsg (p top : Nat)
  /-- Event SPDM (R504): SPDM message of the session handshake. -/
  | spdmMsg (p : Nat) (bytes : List Byte)
  /-- Event RESUME (R502): RESUME message after a retrain names the next expected flit. -/
  | resumeMsg (p seq : Nat)
  /-- Event STATE (R507): STATE message records the peer's lock state in PEERRUN. -/
  | stateMsg (p lstate : Nat)
  /-- Event PEER_SILENCE_TIMEOUT (R507): No flit for 10 µs clears PEERRUN. -/
  | peerSilenceTimeout (p : Nat)
  /-- Event PACKET_ROUTE (R495): A packet is delivered or forwarded on a VC by the route table, or dropped. -/
  | packetRoute
  /-- Event LOAD (R469): A LOAD request is translated and performed at the destination home. -/
  | loadReq (p : Packet)
  /-- Event STORE (R470): A STORE request is performed at the destination home. -/
  | storeReq (p : Checked Packet)
  /-- Event ATOMIC (R471): An ATOMIC request is performed at the destination home. -/
  | atomicReq (p : Packet)
  /-- Event CAS (R471): A CAS request is performed at the destination home. -/
  | casReq (p : Packet)
  /-- Event TBARRIVE (R476): A TBARRIVE request applies an arrival to a TB on the destination. -/
  | tbarriveReq (p : Packet)
  /-- Event GETREAD (R475): A GETREAD request reads a piece of the remote range. -/
  | getreadReq (p : Packet)
  /-- Event PUTWRITE (R475): A PUTWRITE request writes a piece of the remote range. -/
  | putwriteReq (p : Checked Packet)
  /-- Event DRAIN (R488): DRAIN requests assemble a tile contribution at the target endpoint. -/
  | drainReq (p : Packet)
  /-- Event TXLINE (R473): A TXLINE carries one buffered transaction line to the remote home. -/
  | txlineReq (p : Packet)
  /-- Event TXCOMMIT (R473): A TXCOMMIT asks the remote home to apply the transaction's lines. -/
  | txcommitReq (p : Packet)
  /-- Event REDUCE (R487): A REDUCE packet brings a contribution or result through the combining tree. -/
  | reducePkt (p : Packet)
  /-- Event DRED_RESULT (R487): The tree's result of a reduction phase arrives and is written. -/
  | dredResult (launch : Nat)
  /-- Event DRED_PHASE_TIMEOUT (R487): A reduction phase incomplete after 10 ms fails with REMFAULT. -/
  | dredPhaseTimeout (launch : Nat)
  /-- Event REMOTE_RESPONSE (R477): A response arrives at the source and answers its request. -/
  | remoteResponse (p : Packet)
  /-- Event REQUEST_RESEND (R479): A request unanswered for 20 µs is re-sent on the alternate route. -/
  | requestResend (dest cls eseq : Nat)
  /-- Event REMOTE_TIMEOUT (R478): A request unanswered 10 ms after issue raises REMFAULT. -/
  | remoteTimeout (dest cls eseq : Nat)
  /-- Event ATS_COMPLETION (R451): The host answers the die MMU's ATS translation request for a PLACE 2 page, and the waiting access proceeds with the cached host translation. -/
  | atsCompletion (pa : Nat) (host : Option Nat)
  deriving DecidableEq, Repr

end Sys2Proof
end

