-- ==== Sys2Proof/Machine/Encoding.lean ====
section
/-! DEFINITION. The encoding tables (R75, R118, R134, R152, R168, R233, R249, R270, R291, R324, R364, R442, R465), the fields of a base word (R58), and the decode checks in the order of R78. -/

namespace Sys2Proof.Machine

/-- The fields of an instruction's words (R58). -/
structure Fields where
  op : BitVec 8
  la : BitVec 4
  fs : BitVec 4
  mi : BitVec 1
  mkr : BitVec 3
  d : BitVec 8
  a : BitVec 8
  b : BitVec 8
  c : BitVec 8
  mod : BitVec 11
  x : BitVec 1
  ext : Word
  deriving DecidableEq, Repr

/-- The base word of the fields (R58). -/
def Fields.base (f : Fields) : Word :=
  (f.op ++ f.la ++ f.fs ++ f.mi ++ f.mkr ++ f.d ++ f.a ++ f.b ++ f.c ++ f.mod ++ f.x : BitVec 64)

/-- The fields of a base word and the word after it (R58). -/
def Fields.ofWords (w ext : Word) : Fields where
  op := w.extractLsb' 56 8
  la := w.extractLsb' 52 4
  fs := w.extractLsb' 48 4
  mi := w.extractLsb' 47 1
  mkr := w.extractLsb' 44 3
  d := w.extractLsb' 36 8
  a := w.extractLsb' 28 8
  b := w.extractLsb' 20 8
  c := w.extractLsb' 12 8
  mod := w.extractLsb' 1 11
  x := w.extractLsb' 0 1
  ext := if w.extractLsb' 0 1 = 0 then 0 else ext

/-- The five forms (R63 to R66, R69). -/
inductive Form where
  | reg | imm | branch | mem | fmt
  deriving DecidableEq, Repr

/-- The use of the extension word (R76). -/
inductive ExtUse where
  | no | req | opt
  deriving DecidableEq, Repr

/-- When MK and MI may name a mask: never; always; unless D is a g-register (R12); only where D, or B, is a v-register; only where SWR names a per-thread register (R149). -/
inductive MaskUse where
  | never | always | unlessUniform | ifVecD | ifVecB | ifSpecial
  deriving DecidableEq, Repr

/-- What an operand position accepts (R62, R133): a set of the classes V, G, Z, k1-k7 and k0 as bits 0 to 4; bit 5 is a field that must be zero; bit 6 a literal. -/
abbrev Classes := Nat

/-- One row of the encoding tables. `fs` and `mod` are the sets of accepted FS values and MOD bits. -/
structure Row where
  op : Nat
  form : Form
  fs : Nat
  d : Classes
  a : Classes
  b : Classes
  c : Classes
  mod : Nat
  la : Bool
  ext : ExtUse
  mask : MaskUse
  deriving DecidableEq, Repr

/-- The position holds a register field. -/
def isRegPos (cl : Classes) : Bool := cl % 32 != 0

/-- A register field as R8 decodes it; `none` is a reserved value. -/
def regOf (x : BitVec 8) : Option Opnd :=
  let n := x.toNat
  if h : n < 192 then some (.v ⟨n, h⟩)
  else if h : n - 192 < 48 then some (.g ⟨n - 192, h⟩)
  else if h : n - 240 < 8 then some (.k ⟨n - 240, h⟩)
  else if n = 255 then some .vz
  else none

/-- The field value of an operand (R8). -/
def opndBits (o : Opnd) : BitVec 8 :=
  match o with
  | .v n => BitVec.ofNat 8 n.val
  | .g n => BitVec.ofNat 8 (192 + n.val)
  | .k n => BitVec.ofNat 8 (240 + n.val)
  | .vz => 255
  | .lit n => n

/-- The operand of a field in a position of the given classes. -/
def opndOf (cl : Classes) (x : BitVec 8) : Opnd :=
  if isRegPos cl then (regOf x).getD .vz else .lit x

/-- The class bits of an operand. -/
def opndClassBit (o : Opnd) : Nat :=
  match o with
  | .v _ => 0
  | .g _ => 1
  | .vz => 2
  | .k n => if n.val = 0 then 4 else 3
  | .lit _ => 6

/-- The position accepts the register of the field (R62). -/
def classOk (cl : Classes) (x : BitVec 8) : Bool :=
  if isRegPos cl then
    match regOf x with
    | some o => cl.testBit (opndClassBit o)
    | none => false
  else true

/-- Encoding rows of opcodes 0x01 to 0x0F. -/
def rowsControl : List Row := [
  ⟨0x01, .reg, 1, 32, 32, 32, 32, 0, false, .no, .never⟩,
  ⟨0x02, .branch, 1, 32, 32, 32, 32, 0, false, .no, .never⟩,
  ⟨0x03, .branch, 15, 32, 6, 32, 32, 0, false, .no, .never⟩,
  ⟨0x04, .branch, 1, 32, 32, 32, 32, 0, false, .req, .always⟩,
  ⟨0x05, .reg, 1, 32, 32, 32, 32, 0, false, .no, .never⟩,
  ⟨0x06, .branch, 1, 7, 32, 32, 32, 0, false, .no, .never⟩,
  ⟨0x07, .reg, 1, 32, 3, 32, 32, 0, false, .no, .never⟩,
  ⟨0x08, .reg, 1, 32, 3, 32, 32, 0, false, .no, .never⟩,
  ⟨0x09, .reg, 1, 32, 32, 32, 32, 0, false, .no, .always⟩,
  ⟨0x0A, .reg, 1, 32, 32, 32, 32, 0, false, .no, .always⟩,
  ⟨0x0B, .reg, 1, 32, 32, 32, 32, 0, false, .no, .never⟩,
  ⟨0x0C, .branch, 15, 32, 32, 32, 32, 0, false, .no, .always⟩,
  ⟨0x0D, .reg, 1, 32, 32, 32, 32, 0, false, .no, .never⟩,
  ⟨0x0E, .reg, 1, 32, 6, 32, 32, 0, false, .no, .never⟩,
  ⟨0x0F, .reg, 1, 32, 32, 32, 32, 0, false, .no, .never⟩]

/-- Encoding rows of opcodes 0x10 to 0x1F. -/
def rowsInt : List Row := [
  ⟨0x10, .reg, 15, 3, 7, 7, 32, 1, false, .no, .unlessUniform⟩,
  ⟨0x11, .reg, 15, 3, 7, 7, 32, 1, false, .no, .unlessUniform⟩,
  ⟨0x12, .reg, 15, 3, 7, 7, 32, 1, false, .no, .unlessUniform⟩,
  ⟨0x13, .reg, 15, 3, 7, 7, 32, 0, false, .no, .unlessUniform⟩,
  ⟨0x14, .reg, 15, 3, 7, 7, 7, 1, false, .no, .unlessUniform⟩,
  ⟨0x15, .reg, 15, 3, 7, 7, 32, 0, true, .no, .unlessUniform⟩,
  ⟨0x16, .reg, 15, 3, 7, 7, 32, 0, true, .no, .unlessUniform⟩,
  ⟨0x17, .reg, 15, 3, 7, 7, 32, 0, false, .no, .unlessUniform⟩,
  ⟨0x18, .reg, 15, 3, 7, 7, 32, 0, false, .no, .unlessUniform⟩,
  ⟨0x19, .reg, 3, 3, 7, 32, 32, 1, false, .no, .unlessUniform⟩,
  ⟨0x1A, .reg, 3, 3, 7, 32, 32, 1, false, .no, .unlessUniform⟩,
  ⟨0x1B, .reg, 1023, 11, 7, 7, 32, 1, false, .no, .unlessUniform⟩,
  ⟨0x1C, .reg, 1, 3, 7, 7, 31, 0, false, .no, .unlessUniform⟩,
  ⟨0x1D, .reg, 240, 3, 7, 7, 32, 0, false, .no, .unlessUniform⟩,
  ⟨0x1E, .reg, 240, 3, 7, 7, 32, 0, false, .no, .unlessUniform⟩,
  ⟨0x1F, .reg, 240, 3, 7, 7, 32, 0, false, .no, .unlessUniform⟩]

/-- Encoding rows of opcodes 0x20 to 0x3E. -/
def rowsBit : List Row := [
  ⟨0x20, .reg, 240, 3, 7, 7, 7, 255, false, .no, .unlessUniform⟩,
  ⟨0x21, .reg, 240, 3, 7, 7, 32, 0, false, .no, .unlessUniform⟩,
  ⟨0x22, .reg, 240, 3, 7, 7, 32, 0, false, .no, .unlessUniform⟩,
  ⟨0x23, .reg, 240, 3, 7, 7, 32, 0, false, .no, .unlessUniform⟩,
  ⟨0x24, .reg, 240, 3, 7, 7, 32, 0, false, .no, .unlessUniform⟩,
  ⟨0x25, .reg, 48, 3, 7, 7, 7, 1, false, .no, .unlessUniform⟩,
  ⟨0x26, .reg, 48, 3, 7, 7, 7, 1, false, .no, .unlessUniform⟩,
  ⟨0x27, .reg, 48, 3, 7, 7, 7, 0, false, .no, .unlessUniform⟩,
  ⟨0x28, .reg, 240, 3, 7, 32, 32, 0, false, .no, .unlessUniform⟩,
  ⟨0x29, .reg, 240, 3, 7, 32, 32, 0, false, .no, .unlessUniform⟩,
  ⟨0x2A, .reg, 240, 3, 7, 32, 32, 0, false, .no, .unlessUniform⟩,
  ⟨0x2B, .reg, 240, 3, 7, 32, 32, 0, false, .no, .unlessUniform⟩,
  ⟨0x2C, .reg, 1, 3, 7, 7, 32, 31, false, .no, .unlessUniform⟩,
  ⟨0x2D, .reg, 1, 3, 7, 32, 32, 0, false, .no, .unlessUniform⟩,
  ⟨0x2E, .imm, 1, 3, 32, 32, 32, 0, false, .opt, .unlessUniform⟩,
  ⟨0x2F, .imm, 15, 3, 7, 32, 32, 0, false, .opt, .unlessUniform⟩,
  ⟨0x30, .imm, 15, 3, 7, 32, 32, 0, false, .opt, .unlessUniform⟩,
  ⟨0x31, .imm, 240, 3, 7, 32, 32, 0, false, .opt, .unlessUniform⟩,
  ⟨0x32, .imm, 240, 3, 7, 32, 32, 0, false, .opt, .unlessUniform⟩,
  ⟨0x33, .imm, 240, 3, 7, 32, 32, 0, false, .opt, .unlessUniform⟩,
  ⟨0x34, .imm, 240, 3, 7, 32, 32, 0, false, .opt, .unlessUniform⟩,
  ⟨0x35, .imm, 240, 3, 7, 32, 32, 0, false, .opt, .unlessUniform⟩,
  ⟨0x36, .imm, 240, 3, 7, 32, 32, 0, false, .opt, .unlessUniform⟩,
  ⟨0x37, .imm, 1023, 11, 7, 32, 32, 0, false, .opt, .unlessUniform⟩,
  ⟨0x38, .reg, 1, 10, 30, 30, 30, 255, false, .no, .never⟩,
  ⟨0x39, .reg, 1, 11, 30, 32, 32, 0, false, .no, .ifVecD⟩,
  ⟨0x3A, .reg, 1, 3, 30, 32, 32, 0, false, .no, .ifVecD⟩,
  ⟨0x3B, .reg, 1, 3, 30, 32, 32, 1, false, .no, .ifVecD⟩,
  ⟨0x3C, .reg, 1, 3, 32, 64, 32, 0, false, .no, .unlessUniform⟩,
  ⟨0x3D, .reg, 1, 32, 7, 64, 32, 0, false, .no, .ifSpecial⟩,
  ⟨0x3E, .reg, 1, 2, 3, 6, 32, 1, false, .no, .never⟩]

/-- Encoding rows of opcodes 0x40 to 0x5B. -/
def rowsFmt : List Row := [
  ⟨0x40, .fmt, 65535, 3, 7, 7, 32, 2046, false, .no, .unlessUniform⟩,
  ⟨0x41, .fmt, 65535, 3, 7, 7, 32, 2046, false, .no, .unlessUniform⟩,
  ⟨0x42, .fmt, 65535, 3, 7, 7, 32, 2046, false, .no, .unlessUniform⟩,
  ⟨0x43, .fmt, 65535, 3, 7, 7, 7, 2047, false, .no, .unlessUniform⟩,
  ⟨0x44, .fmt, 65535, 3, 7, 7, 32, 2046, true, .no, .unlessUniform⟩,
  ⟨0x45, .fmt, 65535, 3, 7, 32, 32, 1534, true, .no, .unlessUniform⟩,
  ⟨0x46, .fmt, 65535, 3, 7, 32, 32, 1534, true, .no, .unlessUniform⟩,
  ⟨0x47, .fmt, 65535, 3, 7, 32, 32, 1534, true, .no, .unlessUniform⟩,
  ⟨0x48, .fmt, 65535, 3, 7, 32, 32, 1534, true, .no, .unlessUniform⟩,
  ⟨0x49, .fmt, 65535, 3, 7, 32, 32, 1534, true, .no, .unlessUniform⟩,
  ⟨0x4A, .fmt, 65535, 3, 7, 7, 32, 2046, false, .no, .unlessUniform⟩,
  ⟨0x4B, .fmt, 65535, 3, 7, 7, 32, 2046, false, .no, .unlessUniform⟩,
  ⟨0x4C, .fmt, 65535, 3, 7, 7, 64, 2046, false, .no, .unlessUniform⟩,
  ⟨0x4D, .fmt, 65535, 3, 7, 7, 64, 2046, false, .no, .unlessUniform⟩,
  ⟨0x4E, .fmt, 65535, 3, 7, 32, 64, 1534, false, .no, .unlessUniform⟩,
  ⟨0x4F, .fmt, 65535, 8, 7, 7, 64, 2046, false, .no, .unlessUniform⟩,
  ⟨0x50, .fmt, 65535, 3, 7, 7, 31, 2046, false, .no, .unlessUniform⟩,
  ⟨0x51, .fmt, 65535, 3, 7, 7, 64, 2047, false, .no, .unlessUniform⟩,
  ⟨0x52, .fmt, 65535, 3, 7, 32, 64, 1534, false, .no, .unlessUniform⟩,
  ⟨0x53, .fmt, 65535, 3, 7, 32, 64, 1534, false, .no, .unlessUniform⟩,
  ⟨0x54, .fmt, 65535, 3, 7, 7, 64, 1534, false, .no, .unlessUniform⟩,
  ⟨0x55, .fmt, 65535, 3, 7, 7, 32, 1534, false, .no, .unlessUniform⟩,
  ⟨0x57, .fmt, 65535, 1, 1, 7, 64, 1534, false, .no, .unlessUniform⟩,
  ⟨0x58, .fmt, 65535, 3, 7, 7, 32, 1534, false, .no, .unlessUniform⟩,
  ⟨0x59, .fmt, 65535, 3, 7, 32, 64, 1534, false, .no, .unlessUniform⟩,
  ⟨0x5A, .reg, 65535, 32, 2, 32, 32, 0, false, .no, .never⟩,
  ⟨0x5B, .reg, 65535, 3, 32, 32, 32, 0, false, .no, .never⟩]

/-- Encoding rows of opcodes 0x60 to 0x6A. -/
def rowsLane : List Row := [
  ⟨0x60, .reg, 15, 1, 3, 7, 32, 0, true, .no, .always⟩,
  ⟨0x61, .reg, 65535, 1, 1, 7, 32, 1023, true, .no, .always⟩,
  ⟨0x62, .reg, 255, 3, 3, 32, 32, 0, false, .no, .unlessUniform⟩,
  ⟨0x63, .fmt, 65535, 3, 3, 32, 32, 1534, false, .no, .unlessUniform⟩,
  ⟨0x64, .reg, 255, 1, 3, 32, 32, 1, false, .no, .always⟩,
  ⟨0x65, .fmt, 65535, 1, 3, 32, 32, 1534, false, .no, .unlessUniform⟩,
  ⟨0x66, .reg, 15, 11, 3, 32, 32, 0, false, .no, .unlessUniform⟩,
  ⟨0x67, .reg, 1, 1, 3, 32, 32, 1, false, .no, .always⟩,
  ⟨0x68, .reg, 3, 1, 32, 32, 32, 0, false, .no, .always⟩,
  ⟨0x69, .reg, 1, 32, 7, 32, 32, 1, false, .no, .always⟩,
  ⟨0x6A, .reg, 1, 11, 32, 32, 32, 0, false, .no, .unlessUniform⟩]

/-- Encoding rows of opcodes 0x70 to 0x7B. -/
def rowsMem : List Row := [
  ⟨0x70, .mem, 65535, 5, 3, 7, 32, 0, true, .opt, .always⟩,
  ⟨0x71, .mem, 65535, 7, 3, 7, 32, 0, false, .opt, .always⟩,
  ⟨0x72, .mem, 65535, 1, 2, 6, 6, 0, true, .opt, .always⟩,
  ⟨0x73, .mem, 65535, 7, 2, 6, 6, 0, false, .opt, .always⟩,
  ⟨0x74, .mem, 65535, 1, 2, 6, 32, 0, true, .opt, .always⟩,
  ⟨0x75, .mem, 65535, 1, 2, 6, 32, 0, false, .opt, .always⟩,
  ⟨0x76, .mem, 65535, 1, 3, 7, 32, 0, true, .opt, .always⟩,
  ⟨0x77, .mem, 65535, 1, 3, 7, 32, 0, false, .opt, .always⟩,
  ⟨0x78, .mem, 65535, 6, 2, 6, 32, 0, true, .opt, .never⟩,
  ⟨0x79, .mem, 65535, 6, 2, 6, 32, 0, false, .opt, .never⟩,
  ⟨0x7A, .mem, 65535, 32, 3, 7, 32, 0, false, .opt, .always⟩,
  ⟨0x7B, .mem, 65535, 32, 7, 7, 32, 0, false, .opt, .always⟩]

/-- Encoding rows of opcodes 0x90 to 0xA7. -/
def rowsSync : List Row := [
  ⟨0x90, .mem, 65535, 7, 3, 7, 7, 0, true, .opt, .unlessUniform⟩,
  ⟨0x91, .mem, 65535, 7, 3, 7, 7, 0, true, .opt, .unlessUniform⟩,
  ⟨0x92, .mem, 65535, 7, 3, 7, 7, 0, true, .opt, .unlessUniform⟩,
  ⟨0x93, .reg, 127, 32, 32, 32, 32, 3, false, .no, .never⟩,
  ⟨0x94, .reg, 1, 32, 2, 32, 32, 0, false, .no, .never⟩,
  ⟨0x95, .reg, 1, 32, 32, 32, 32, 0, false, .no, .never⟩,
  ⟨0x96, .reg, 127, 6, 32, 32, 32, 0, false, .no, .never⟩,
  ⟨0x97, .reg, 1, 32, 6, 32, 32, 0, false, .no, .never⟩,
  ⟨0x98, .mem, 65535, 3, 3, 7, 6, 0, true, .opt, .unlessUniform⟩,
  ⟨0x99, .mem, 65535, 7, 3, 7, 6, 0, false, .opt, .always⟩,
  ⟨0xA0, .reg, 1, 32, 32, 6, 32, 127, false, .no, .never⟩,
  ⟨0xA1, .reg, 1, 6, 32, 6, 32, 127, false, .no, .never⟩,
  ⟨0xA2, .reg, 1, 32, 2, 32, 32, 127, false, .no, .never⟩,
  ⟨0xA3, .reg, 127, 6, 2, 6, 32, 512, false, .no, .never⟩,
  ⟨0xA4, .reg, 1, 6, 2, 6, 32, 0, false, .no, .never⟩,
  ⟨0xA5, .reg, 1, 6, 2, 6, 32, 1, false, .no, .never⟩,
  ⟨0xA6, .reg, 1, 6, 2, 6, 32, 0, false, .no, .never⟩,
  ⟨0xA7, .reg, 60, 32, 32, 32, 32, 0, false, .no, .never⟩]

/-- Encoding rows of opcodes 0xA8 to 0xAF. -/
def rowsBook : List Row := [
  ⟨0xA8, .reg, 255, 32, 2, 6, 32, 512, false, .no, .never⟩,
  ⟨0xA9, .reg, 255, 32, 6, 3, 32, 0, false, .no, .ifVecB⟩,
  ⟨0xAA, .reg, 255, 32, 32, 32, 32, 0, false, .no, .never⟩,
  ⟨0xAB, .reg, 255, 32, 6, 6, 32, 0, false, .no, .never⟩,
  ⟨0xAC, .reg, 255, 32, 6, 32, 32, 0, false, .no, .never⟩,
  ⟨0xAD, .reg, 255, 3, 3, 32, 32, 1, true, .no, .unlessUniform⟩,
  ⟨0xAE, .reg, 65535, 1, 3, 32, 32, 510, true, .no, .always⟩,
  ⟨0xAF, .reg, 255, 32, 2, 32, 32, 513, false, .no, .never⟩]

/-- Encoding rows of opcodes 0xB0 to 0xB7. -/
def rowsMatrix : List Row := [
  ⟨0xB0, .reg, 15, 6, 2, 2, 2, 3, true, .no, .never⟩,
  ⟨0xB1, .reg, 15, 6, 2, 2, 2, 3, true, .no, .never⟩,
  ⟨0xB2, .reg, 15, 32, 32, 32, 32, 2, false, .no, .never⟩,
  ⟨0xB3, .reg, 15, 6, 2, 6, 32, 514, true, .no, .never⟩,
  ⟨0xB4, .reg, 15, 6, 2, 6, 32, 510, true, .no, .never⟩,
  ⟨0xB5, .reg, 15, 32, 32, 32, 32, 1, false, .no, .never⟩,
  ⟨0xB6, .reg, 65535, 1, 7, 32, 32, 0, false, .no, .always⟩,
  ⟨0xB7, .reg, 15, 32, 2, 2, 32, 0, false, .no, .never⟩]

/-- Encoding rows of opcodes 0xC0 to 0xC5. -/
def rowsEngine : List Row := [
  ⟨0xC0, .reg, 255, 6, 2, 32, 32, 0, false, .no, .never⟩,
  ⟨0xC1, .reg, 1, 32, 6, 32, 32, 0, false, .no, .never⟩,
  ⟨0xC2, .reg, 1, 6, 2, 2, 2, 449, false, .no, .never⟩,
  ⟨0xC3, .reg, 1, 6, 2, 2, 2, 449, false, .no, .never⟩,
  ⟨0xC4, .reg, 255, 32, 2, 32, 32, 0, false, .no, .never⟩,
  ⟨0xC5, .reg, 1, 2, 6, 32, 32, 0, false, .no, .never⟩]

/-- Encoding rows of opcodes 0xD0 to 0xD7. -/
def rowsFabric : List Row := [
  ⟨0xD0, .reg, 97, 7, 3, 3, 32, 463, true, .no, .unlessUniform⟩,
  ⟨0xD1, .reg, 97, 7, 3, 3, 32, 462, true, .no, .unlessUniform⟩,
  ⟨0xD2, .reg, 97, 7, 3, 3, 7, 511, true, .no, .unlessUniform⟩,
  ⟨0xD3, .reg, 97, 7, 3, 3, 7, 462, true, .no, .unlessUniform⟩,
  ⟨0xD4, .reg, 1, 6, 2, 32, 32, 0, true, .no, .never⟩,
  ⟨0xD5, .reg, 1, 6, 2, 32, 32, 0, true, .no, .never⟩,
  ⟨0xD6, .reg, 1, 32, 2, 2, 6, 0, true, .no, .never⟩,
  ⟨0xD7, .reg, 255, 3, 3, 6, 32, 448, true, .no, .never⟩]

/-- Encoding rows of opcodes 0xE0 to 0xEB. -/
def rowsLaunch : List Row := [
  ⟨0xE0, .reg, 112, 6, 2, 32, 32, 0, false, .no, .never⟩,
  ⟨0xE1, .reg, 112, 6, 2, 32, 32, 0, false, .no, .never⟩,
  ⟨0xE2, .reg, 112, 32, 32, 32, 32, 0, false, .no, .never⟩,
  ⟨0xE3, .reg, 112, 32, 2, 2, 32, 0, false, .no, .never⟩,
  ⟨0xE8, .reg, 1, 32, 2, 6, 32, 0, false, .no, .never⟩,
  ⟨0xE9, .reg, 3, 32, 32, 32, 32, 0, false, .no, .never⟩,
  ⟨0xEA, .reg, 1, 32, 32, 32, 32, 0, false, .no, .never⟩,
  ⟨0xEB, .reg, 3, 32, 32, 32, 32, 0, false, .no, .never⟩]

/-- The encoding rows of the opcode map (R75). -/
def rows : List Row :=
  rowsControl ++ rowsInt ++ rowsBit ++ rowsFmt ++ rowsLane ++ rowsMem ++ rowsSync ++ rowsBook ++ rowsMatrix ++ rowsEngine ++ rowsFabric ++ rowsLaunch

/-- An instruction as its opcode and form; an event has no words. -/
inductive View where
  | reg (op : Nat) (f : RegForm)
  | imm (op : Nat) (f : ImmForm)
  | branch (op : Nat) (f : BranchForm)
  | mem (op : Nat) (f : MemForm)
  | fmt (op : Nat) (f : FmtForm)
  | event
  deriving DecidableEq, Repr

/-- The opcode and the form of an instruction (R75, R76). -/
def viewOf (i : Instr) : View :=
  match i with
  | .nop f => .reg 0x01 f
  | .jmp f => .branch 0x02 f
  | .bru f => .branch 0x03 f
  | .brd f => .branch 0x04 f
  | .rcv f => .reg 0x05 f
  | .call f => .branch 0x06 f
  | .ret f => .reg 0x07 f
  | .jmpi f => .reg 0x08 f
  | .exit f => .reg 0x09 f
  | .demote f => .reg 0x0A f
  | .yield f => .reg 0x0B f
  | .brx f => .branch 0x0C f
  | .join f => .reg 0x0D f
  | .trap f => .reg 0x0E f
  | .bkpt f => .reg 0x0F f
  | .iadd f => .reg 0x10 f
  | .isub f => .reg 0x11 f
  | .imul f => .reg 0x12 f
  | .imulh f => .reg 0x13 f
  | .imad f => .reg 0x14 f
  | .idiv f => .reg 0x15 f
  | .irem f => .reg 0x16 f
  | .imin f => .reg 0x17 f
  | .imax f => .reg 0x18 f
  | .iabs f => .reg 0x19 f
  | .ineg f => .reg 0x1A f
  | .icmp f => .reg 0x1B f
  | .isel f => .reg 0x1C f
  | .and f => .reg 0x1D f
  | .or f => .reg 0x1E f
  | .xor f => .reg 0x1F f
  | .tlog f => .reg 0x20 f
  | .shl f => .reg 0x21 f
  | .shr f => .reg 0x22 f
  | .sar f => .reg 0x23 f
  | .rotl f => .reg 0x24 f
  | .shfn f => .reg 0x25 f
  | .bext f => .reg 0x26 f
  | .bins f => .reg 0x27 f
  | .popc f => .reg 0x28 f
  | .clz f => .reg 0x29 f
  | .ctz f => .reg 0x2A f
  | .brev f => .reg 0x2B f
  | .lea f => .reg 0x2C f
  | .mov f => .reg 0x2D f
  | .movi f => .imm 0x2E f
  | .iaddi f => .imm 0x2F f
  | .imuli f => .imm 0x30 f
  | .andi f => .imm 0x31 f
  | .ori f => .imm 0x32 f
  | .xori f => .imm 0x33 f
  | .shli f => .imm 0x34 f
  | .shri f => .imm 0x35 f
  | .sari f => .imm 0x36 f
  | .icmpi f => .imm 0x37 f
  | .klog f => .reg 0x38 f
  | .kmov f => .reg 0x39 f
  | .kpop f => .reg 0x3A f
  | .kfind f => .reg 0x3B f
  | .srd f => .reg 0x3C f
  | .swr f => .reg 0x3D f
  | .pick f => .reg 0x3E f
  | .fadd f => .fmt 0x40 f
  | .fsub f => .fmt 0x41 f
  | .fmul f => .fmt 0x42 f
  | .fmad f => .fmt 0x43 f
  | .fdiv f => .fmt 0x44 f
  | .fsqrt f => .fmt 0x45 f
  | .frcp f => .fmt 0x46 f
  | .frsq f => .fmt 0x47 f
  | .fexp2 f => .fmt 0x48 f
  | .flog2 f => .fmt 0x49 f
  | .fmin f => .fmt 0x4A f
  | .fmax f => .fmt 0x4B f
  | .fsgn f => .fmt 0x4C f
  | .fcmp f => .fmt 0x4D f
  | .fclass f => .fmt 0x4E f
  | .fcmpk f => .fmt 0x4F f
  | .fsel f => .fmt 0x50 f
  | .fdot f => .fmt 0x51 f
  | .fsum f => .fmt 0x52 f
  | .fcvt f => .fmt 0x53 f
  | .fcvti f => .fmt 0x54 f
  | .fscl f => .fmt 0x55 f
  | .fbscl f => .fmt 0x57 f
  | .famax f => .fmt 0x58 f
  | .ffrc f => .fmt 0x59 f
  | .fdef f => .reg 0x5A f
  | .fdrd f => .reg 0x5B f
  | .shfl f => .reg 0x60 f
  | .eperm f => .reg 0x61 f
  | .ired f => .reg 0x62 f
  | .fred f => .fmt 0x63 f
  | .iscan f => .reg 0x64 f
  | .fscan f => .fmt 0x65 f
  | .vote f => .reg 0x66 f
  | .matchLanes f => .reg 0x67 f
  | .rng f => .reg 0x68 f
  | .rngseed f => .reg 0x69 f
  | .elect f => .reg 0x6A f
  | .ld f => .mem 0x70 f
  | .st f => .mem 0x71 f
  | .ldp f => .mem 0x72 f
  | .stp f => .mem 0x73 f
  | .ldv f => .mem 0x74 f
  | .stv f => .mem 0x75 f
  | .ldbk f => .mem 0x76 f
  | .stbk f => .mem 0x77 f
  | .ldu f => .mem 0x78 f
  | .stu f => .mem 0x79 f
  | .prf f => .mem 0x7A f
  | .cmnt f => .mem 0x7B f
  | .atom f => .mem 0x90 f
  | .acas f => .mem 0x91 f
  | .fatom f => .mem 0x92 f
  | .fence f => .reg 0x93 f
  | .promo f => .reg 0x94 f
  | .tbegin f => .reg 0x95 f
  | .tcommit f => .reg 0x96 f
  | .tabort f => .reg 0x97 f
  | .ldacq f => .mem 0x98 f
  | .strel f => .mem 0x99 f
  | .bar f => .reg 0xA0 f
  | .bararv f => .reg 0xA1 f
  | .barwt f => .reg 0xA2 f
  | .waitc f => .reg 0xA3 f
  | .tbarv f => .reg 0xA4 f
  | .tbexp f => .reg 0xA5 f
  | .tbwait f => .reg 0xA6 f
  | .hbar f => .reg 0xA7 f
  | .cbld f => .reg 0xA8 f
  | .cbwr f => .reg 0xA9 f
  | .cbswap f => .reg 0xAA f
  | .cbbind f => .reg 0xAB f
  | .cbinv f => .reg 0xAC f
  | .cbrd f => .reg 0xAD f
  | .cbxp f => .reg 0xAE f
  | .cbsave f => .reg 0xAF f
  | .cbsaveRst f => .reg 0xAF f
  | .mma f => .reg 0xB0 f
  | .mmas f => .reg 0xB1 f
  | .mzero f => .reg 0xB2 f
  | .mlda f => .reg 0xB3 f
  | .mdrain f => .reg 0xB4 f
  | .mwait f => .reg 0xB5 f
  | .msel24 f => .reg 0xB6 f
  | .marm f => .reg 0xB7 f
  | .cpy f => .reg 0xC0 f
  | .stgadv f => .reg 0xC1 f
  | .gath f => .reg 0xC2 f
  | .scat f => .reg 0xC3 f
  | .rcpl f => .reg 0xC4 f
  | .cpyst f => .reg 0xC5 f
  | .rld f => .reg 0xD0 f
  | .rst f => .reg 0xD1 f
  | .ratom f => .reg 0xD2 f
  | .rcas f => .reg 0xD3 f
  | .rget f => .reg 0xD4 f
  | .rput f => .reg 0xD5 f
  | .rsig f => .reg 0xD6 f
  | .dred f => .reg 0xD7 f
  | .lnch f => .reg 0xE0 f
  | .lnchd f => .reg 0xE1 f
  | .lntrg f => .reg 0xE2 f
  | .gsig f => .reg 0xE3 f
  | .sysc f => .reg 0xE8 f
  | .rtt f => .reg 0xE9 f
  | .psafe f => .reg 0xEA f
  | .idem f => .reg 0xEB f
  | .slotSelect _ _ => .event
  | .splitUrgent _ => .event
  | .instructionFetch _ => .event
  | .priResponse _ _ _ => .event
  | .resultArrival _ _ _ _ => .event
  | .storePerformed _ _ => .event
  | .deferredTrap _ _ => .event
  | .pagerLaunchStart _ => .event
  | .pagerResponse _ _ => .event
  | .pagerTimeout _ _ => .event
  | .barstallWatchdog _ => .event
  | .waitcRelease _ => .event
  | .promoWritebackDone _ => .event
  | .commitArrival _ _ => .event
  | .tcommitAnswer _ _ => .event
  | .codebookLoadDone _ _ => .event
  | .matrixArrayStart _ => .event
  | .matrixComplete _ _ => .event
  | .drainPeerTimeout _ _ => .event
  | .engineOpStart _ _ => .event
  | .engineSectorWrite _ _ => .event
  | .engineOpComplete _ _ => .event
  | .tagSweep => .event
  | .hbarCombinerArrival _ _ _ => .event
  | .hbarRelease _ _ _ => .event
  | .preemptRequest _ => .event
  | .preemptForceStop _ _ => .event
  | .preemptSave _ => .event
  | .replyToImage _ => .event
  | .teamRestore _ _ => .event
  | .teamPlace _ => .event
  | .groupRetire _ _ => .event
  | .launchComplete _ => .event
  | .armedSuccessorStart _ => .event
  | .qwrite _ _ => .event
  | .qdoorCandidate _ => .event
  | .queueErrClear _ => .event
  | .queueLaunch _ => .event
  | .queueGraph _ => .event
  | .queueWait _ => .event
  | .queueWaitSatisfied _ => .event
  | .queueSignal _ => .event
  | .queueNop _ => .event
  | .queueInval _ => .event
  | .graphNodeArrival _ => .event
  | .graphInstanceComplete _ => .event
  | .heldRecordPost _ => .event
  | .msixCoalesce _ => .event
  | .bar2Write _ _ => .event
  | .bar2Read _ _ => .event
  | .atsInvalidate _ _ => .event
  | .invgo _ => .event
  | .invalidationComplete => .event
  | .reqfull => .event
  | .reqbasic => .event
  | .calibrationDone _ => .event
  | .calibrationTimeout => .event
  | .registerWrite _ _ => .event
  | .packageReset _ _ _ => .event
  | .recoveryImageLoad _ _ _ _ _ _ => .event
  | .spdmRequest _ => .event
  | .supplyFault => .event
  | .clockStepDown _ _ _ => .event
  | .clockStepUp _ _ _ => .event
  | .thermalTrip => .event
  | .scrub _ _ _ _ _ => .event
  | .fabricConfigWrite _ _ => .event
  | .rtload => .event
  | .routeTableLoaded => .event
  | .pcfgWrite _ _ => .event
  | .lockPort _ => .event
  | .startPort _ => .event
  | .stopPort _ => .event
  | .portStopDrained _ => .event
  | .linkTrained _ _ => .event
  | .laneFail _ _ => .event
  | .retrainComplete _ _ => .event
  | .portDown _ => .event
  | .rxBankError _ _ => .event
  | .sessionAttempt _ _ _ _ => .event
  | .keyUpdate _ _ => .event
  | .flitReceive _ _ _ _ => .event
  | .idleMsg _ => .event
  | .replayMsg _ _ => .event
  | .vcadvMsg _ _ => .event
  | .spdmMsg _ _ => .event
  | .resumeMsg _ _ => .event
  | .stateMsg _ _ => .event
  | .peerSilenceTimeout _ => .event
  | .packetRoute => .event
  | .loadReq _ => .event
  | .storeReq _ => .event
  | .atomicReq _ => .event
  | .casReq _ => .event
  | .tbarriveReq _ => .event
  | .getreadReq _ => .event
  | .putwriteReq _ => .event
  | .drainReq _ => .event
  | .txlineReq _ => .event
  | .txcommitReq _ => .event
  | .reducePkt _ => .event
  | .dredResult _ => .event
  | .dredPhaseTimeout _ => .event
  | .remoteResponse _ => .event
  | .requestResend _ _ _ => .event
  | .remoteTimeout _ _ _ => .event
  | .atsCompletion _ _ => .event

/-- The instructions of the reg form by opcode (R75, R76). -/
def regCtors : List (Nat × (RegForm → Instr)) := [
  (0x01, .nop),
  (0x05, .rcv),
  (0x07, .ret),
  (0x08, .jmpi),
  (0x09, .exit),
  (0x0A, .demote),
  (0x0B, .yield),
  (0x0D, .join),
  (0x0E, .trap),
  (0x0F, .bkpt),
  (0x10, .iadd),
  (0x11, .isub),
  (0x12, .imul),
  (0x13, .imulh),
  (0x14, .imad),
  (0x15, .idiv),
  (0x16, .irem),
  (0x17, .imin),
  (0x18, .imax),
  (0x19, .iabs),
  (0x1A, .ineg),
  (0x1B, .icmp),
  (0x1C, .isel),
  (0x1D, .and),
  (0x1E, .or),
  (0x1F, .xor),
  (0x20, .tlog),
  (0x21, .shl),
  (0x22, .shr),
  (0x23, .sar),
  (0x24, .rotl),
  (0x25, .shfn),
  (0x26, .bext),
  (0x27, .bins),
  (0x28, .popc),
  (0x29, .clz),
  (0x2A, .ctz),
  (0x2B, .brev),
  (0x2C, .lea),
  (0x2D, .mov),
  (0x38, .klog),
  (0x39, .kmov),
  (0x3A, .kpop),
  (0x3B, .kfind),
  (0x3C, .srd),
  (0x3D, .swr),
  (0x3E, .pick),
  (0x5A, .fdef),
  (0x5B, .fdrd),
  (0x60, .shfl),
  (0x61, .eperm),
  (0x62, .ired),
  (0x64, .iscan),
  (0x66, .vote),
  (0x67, .matchLanes),
  (0x68, .rng),
  (0x69, .rngseed),
  (0x6A, .elect),
  (0x93, .fence),
  (0x94, .promo),
  (0x95, .tbegin),
  (0x96, .tcommit),
  (0x97, .tabort),
  (0xA0, .bar),
  (0xA1, .bararv),
  (0xA2, .barwt),
  (0xA3, .waitc),
  (0xA4, .tbarv),
  (0xA5, .tbexp),
  (0xA6, .tbwait),
  (0xA7, .hbar),
  (0xA8, .cbld),
  (0xA9, .cbwr),
  (0xAA, .cbswap),
  (0xAB, .cbbind),
  (0xAC, .cbinv),
  (0xAD, .cbrd),
  (0xAE, .cbxp),
  (0xAF, .cbsave),
  (0xB0, .mma),
  (0xB1, .mmas),
  (0xB2, .mzero),
  (0xB3, .mlda),
  (0xB4, .mdrain),
  (0xB5, .mwait),
  (0xB6, .msel24),
  (0xB7, .marm),
  (0xC0, .cpy),
  (0xC1, .stgadv),
  (0xC2, .gath),
  (0xC3, .scat),
  (0xC4, .rcpl),
  (0xC5, .cpyst),
  (0xD0, .rld),
  (0xD1, .rst),
  (0xD2, .ratom),
  (0xD3, .rcas),
  (0xD4, .rget),
  (0xD5, .rput),
  (0xD6, .rsig),
  (0xD7, .dred),
  (0xE0, .lnch),
  (0xE1, .lnchd),
  (0xE2, .lntrg),
  (0xE3, .gsig),
  (0xE8, .sysc),
  (0xE9, .rtt),
  (0xEA, .psafe),
  (0xEB, .idem)]

/-- The instructions of the imm form by opcode (R75, R76). -/
def immCtors : List (Nat × (ImmForm → Instr)) := [
  (0x2E, .movi),
  (0x2F, .iaddi),
  (0x30, .imuli),
  (0x31, .andi),
  (0x32, .ori),
  (0x33, .xori),
  (0x34, .shli),
  (0x35, .shri),
  (0x36, .sari),
  (0x37, .icmpi)]

/-- The instructions of the branch form by opcode (R75, R76). -/
def branchCtors : List (Nat × (BranchForm → Instr)) := [
  (0x02, .jmp),
  (0x03, .bru),
  (0x04, .brd),
  (0x06, .call),
  (0x0C, .brx)]

/-- The instructions of the mem form by opcode (R75, R76). -/
def memCtors : List (Nat × (MemForm → Instr)) := [
  (0x70, .ld),
  (0x71, .st),
  (0x72, .ldp),
  (0x73, .stp),
  (0x74, .ldv),
  (0x75, .stv),
  (0x76, .ldbk),
  (0x77, .stbk),
  (0x78, .ldu),
  (0x79, .stu),
  (0x7A, .prf),
  (0x7B, .cmnt),
  (0x90, .atom),
  (0x91, .acas),
  (0x92, .fatom),
  (0x98, .ldacq),
  (0x99, .strel)]

/-- The instructions of the fmt form by opcode (R75, R76). -/
def fmtCtors : List (Nat × (FmtForm → Instr)) := [
  (0x40, .fadd),
  (0x41, .fsub),
  (0x42, .fmul),
  (0x43, .fmad),
  (0x44, .fdiv),
  (0x45, .fsqrt),
  (0x46, .frcp),
  (0x47, .frsq),
  (0x48, .fexp2),
  (0x49, .flog2),
  (0x4A, .fmin),
  (0x4B, .fmax),
  (0x4C, .fsgn),
  (0x4D, .fcmp),
  (0x4E, .fclass),
  (0x4F, .fcmpk),
  (0x50, .fsel),
  (0x51, .fdot),
  (0x52, .fsum),
  (0x53, .fcvt),
  (0x54, .fcvti),
  (0x55, .fscl),
  (0x57, .fbscl),
  (0x58, .famax),
  (0x59, .ffrc),
  (0x63, .fred),
  (0x65, .fscan)]

/-- The constructor an opcode names, in one form. -/
def ctorOf {α : Type} (op : Nat) (cs : List (Nat × α)) : Option α :=
  match cs with
  | [] => none
  | p :: rest => if p.1 = op then some p.2 else ctorOf op rest

/-- The instruction of an opcode and a form; CBSAVE with MOD[1] set is CBSAVE `.rst` (R281). -/
def View.build (v : View) : Option Instr :=
  match v with
  | .reg op f => if op = 0xAF && f.mod.getLsbD 0 then some (.cbsaveRst f) else (ctorOf op regCtors).map (· f)
  | .imm op f => (ctorOf op immCtors).map (· f)
  | .branch op f => (ctorOf op branchCtors).map (· f)
  | .mem op f => (ctorOf op memCtors).map (· f)
  | .fmt op f => (ctorOf op fmtCtors).map (· f)
  | .event => none

/-- What a decode check reads besides the words: the vector allocation (R7), the launch's bank, tile and recipe masks (R265, R285, R368), whether the launch has a DRED group and the COOP flag (R486, R260), whether the split is in a handler, and TRAPAUX[63] (R24, R323). -/
structure DecodeCtx where
  alloc : Nat
  banks : Nat
  tiles : Nat
  recipes : Nat
  dredGroup : Bool
  coop : Bool
  inHandler : Bool
  deferredAux : Bool
  deriving DecidableEq, Repr

/-- The access sizes, spaces, orders, cache modifiers and SX values a memory-form opcode accepts, as sets (R233). -/
structure MemSets where
  sizes : Nat
  spaces : Nat
  orders : Nat
  caches : Nat
  sxs : Nat
  fs : Nat

/-- R233's table of the memory form; the operation bits of the atomics stand in CACHE and SX. -/
def memSets (op : Nat) : MemSets :=
  match op with
  | 0x70 => ⟨0x3F, 0xF, 7, 0xF, 3, 0x7F⟩
  | 0x71 => ⟨0x3F, 7, 0xB, 0xF, 1, 0x7F⟩
  | 0x72 => ⟨0x40, 0xF, 3, 0xF, 1, 0xFFFF⟩
  | 0x73 => ⟨0x40, 7, 3, 0xF, 1, 0xFFFF⟩
  | 0x74 => ⟨0x38, 0xF, 3, 0xF, 1, 1⟩
  | 0x75 => ⟨0x38, 7, 3, 0xF, 1, 1⟩
  | 0x76 => ⟨0x80, 0xF, 3, 0xF, 1, 0xFFFF⟩
  | 0x77 => ⟨0x80, 7, 3, 0xF, 1, 0xFFFF⟩
  | 0x78 => ⟨0xF, 0xB, 7, 0xF, 3, 0x7F⟩
  | 0x79 => ⟨0xF, 3, 0xB, 0xF, 1, 0x7F⟩
  | 0x7A => ⟨0x3F, 0xD, 1, 5, 1, 1⟩
  | 0x7B => ⟨0x3F, 5, 1, 1, 1, 0x3F⟩
  | 0x90 => ⟨0xC, 3, 0xE, 0xF, 3, 0x7F⟩
  | 0x91 => ⟨0xC, 3, 0xE, 1, 1, 0x7F⟩
  | 0x92 => ⟨0xC, 3, 2, 3, 3, 0xFFFF⟩
  | 0x98 => ⟨0xF, 1, 1, 0xF, 3, 0x7F⟩
  | 0x99 => ⟨0xF, 1, 1, 0xF, 1, 0x7F⟩
  | _ => ⟨0, 0, 0, 0, 0, 0⟩

/-- SPACE of a memory-form word (R66). -/
def Fields.space (f : Fields) : Nat := (f.mod.extractLsb' 9 2).toNat
/-- SIZE of a memory-form word (R66). -/
def Fields.size (f : Fields) : Nat := (f.mod.extractLsb' 6 3).toNat
/-- CACHE of a memory-form word (R66). -/
def Fields.cache (f : Fields) : Nat := (f.mod.extractLsb' 4 2).toNat
/-- ORDER of a memory-form word (R66). -/
def Fields.order (f : Fields) : Nat := (f.mod.extractLsb' 1 3).toNat
/-- SX of a memory-form word (R66). -/
def Fields.sx (f : Fields) : Nat := (f.mod.extractLsb' 0 1).toNat
/-- XA of a format-form word (R69). -/
def Fields.xa (f : Fields) : Bool := f.mod.getLsbD 10
/-- XB of a format-form word (R69). -/
def Fields.xb (f : Fields) : Bool := f.mod.getLsbD 9
/-- BANK of a format-form word, also in CBXP (R69, R270). -/
def Fields.bank (f : Fields) : Nat := (f.mod.extractLsb' 6 3).toNat
/-- IW of a format-form word (R69). -/
def Fields.iw (f : Fields) : Nat := (f.mod.extractLsb' 3 3).toNat
/-- NPI of a format-form word (R69). -/
def Fields.npi (f : Fields) : Nat := (f.mod.extractLsb' 1 2).toNat

/-- The field names a v-register. -/
def isV (x : BitVec 8) : Bool := x.toNat < 192
/-- The field names a g-register. -/
def isG (x : BitVec 8) : Bool := 192 ≤ x.toNat && x.toNat < 240
/-- The field names a k-register. -/
def isK (x : BitVec 8) : Bool := 240 ≤ x.toNat && x.toNat < 248

/-- A field of the position is used as a register and is illegal under R8: reserved, above the allocation, or k0 as a destination. -/
def badReg (alloc : Nat) (cl : Classes) (dest : Bool) (x : BitVec 8) : Bool :=
  isRegPos cl &&
    ((248 ≤ x.toNat && x.toNat < 255) || (isV x && alloc ≤ x.toNat) || (dest && x = 0xF0 && cl.testBit 3))

/-- D must name the first of `r` registers of its class, aligned to `r` (R68, R238). -/
def badTuple (alloc r : Nat) (x : BitVec 8) : Bool :=
  if isV x then x.toNat % r != 0 || alloc < x.toNat + r
  else if isG x then (x.toNat - 192) % r != 0 || 48 < x.toNat - 192 + r
  else false

/-- A command operand names g0, g4, … g44 (R364, R465). -/
def badCommand (x : BitVec 8) : Bool := isG x && x.toNat % 4 != 0

/-- Row adjustments that hang on MOD or C: PICK `.first` takes no B (R150), MMA without G takes no C (R291), FSGN takes B only with `.cpys` (R178). -/
def Row.adjust (r : Row) (f : Fields) : Row :=
  if r.op = 0x3E && f.mod.getLsbD 0 then { r with b := 32 }
  else if (r.op = 0xB0 || r.op = 0xB1) && !f.mod.getLsbD 0 then { r with c := 32 }
  else if r.op = 0x4C && f.c.toNat % 4 != 2 then { r with b := 32 }
  else r

/-- The encoding row of the fields' opcode. -/
def rowFor (f : Fields) : Option Row := (rows.find? (fun r => r.op == f.op.toNat)).map (·.adjust f)

/-- A special-register number is listed (R24). -/
def srListed (n : Nat) : Bool := n ≤ 0x19 || (0x20 ≤ n && n ≤ 0x2D) || n = 0x30
/-- A special register is one of the trap registers (R24). -/
def srTrap (n : Nat) : Bool := 0x20 ≤ n && n ≤ 0x2D
/-- A special register is per thread (R24). -/
def srPerThread (n : Nat) : Bool := n = 0x00 || n = 0x15 || n = 0x2C

/-- Cause 0x04: a reserved bit or value, or a value outside the accepted set (R78). -/
def reservedBad (r : Row) (f : Fields) : Bool :=
  !r.fs.testBit f.fs.toNat ||
  (match r.form with
   | .reg => (f.mod.toNat &&& (2047 - r.mod)) != 0
   | .imm => f.x = 1 && (f.b != 0 || f.c != 0 || f.mod != 0)
   | .branch => f.x = 1 && f.ext.extractLsb' 32 32 != 0
   | .mem =>
     let m := memSets r.op
     !m.sizes.testBit f.size || !m.spaces.testBit f.space || !m.orders.testBit f.order ||
     !m.caches.testBit f.cache || !m.sxs.testBit f.sx || !m.fs.testBit f.fs.toNat
   | .fmt =>
     (!f.xa && !f.xb && f.mod.extractLsb' 1 8 != 0) || ((f.xa || f.xb) && (6 ≤ f.iw || f.npi = 3))) ||
  (r.d = 32 && r.form != .branch && f.d != 0) || (r.d = 32 && r.form = .branch && f.d != 0) ||
  (r.a = 32 && f.a != 0) ||
  (r.form != .imm && r.form != .branch && ((r.b = 32 && f.b != 0) || (r.c = 32 && f.c != 0))) ||
  (match r.op with
   | 0x2C => 6 ≤ f.mod.toNat % 8 || (f.mod.getLsbD 3 && f.mod.getLsbD 4)
   | 0x4C => 3 ≤ f.c.toNat
   | 0x4D => 8 ≤ f.c.toNat
   | 0x4F => 8 ≤ f.c.toNat % 16 || 32 ≤ f.c.toNat
   | 0x51 => 16 ≤ f.c.toNat
   | 0x52 => 16 ≤ f.c.toNat
   | 0x54 => 32 ≤ f.c.toNat || (f.c.toNat % 8 ≥ 4 && 8 ≤ f.c.toNat)
   | 0x59 => 4 ≤ f.c.toNat
   | 0x92 => f.cache * 2 + f.sx > 2
   | 0x93 => f.mod.toNat = 3
   | 0xA3 => 2 ≤ f.mod.toNat / 512
   | 0xAE => 6 ≤ f.iw || f.npi = 3
   | 0xB4 => (f.mod.toNat / 8) % 4 = 3 || (f.mod.getLsbD 2 && (f.mod.toNat / 8) % 4 != 1) ||
       ((f.mod.toNat / 8) % 4 != 0 && (f.mod.toNat / 32) % 16 != 0)
   | 0xB5 => f.mod.getLsbD 0 && f.fs != 0
   | 0xC2 => 6 ≤ (f.mod.toNat / 64) % 8
   | 0xC3 => 6 ≤ (f.mod.toNat / 64) % 8
   | 0xD0 => 4 ≤ (f.mod.toNat / 64) % 8 || 3 ≤ (f.mod.toNat / 2) % 8 || ((f.mod.toNat / 2) % 8 != 2 && f.fs != 0) ||
       ((f.mod.toNat / 2) % 8 = 2 && f.fs = 0)
   | 0xD1 => 4 ≤ (f.mod.toNat / 64) % 8 || (f.mod.toNat / 2) % 8 = 2 || 4 ≤ (f.mod.toNat / 2) % 8 ||
       ((f.mod.toNat / 2) % 8 != 3 && f.fs != 0) || ((f.mod.toNat / 2) % 8 = 3 && f.fs = 0)
   | 0xD2 => (f.mod.toNat / 64) % 8 < 2 || 4 ≤ (f.mod.toNat / 64) % 8 || (f.mod.toNat / 2) % 8 = 0 || 4 ≤ (f.mod.toNat / 2) % 8 ||
       ((f.mod.toNat / 2) % 8 = 1 && f.fs != 0) || ((f.mod.toNat / 2) % 8 != 1 && f.fs = 0)
   | 0xD3 => (f.mod.toNat / 64) % 8 < 2 || 4 ≤ (f.mod.toNat / 64) % 8 || (f.mod.toNat / 2) % 8 = 0 || 4 ≤ (f.mod.toNat / 2) % 8 ||
       ((f.mod.toNat / 2) % 8 = 1 && f.fs != 0) || ((f.mod.toNat / 2) % 8 != 1 && f.fs = 0)
   | 0xD7 => (f.mod.toNat / 64) % 8 < 2 || 4 ≤ (f.mod.toNat / 64) % 8 || (f.fs = 1 && (f.mod.toNat / 64) % 8 != 2)
   | _ => false)

/-- Cause 0x05: a register field illegal under R8, or a broken tuple (R68, R160, R238, R239, R291, R302, R364, R465). -/
def registerBad (cx : DecodeCtx) (r : Row) (f : Fields) : Bool :=
  badReg cx.alloc r.d (r.op != 0x71 && r.op != 0x73 && r.op != 0x75 && r.op != 0x77 && r.op != 0x79 && r.op != 0x99 && r.op != 0xD1) f.d ||
  badReg cx.alloc r.a false f.a ||
  (r.form != .imm && r.form != .branch && (badReg cx.alloc r.b false f.b || badReg cx.alloc r.c false f.c)) ||
  (match r.op with
   | 0x70 => if f.size = 4 then badTuple cx.alloc 2 f.d else if f.size = 5 then badTuple cx.alloc 4 f.d else false
   | 0x71 => if f.size = 4 then badTuple cx.alloc 2 f.d else if f.size = 5 then badTuple cx.alloc 4 f.d else false
   | 0x74 => badTuple cx.alloc (if f.size = 5 then 4 else if f.size = 4 then 2 else 1) f.d
   | 0x75 => badTuple cx.alloc (if f.size = 5 then 4 else if f.size = 4 then 2 else 1) f.d
   | 0x76 => isV f.d && cx.alloc ≤ f.d.toNat + 1
   | 0x77 => isV f.d && cx.alloc ≤ f.d.toNat + 1
   | 0x68 => f.fs = 1 && badTuple cx.alloc 2 f.d
   | 0xB6 => badTuple cx.alloc 2 f.d
   | 0xC0 => badCommand f.a
   | 0xC2 => badCommand f.a
   | 0xC3 => badCommand f.a
   | 0xD4 => badCommand f.a
   | 0xD5 => badCommand f.a
   | _ => false)

/-- Cause 0x06: MK = 0 with MI = 1, or a mask where none is accepted (R10, R62). -/
def maskBad (r : Row) (f : Fields) : Bool :=
  (f.mkr = 0 && f.mi = 1) ||
  ((f.mkr != 0 || f.mi != 0) &&
    (match r.mask with
     | .never => true
     | .always => false
     | .unlessUniform => isRegPos r.d && isG f.d
     | .ifVecD => !isV f.d
     | .ifVecB => !isV f.b
     | .ifSpecial => !srPerThread f.b.toNat))

/-- Cause 0x07: an operand class that is not accepted, or an illegal combination of accepted values (R62, R68, R69, R78, R157, R165, R168, R242). -/
def combinationBad (r : Row) (f : Fields) : Bool :=
  !classOk r.d f.d || !classOk r.a f.a ||
  (r.form != .imm && r.form != .branch && (!classOk r.b f.b || !classOk r.c f.c)) ||
  (match r.form with
   | .mem =>
     (!(r.op = 0x92 || r.op = 0x7B || r.op = 0x98 || r.op = 0x99) && f.order < 2 && f.size < 6 && f.fs != 0) ||
     (!(0x90 ≤ r.op && r.op ≤ 0x92) && f.sx = 1 && 3 ≤ f.size)
   | .fmt =>
     (f.mod.toNat &&& (2047 - (r.mod ||| 0x1FE))) != 0 || (r.op < 0x60 && (f.xa || f.xb) && isRegPos r.d && isG f.d)
   | _ => false) ||
  (match r.op with
   | 0x4C => f.xb && f.c.toNat % 4 != 2
   | 0x54 => f.xa && 4 ≤ f.c.toNat % 8
   | 0x66 => isK f.d && f.fs != 0
   | 0x7B => 3 ≤ f.fs.toNat && (f.a != 255 || f.b != 255)
   | _ => false)

/-- Cause 0x08: the instruction's own rules (R24, R190, R260, R265, R285, R323, R368, R486). -/
def specificBad (cx : DecodeCtx) (r : Row) (f : Fields) : Bool :=
  (r.form = .fmt && (f.xa || f.xb) && !cx.banks.testBit f.bank) ||
  (match r.op with
   | 0x5A => f.fs = 15
   | 0x3C => !srListed f.b.toNat
   | 0x3D => !srListed f.b.toNat || (srTrap f.b.toNat && !cx.inHandler) || !(srTrap f.b.toNat || f.b = 0x15)
   | 0xA7 => !cx.coop
   | 0xAE => !cx.banks.testBit f.bank
   | 0xB5 => !f.mod.getLsbD 0 && !cx.tiles.testBit f.fs.toNat
   | 0xC0 => !cx.recipes.testBit f.fs.toNat
   | 0xC4 => !cx.recipes.testBit f.fs.toNat
   | 0xD7 => !cx.dredGroup
   | 0xE9 => !cx.inHandler || (f.fs = 1 && cx.deferredAux)
   | op =>
     ((0xA8 ≤ op && op ≤ 0xAD || op = 0xAF) && !cx.banks.testBit f.fs.toNat) ||
     ((0xB0 ≤ op && op ≤ 0xB4 || op = 0xB7) && !cx.tiles.testBit f.fs.toNat))

/-- The decode checks in R78's order, each with its cause. -/
def decodeChecks (cx : DecodeCtx) (f : Fields) : List (Nat × Bool) :=
  match rowFor f with
  | none => [(1, true)]
  | some r =>
    [(2, !r.la && f.la != 0),
     (3, (r.ext = .no && f.x = 1) || (r.ext = .req && f.x = 0)),
     (4, reservedBad r f),
     (5, registerBad cx r f),
     (6, maskBad r f),
     (7, combinationBad r f),
     (8, specificBad cx r f)]

/-- The cause of the first check that fails (R78). -/
def firstCause (cs : List (Nat × Bool)) : Option Nat := (cs.find? (fun p => p.2)).map (·.1)

/-- The ILLOP cause of the fields, if any. -/
def illopCause (cx : DecodeCtx) (f : Fields) : Option Nat := firstCause (decodeChecks cx f)

/-- The mask of the fields. -/
def Fields.mask (f : Fields) : Mask := ⟨f.mi = 1, ⟨f.mkr.toNat, f.mkr.isLt⟩⟩

/-- A space by its code (R66). -/
def spaceOf (n : Nat) : Space :=
  match n with
  | 0 => .glob
  | 1 => .scratch
  | 2 => .priv
  | _ => .const

/-- The code of a space. -/
def spaceCode (s : Space) : Nat :=
  match s with
  | .glob => 0
  | .scratch => 1
  | .priv => 2
  | .const => 3

/-- An order by its code (R66). -/
def orderOf (n : Nat) : Order :=
  match n with
  | 0 => .plain
  | 1 => .relaxed
  | 2 => .acquire
  | _ => .release

/-- The code of an order. -/
def orderCode (o : Order) : Nat :=
  match o with
  | .plain => 0
  | .relaxed => 1
  | .acquire => 2
  | .release => 3

/-- The 27 immediate bits [27:1] (R64). -/
def Fields.imm27 (f : Fields) : BitVec 27 := (f.b ++ f.c ++ f.mod : BitVec 27)

/-- The typed form that fields stand for, under their row. -/
def typedOf (r : Row) (f : Fields) : View :=
  match r.form with
  | .reg => .reg r.op ⟨f.la, f.fs, f.mask, opndOf r.d f.d, opndOf r.a f.a, opndOf r.b f.b, opndOf r.c f.c, f.mod⟩
  | .imm => .imm r.op ⟨f.fs, f.mask, opndOf r.d f.d, opndOf r.a f.a,
      if f.x = 1 then f.ext else f.imm27.signExtend 64, f.x = 1⟩
  | .branch => .branch r.op ⟨f.fs, f.mask, opndOf r.d f.d, opndOf r.a f.a, f.imm27,
      if f.x = 1 then some (f.ext.extractLsb' 0 32) else none⟩
  | .mem => .mem r.op ⟨f.la, f.fs, f.mask, opndOf r.d f.d, opndOf r.a f.a, opndOf r.b f.b, opndOf r.c f.c,
      spaceOf f.space, ⟨f.size, (f.mod.extractLsb' 6 3).isLt⟩, f.mod.extractLsb' 4 2, orderOf f.order, f.mod.getLsbD 0,
      if f.x = 1 then some f.ext else none⟩
  | .fmt => .fmt r.op ⟨f.la, f.fs, f.mask, opndOf r.d f.d, opndOf r.a f.a, opndOf r.b f.b, opndOf r.c f.c,
      f.mod.getLsbD 10, f.mod.getLsbD 9, f.mod.extractLsb' 6 3, f.mod.extractLsb' 3 3, f.mod.extractLsb' 1 2, f.mod.getLsbD 0⟩

/-- A Boolean as one bit. -/
def bit1 (b : Bool) : BitVec 1 := if b then 1 else 0

/-- The fields of a typed form; `none` for an event. -/
def View.fields (v : View) : Option Fields :=
  match v with
  | .reg op f => some ⟨BitVec.ofNat 8 op, f.la, f.fs, bit1 f.mask.neg, BitVec.ofNat 3 f.mask.k.val, (opndBits f.d), (opndBits f.a), (opndBits f.b), (opndBits f.c), f.mod, 0, 0⟩
  | .imm op f =>
    let i27 : BitVec 27 := if f.long then 0 else f.imm.setWidth 27
    some ⟨BitVec.ofNat 8 op, 0, f.fs, bit1 f.mask.neg, BitVec.ofNat 3 f.mask.k.val, (opndBits f.d), (opndBits f.a),
      i27.extractLsb' 19 8, i27.extractLsb' 11 8, i27.extractLsb' 0 11, bit1 f.long, if f.long then f.imm else 0⟩
  | .branch op f =>
    some ⟨BitVec.ofNat 8 op, 0, f.fs, bit1 f.mask.neg, BitVec.ofNat 3 f.mask.k.val, (opndBits f.d), (opndBits f.a),
      f.off.extractLsb' 19 8, f.off.extractLsb' 11 8, f.off.extractLsb' 0 11, bit1 f.recv.isSome,
      (f.recv.getD 0).setWidth 64⟩
  | .mem op f =>
    some ⟨BitVec.ofNat 8 op, f.la, f.fs, bit1 f.mask.neg, BitVec.ofNat 3 f.mask.k.val, (opndBits f.d), (opndBits f.a), (opndBits f.b), (opndBits f.c),
      (BitVec.ofNat 2 (spaceCode f.space) ++ BitVec.ofNat 3 f.size.val ++ f.cache ++ BitVec.ofNat 3 (orderCode f.order) ++ bit1 f.sx : BitVec 11),
      bit1 f.disp.isSome, f.disp.getD 0⟩
  | .fmt op f =>
    some ⟨BitVec.ofNat 8 op, f.la, f.slot, bit1 f.mask.neg, BitVec.ofNat 3 f.mask.k.val, (opndBits f.d), (opndBits f.a), (opndBits f.b), (opndBits f.c),
      (bit1 f.xa ++ bit1 f.xb ++ f.bank ++ f.iw ++ f.npi ++ bit1 f.neg : BitVec 11), 0, 0⟩
  | .event => none

/-- The fields of an instruction; `none` for an event. -/
def instrFields (i : Instr) : Option Fields := (viewOf i).fields

end Sys2Proof.Machine
end

