-- ==== Sys2Proof/Machine/Map.lean ====
section
/-! DEFINITION. Sparse data by key: a list of (key, value) pairs in one canonical form, keys strictly rising and no pair equal to what an unlisted key reads as. Memories, register files, scratchpads and tiles are such lists. -/

namespace Sys2Proof.Machine

/-- A sparse map from numbers. -/
abbrev AMap (α : Type) := List (Nat × α)

/-- What the map holds at `k`; `d` where nothing is listed. -/
def AMap.get {α : Type} (m : AMap α) (k : Nat) (d : α) : α :=
  match m with
  | [] => d
  | p :: rest => if p.1 = k then p.2 else AMap.get rest k d

/-- What the map lists at `k`, if anything. -/
def AMap.find {α : Type} (m : AMap α) (k : Nat) : Option α :=
  match m with
  | [] => none
  | p :: rest => if p.1 = k then some p.2 else AMap.find rest k

/-- The map with nothing listed at `k`. -/
def AMap.erase {α : Type} (m : AMap α) (k : Nat) : AMap α :=
  m.filter (fun p => p.1 != k)

/-- Put a pair at its place in a rising list. -/
def AMap.insert {α : Type} (m : AMap α) (k : Nat) (v : α) : AMap α :=
  match m with
  | [] => [(k, v)]
  | p :: rest => if k < p.1 then (k, v) :: p :: rest else p :: AMap.insert rest k v

/-- The map with `v` listed at `k`, whatever `v` is. -/
def AMap.put {α : Type} (m : AMap α) (k : Nat) (v : α) : AMap α :=
  AMap.insert (AMap.erase m k) k v

/-- The map with `v` at `k`, where unlisted keys read as `d`: writing `d` removes the entry. -/
def AMap.set {α : Type} [DecidableEq α] (m : AMap α) (k : Nat) (v d : α) : AMap α :=
  if v = d then AMap.erase m k else AMap.put m k v

/-- The keys rise strictly. -/
def AMap.sorted {α : Type} (m : AMap α) : Bool :=
  match m with
  | [] => true
  | p :: rest => rest.all (fun q => p.1 < q.1) && AMap.sorted rest

/-- The canonical form: keys strictly rising, no value equal to the default `d`. -/
def AMap.wf {α : Type} [DecidableEq α] (m : AMap α) (d : α) : Bool :=
  AMap.sorted m && m.all (fun p => p.2 != d)

/-- Package memory: bytes by location key; an unlisted byte reads zero (R457). -/
abbrev Memory := AMap Byte

/-- One byte of a memory. -/
def Memory.read (m : Memory) (a : Nat) : Byte := AMap.get m a 0

/-- A memory with one byte written. -/
def Memory.write (m : Memory) (a : Nat) (b : Byte) : Memory := AMap.set m a b 0

/-- The canonical form of package memory. -/
def Memory.wf (m : Memory) : Bool := AMap.wf m 0

end Sys2Proof.Machine
end

