-- ==== Sys2Proof/Machine/State.lean ====
section
/-! DEFINITION. The state of one Uamor 9616 package (INVENTORY.md, State), its faults and refusals, and the state after reset. -/

namespace Sys2Proof.Machine

/-- Why the machine itself stops. The spec gives the machine no such stop, so no meaning raises it. -/
inductive Fault where
  /-- Raised by nothing; safe. -/
  | stuck
  deriving DecidableEq, Repr

/-- Why a step has no meaning. -/
inductive Refusal where
  /-- Raised by an arm of the dispatcher whose instruction is not modelled; safe. -/
  | notModelled (mnemonic : String)
  /-- Raised by the meaning of an instruction word when no resident split is issuing; safe: the step issues only for a resident split. -/
  | noSplit (mnemonic : String)
  deriving DecidableEq, Repr

/-! ### Group state (R6, R97 to R99, R107) -/

/-- What a split waits for while it is parked (R98), or in state 2 for a fetch (R321). -/
inductive Wait where
  | none
  /-- Parked at the token of an RCV at this address (R103). -/
  | token (pc : Word)
  /-- Parked at the JOIN at this address (R106). -/
  | join (pc : Word)
  /-- Parked at named barrier `n` until phase `q` completes (R257). -/
  | bar (n q : Nat)
  /-- WAITC: scope, destination field, space 0 or 1, address, threshold (R258). -/
  | counted (scope : Nat) (d : Opnd) (space : Nat) (addr thr : Word)
  /-- TBWAIT: destination field, team, side and offset of the TB, parity (R259). -/
  | tb (d : Opnd) (team side off par : Nat)
  /-- HBAR at a scope (R260). -/
  | hbar (scope : Nat)
  /-- PROMO of a core (R251). -/
  | promo (core : Nat)
  /-- TCOMMIT's answer: destination field (R254). -/
  | commit (d : Opnd) (scope : Nat)
  /-- MWAIT, the number of its instruction, on a tile, or on all tiles as 4 (R309). -/
  | matrix (tile inst : Nat)
  /-- GATH or SCAT `.strict` until its list has been read: destination field and tag (R362). -/
  | engine (d : Opnd) (tag : Nat)
  /-- A follower's or leader's matrix instruction waits for its pair (R208, R294). -/
  | paired
  /-- SYSC waits for ring space (R325). -/
  | sysc
  /-- A fetch miss waits for the host's page request (R321). -/
  | fetch (va : Word)
  /-- In state 2: the instruction waits for its group's earlier accesses or for a location (R320; log 2). -/
  | held
  deriving DecidableEq, Repr, Inhabited

/-- A split-table entry (R97). STATE is `st`; TOKEN and DEPTH are those of `frame`. -/
structure Split where
  st : Nat := 0
  mask : Half := 0
  pc : Word := 0
  frame : Nat := 0
  wait : Wait := .none
  /-- Address of the instruction at which the split parked (R313). -/
  parkPc : Word := 0
  /-- Cycles since the last issue in which it was ready and not selected (R206). -/
  waitCnt : Nat := 0
  urgent : Bool := false
  /-- In a trap handler: state 6 while it can issue, and back to it after a wait (R98, R114; log 20). -/
  handler : Bool := false
  /-- Stopped at a listed address for a pending pre-emption (R328). -/
  halted : Bool := false
  deriving DecidableEq, Repr, Inhabited

/-- A token frame (R99). -/
structure Frame where
  token : Word := 0
  parent : Nat := 0
  depth : Nat := 0
  valid : Bool := false
  deriving DecidableEq, Repr, Inhabited

/-- A spill-stack entry (R107). -/
structure Spill where
  mask : Half
  token : Word
  owner : Nat
  frame : Nat
  park : Bool
  pc : Word
  /-- The owner has gone: the entry becomes a split as soon as one is free (R110). -/
  loose : Bool := false
  deriving DecidableEq, Repr, Inhabited

/-- Where a pending result comes from. -/
inductive PendSrc where
  /-- The result is formed; it can arrive at any moment. -/
  | ready
  /-- The instruction waits in the operand log for a page (R319). -/
  | logged
  /-- An atomic or load waits to be performed at its location (R235). -/
  | memory
  /-- A remote reply is awaited (R330). -/
  | remote
  /-- A matrix instruction, reduction or launch acceptance has not completed. -/
  | unit
  deriving DecidableEq, Repr, Inhabited

/-- One pending register write (R201), with its lookahead window (R72). `reg` is a register field value; a g-register's value stands at thread 0 of `vals`, and its window is counted for `winThread`. -/
structure Pend where
  id : Nat
  /-- Number of the instruction, shared by the registers of a tuple. -/
  inst : Nat
  pc : Word
  reg : Nat
  mask : Half
  vals : AMap Word := []
  /-- Instructions left in each thread's window (R72). -/
  cnt : AMap Nat := []
  /-- The instruction named a window, so the entry stands in the window area (R332). -/
  windowed : Bool := false
  /-- The lowest thread of the active set, whose window counts for a g-register (R73). -/
  winThread : Nat := 0
  /-- Threads in which a window instruction wrote the destination (R72). -/
  disc : Half := 0
  src : PendSrc := .ready
  /-- Arrived and held for its window (R202). -/
  arrived : Bool := false
  /-- Addresses of a word read from memory, by thread; none for another result (R398, R399). -/
  addrs : Option (AMap Word) := none
  /-- Its read check failed twice: the registers it is written to raise UCE with cause 0x08 (R398). -/
  failed : Bool := false
  /-- Sign and size of a loaded value, for an image (R330). -/
  size : Nat := 3
  sx : Bool := false
  /-- Numbers of its pending-reply entry and window entry in an image (R332). -/
  entry : Nat := 0
  window : Nat := 0
  deriving DecidableEq, Repr, Inhabited

/-- A page on which a trap reports: lowest thread, its lowest address on the page, and the kind of access (R317). -/
structure FaultPage where
  addr : Nat
  thr : Nat
  write : Bool := false
  fetch : Bool := false
  remote : Bool := false
  deriving DecidableEq, Repr, Inhabited

/-- A trap to be presented (R313). -/
structure TrapReq where
  code : Nat
  aux : Nat := 0
  addrs : AMap Word := []
  pages : List FaultPage := []
  deferred : Bool := false
  /-- The trap aborts the group's open transaction with code 4 (R253). -/
  txAbort : Bool := false
  /-- Of a UCE: the die that logs the consumed word of memory, and its location (R399, R454). -/
  word : Option (Nat × Nat) := none
  deriving DecidableEq, Repr, Inhabited

/-- A trap with the instruction that raised it (R79). -/
structure TrapAt where
  req : TrapReq
  pc : Word
  w0 : Word
  w1 : Word
  /-- Address of the split's next unissued instruction (R315). -/
  resume : Word
  deriving DecidableEq, Repr, Inhabited

/-- A deferred trap not yet presented: its split, and the instruction whose pending writes it cancels (R315). -/
structure Deferred where
  split : Nat
  inst : Nat
  trap : TrapAt
  /-- An E2E: LAUNCH and the location of its record (R397). -/
  e2e : Option (Nat × Nat) := none
  deriving DecidableEq, Repr, Inhabited

/-- One byte location (R220, R376): package memory by s·2^36 + O, host memory by I/O address, or scratchpad of a team's side (0 leader, 1 follower). -/
inductive Loc where
  | mem (k : Nat)
  | host (djid a : Nat)
  | sp (team side off : Nat)
  deriving DecidableEq, Repr, Inhabited

/-- How an access reaches its location (R218, R219): through the issuing core's L1 write-back, through it to L2, at the point of coherence in the L2 alone, pinned in the L1 of one core, with the CACHE under which a line that finds its area full is reached, or at the memory controller, which no slice keeps. -/
inductive Path where
  | l1 | through | noalloc | home
  | pinned (core cache : Nat)
  | direct
  deriving DecidableEq, Repr, Inhabited

/-- A resolved byte: where it lies, and how it is reached. -/
structure Cell where
  loc : Loc
  path : Path
  /-- Virtual address of the byte, for ranged orderings (R244). -/
  va : Nat := 0
  /-- The team and group whose private byte it is (R215, R216). -/
  priv : Option (Nat × Nat) := none
  dtag : Bool := false
  /-- HIDX of a page under HOME 2: the slice that holds the line (R378). -/
  slice : Option Nat := none
  deriving DecidableEq, Repr, Inhabited

/-- An atomic's operation (R245 to R247), and the bit write of a packed store (R237). -/
inductive AtomOp where
  /-- OPC of R245. -/
  | int (opc : Nat)
  | cas
  /-- OPC of R247 under a format definition word. -/
  | flt (opc : Nat) (fmt : Word)
  /-- The bits of `Acc.cmp` take those of `Acc.val`; the others stay (R237). -/
  | bits
  deriving DecidableEq, Repr, Inhabited

/-- A register that receives bits [lo+len-1:lo] of an access's bytes at bit `dst` (R236, R237, R239). -/
structure Recv where
  reg : Nat
  lo : Nat
  len : Nat
  dst : Nat := 0
  sx : Bool := false
  deriving DecidableEq, Repr, Inhabited

/-- One thread's access inside a memory instruction: its effective address, its bytes ascending as virtual or scratchpad addresses and, once resolved, as cells; for a write the value, for a compare-and-swap the comparand; and the registers it fills. -/
structure Acc where
  thr : Nat
  ea : Word
  va : List Nat := []
  cells : List Cell := []
  val : Nat := 0
  cmp : Nat := 0
  recvs : List Recv := []
  deriving DecidableEq, Repr, Inhabited

/-- What a memory instruction does once its accesses are resolved. -/
inductive MemOp where
  | load
  | store
  | atomic (op : AtomOp)
  deriving DecidableEq, Repr, Inhabited

/-- What a codebook instruction does with the words it reads: CBLD, CBBIND with its descriptor and address, or the load of a bank image (R273, R276, R281); or RCPL with a recipe image (R368). -/
inductive BookKind where
  | load
  | bind (config : Nat) (back : Word)
  | image
  /-- RCPL of the image at a place into the recipe slot that `BookUse.bank` numbers (R368). -/
  | recipe
  deriving DecidableEq, Repr, Inhabited

/-- The bank and first entry of a codebook load. -/
structure BookUse where
  bank : Nat
  first : Nat
  kind : BookKind
  deriving DecidableEq, Repr, Inhabited

/-- A memory instruction with its operands read (R236 to R248). -/
structure MemReq where
  op : MemOp
  space : Space
  /-- Required alignment in bytes (R210); 1 where there is none. -/
  align : Nat
  cache : Nat
  order : Order
  scope : Nat
  /-- First address and log2 of the size of a ranged access (R243). -/
  range : Option (Nat × Nat) := none
  accs : List Acc := []
  /-- Registers the instruction writes, and whether it is uniform (R12). -/
  dests : List Nat := []
  uniform : Bool := false
  la : Nat := 0
  /-- A codebook load: its words are pseudo-registers 1000 on. -/
  book : Option BookUse := none
  /-- The access meets no rule of a DET region: GSIG, RCPL and the codebook instructions (R446, R282, R370; log 98). -/
  untagged : Bool := false
  /-- Threads of a uniform access, which acquires or releases for all of them (R240). -/
  party : Half := 0
  /-- It issued inside a transaction, which had buffered this many accesses (R253). -/
  seen : Option Nat := none
  deriving DecidableEq, Repr, Inhabited

/-- An operand-log entry (R319, R332). -/
structure LogEntry where
  inst : Nat
  pc : Word
  w0 : Word
  w1 : Word
  split : Nat
  active : Half
  /-- Operand slots A, B, C, D to D+3: the words each register held. -/
  slots : List (Option (List Word)) := []
  rngc : AMap Word := []
  event : Nat := 0
  req : MemReq
  /-- Requests (die, REQID) still awaited. -/
  waits : List (Nat × Nat) := []
  /-- Pages it faulted on: base and log2 of the size (R320). -/
  pages : List (Nat × Nat) := []
  deriving DecidableEq, Repr, Inhabited

/-- A buffered access of a transaction, in program order (R253). -/
structure TxAcc where
  op : MemOp
  acc : Acc
  /-- Remote: destination package and VA; none for a local access. -/
  remote : Option (Nat × Nat) := none
  djid : Nat := 0
  deriving DecidableEq, Repr, Inhabited

/-- The transaction of a group (R252 to R255). -/
structure Tx where
  accs : List TxAcc := []
  /-- Home die of the first transactional store; a remote home is 8 plus its package. -/
  home : Option Nat := none
  /-- Abort code and TABORT's code byte. -/
  abort : Option (Nat × Nat) := none
  /-- The commit was sent to its home, and its answer (R254). -/
  sent : Bool := false
  locked : Bool := false
  answer : Option Nat := none
  deriving DecidableEq, Repr, Inhabited

/-- An uncorrectable register word: the register field value, its thread (0 for a g- or k-register), the UCE cause, and the address of a word that a failed read check brought (R398, R399). -/
structure BadReg where
  reg : Nat
  thr : Nat := 0
  cause : Nat := 1
  addr : Word := 0
  deriving DecidableEq, Repr, Inhabited

/-- The state of one resident group (R6). -/
structure Group where
  gidx : Nat := 0
  alloc : Nat := 0
  /-- Core of the group, die·512 + cluster·8 + core (R251), and its residency number (R198). -/
  core : Nat := 0
  resid : Nat := 0
  /-- Vector registers: register r of thread t at r·32 + t. -/
  v : AMap Word := []
  g : AMap Word := []
  k : AMap Half := []
  f : AMap Word := []
  live : Half := 0
  dem : Half := 0
  rngc : AMap Word := []
  splits : List Split := []
  frames : List Frame := []
  spill : List Spill := []
  /-- TRAPCODE to TRAPAUX by their numbers 0x20 to 0x2D (R24). -/
  trap : AMap Word := []
  trapAddr : AMap Word := []
  pends : List Pend := []
  nextPend : Nat := 0
  nextInst : Nat := 0
  oplog : List LogEntry := []
  tx : Option Tx := none
  idem : Bool := false
  event : Nat := 0
  /-- Traps of splits in state 7 (R114), by split. -/
  waiting : AMap TrapAt := []
  deferred : List Deferred := []
  /-- A region-delivered trap stopped the group (R316). -/
  stopped : Bool := false
  retired : Bool := false
  /-- Threads that have executed LNTRG (R445). -/
  trigger : Half := 0
  /-- Barriers at which a thread arrived with BARARV and has not waited, as barrier·32 + thread (R409). -/
  arrived : List Nat := []
  /-- Threads that have executed HBAR at each scope and wait (R402). -/
  hbarArr : AMap Half := []
  /-- Instructions issued since a pre-emption request (R328). -/
  preCount : Nat := 0
  /-- It was stopped after 2,048 instructions and takes a full save (R328). -/
  forced : Bool := false
  /-- Remote stores not yet acknowledged when the group was frozen (R330). -/
  ackcnt : Nat := 0
  /-- Tag of the group's most recent engine operation, 0 for none (R369). -/
  lastOp : Nat := 0
  /-- The entry that issued last; 7 before the first issue (R205, R334). -/
  lastSplit : Nat := 7
  /-- Threads whose instruction at their split's PC counted in their windows before it trapped (R72). -/
  counted : Half := 0
  /-- Uncorrectable register words (R399). -/
  bad : List BadReg := []
  deriving DecidableEq, Repr, Inhabited

/-! ### Parts of a team's state (R256, R411) -/

/-- A named barrier (R256). -/
structure Barrier where
  arrivals : Nat := 0
  /-- Threads that have arrived in this phase, as group·32 + thread. -/
  who : List Nat := []
  q : Nat := 0
  e : Nat := 0
  deriving DecidableEq, Repr, Inhabited

/-- A race tag (R411), and the location of the team that made it. -/
structure RaceTag where
  kind : Nat := 0
  opc : Nat := 0
  asz : Nat := 0
  thr : Nat := 0
  gidx : Nat := 0
  team : Nat := 0
  pph : Nat := 0
  dph : Nat := 0
  cph : Nat := 0
  /-- Cluster of the party, die·64 + cluster. -/
  place : Nat := 0
  deriving DecidableEq, Repr, Inhabited

/-! ### Core state -/

/-- A byte of an L1 (R218). -/
structure L1Byte where
  val : Byte
  dirty : Bool := false
  /-- The team and group whose private byte it is (R215, R216). -/
  priv : Option (Nat × Nat) := none
  /-- Virtual address through which the byte was last brought in or written (R244). -/
  va : Nat := 0
  /-- A core-scope release has covered the dirty byte, or wrote it (R228). -/
  covered : Bool := false
  deriving DecidableEq, Repr, Inhabited

/-- A leaf entry as a TLB holds it (R383, R386). -/
structure Leaf where
  djid : Nat
  /-- Base virtual address and log2 of the page size. -/
  base : Nat
  log : Nat
  pa : Nat
  place : Nat
  home : Nat
  hidx : Nat
  pager : Bool
  dtag : Bool
  x : Bool
  w : Bool
  deriving DecidableEq, Repr, Inhabited

/-- A codebook plane: 256 entries, their valid bits, the 11-bit configuration word, and the backing address of a bound plane (R263, R276). -/
structure Plane where
  entries : AMap Word := []
  valid : Nat := 0
  config : Nat := 0
  back : Word := 0
  deriving DecidableEq, Repr, Inhabited

/-- A codebook bank (R263). -/
structure Bank where
  p0 : Plane := {}
  p1 : Plane := {}
  active : Bool := false
  /-- The plane that was active before the swaps of this cycle (R269). -/
  before : Option Bool := none
  deriving DecidableEq, Repr, Inhabited

/-- A CBLD or CBBIND copy in flight (R273, R276): the words read, the first entry they go to, and the backing address of a bind. -/
structure BankLoad where
  id : Nat
  team : Nat
  grp : Nat
  bank : Nat
  first : Nat
  vals : List Word
  /-- Plane the copy goes to. -/
  plane : Bool
  back : Option Word := none
  deriving DecidableEq, Repr, Inhabited

/-- An arming: contributions expected and added, and the TB (R308). -/
structure Arming where
  count : Nat
  got : Nat := 0
  team : Nat
  side : Nat
  off : Nat
  deriving DecidableEq, Repr, Inhabited

/-- State of an accumulator tile (R284, R308). -/
structure Tile where
  /-- Element (m, n) at 128·m + n; unlisted is +0. -/
  vals : AMap Half := []
  invalid : Bool := false
  armed : Option Arming := none
  /-- Contribution indices received while armed (R308). -/
  seen : List Nat := []
  deriving DecidableEq, Repr, Inhabited

/-- Which matrix instruction an order entry holds (R295). -/
inductive MatrixKind where
  | mma | mmas | mzero | mlda | mdrain | marm
  deriving DecidableEq, Repr, Inhabited

/-- A matrix instruction in a core's array order (R288, R295). -/
structure MatrixOp where
  id : Nat
  kind : MatrixKind
  team : Nat
  grp : Nat
  split : Nat
  inst : Nat
  pc : Word
  w0 : Word
  tile : Nat
  /-- It drives both arrays of the pair (R294). -/
  paired : Bool := false
  /-- The place a paired instruction of the leader takes in the follower's order (R294). -/
  copy : Bool := false
  /-- Destination field of the status, if it has one. -/
  reg : Option Nat := none
  /-- Operand words read at issue: A, B, C; whether B was vz; and MOD. -/
  a : Word := 0
  b : Word := 0
  c : Word := 0
  bNone : Bool := false
  mod : Nat := 0
  /-- Format definitions read at issue. -/
  fmts : AMap Word := []
  /-- Codebook plane active at issue, and which of the bank's it was (R299). -/
  plane : Option Plane := none
  side : Bool := false
  /-- What its operand-log entry records: the active set, the event, the operand slots that hold a value, the RNG counters (R311, R332). -/
  active : Half := 0
  event : Nat := 0
  opmask : Nat := 0
  rngc : AMap Word := []
  /-- Team-space scratchpad intervals it reads (R310). -/
  reads : List (Nat × Nat) := []
  started : Bool := false
  status : Nat := 0
  /-- Registration of its range-lock entry (R301, R306). -/
  lock : Option Nat := none
  /-- Pager requests awaited (R301). -/
  waits : List (Nat × Nat) := []
  /-- A fault that cannot be serviced: its address and cause. -/
  fatal : Option (Nat × Nat) := none
  /-- Peer contributions not yet answered (R307). -/
  peers : Nat := 0
  deriving DecidableEq, Repr, Inhabited

/-- The first instruction that a slot selected in a cycle: its split, and the residency number of its group (R335). -/
structure Selected where
  team : Nat
  grp : Nat
  split : Nat
  resid : Nat
  /-- Its group has the greedy claim on the next cycle: no YIELD gave it up (R204). -/
  claim : Bool := true
  deriving DecidableEq, Repr, Inhabited

/-- What a slot selects in its turn, until its next turn settles it (R203 to R206). -/
structure Pick where
  /-- The first instruction, then its partner (R203, R335). -/
  chosen : List SplitRef
  /-- Residency number of the group. -/
  resid : Nat
  /-- Ready splits that were not selected, whose wait this cycle counts in (R206). -/
  passed : List SplitRef := []
  /-- The split put off to the slot's next cycle (R14, R192). -/
  next : Option SplitRef := none
  /-- Of those chosen, the splits whose instruction could not issue after all (R200). -/
  missed : List SplitRef := []
  /-- A YIELD of the group has issued (R204). -/
  yielded : Bool := false
  deriving DecidableEq, Repr, Inhabited

/-- None of those chosen has issued: the slot selects again in the same cycle. -/
def Pick.void (p : Pick) : Bool := p.chosen.all p.missed.contains

/-- One core. -/
structure Core where
  l1 : AMap L1Byte := []
  /-- Lines, by key div 128, of the area reserved for pages pinned in this L1. Their bytes are those of the L2, to which every store goes (R219). -/
  pinned : List Nat := []
  tlb : List Leaf := []
  banks : AMap Bank := []
  loads : List BankLoad := []
  tiles : AMap Tile := []
  order : List MatrixOp := []
  /-- Round-robin policy (R207). -/
  rr : Bool := false
  /-- The policy asked for, which takes effect when no group is resident (R207). -/
  rrNext : Bool := false
  /-- Age order of each slot, oldest first: team and group (R204). -/
  ages : AMap (List (Nat × Nat)) := []
  /-- What issued first in each slot's last cycle, if something did (R204, R335). -/
  last : AMap Selected := []
  /-- What each slot has selected in its turn. -/
  pick : AMap Pick := []
  /-- Cycle in which the core last selected a matrix instruction, plus 1 (R295). -/
  matrixAt : Nat := 0
  /-- The split that issues next in a slot, after one whose shared registers it names (R14). -/
  next : AMap SplitRef := []
  /-- Round-robin pointer of each slot (R205). -/
  ptr : AMap Nat := []
  deriving DecidableEq, Repr, Inhabited

/-- One team: resident, or saved (R329). -/
structure Team where
  launch : Nat := 0
  linear : Nat := 0
  /-- The core, or the leader of the pair (R208). -/
  core : Nat := 0
  paired : Bool := false
  /-- Order of residency, for the window's rank (R213). -/
  epoch : Nat := 0
  groups : AMap Group := []
  /-- Scratchpad bytes written, by side·2^32 + offset; an unlisted byte is undefined (R327). -/
  sp : AMap Byte := []
  bars : AMap Barrier := []
  stage : Nat := 0
  /-- Schedule entries released, by number (R361). -/
  released : List Nat := []
  /-- A pre-emption request is pending (R328). -/
  preempt : Bool := false
  /-- The team is saved in an image at this address and not resident (R329). -/
  saved : Option Nat := none
  /-- It has been restored and waits for its bound codebook planes (R283). -/
  restoring : Bool := false
  /-- Contents of a saved team's image that the model keeps as data (log 16): tiles by 4·side + tile, banks by 8·side + bank, and whether the whole scratchpad was saved. -/
  savedTiles : AMap Tile := []
  savedBanks : AMap Bank := []
  fullSave : Bool := false
  /-- Scratchpad bytes saved per core (R333). -/
  spBytes : Nat := 0
  /-- Stalled global streams abandoned by a save, each with its side (R311). -/
  savedOps : List (Nat × MatrixOp) := []
  /-- HBAR scopes at which the cluster combiner has counted the team (R402). -/
  hbarDone : List Nat := []
  spTags : AMap RaceTag := []
  ivTags : AMap RaceTag := []
  deriving DecidableEq, Repr, Inhabited

/-! ### Memory system -/

/-- A store or atomic issued and not yet performed (R235). -/
structure PStore where
  id : Nat
  team : Nat
  grp : Nat
  split : Nat
  inst : Nat
  launch : Nat
  core : Nat
  op : MemOp
  accs : List Acc
  /-- Strong accesses keep program order among themselves (R222, R225). -/
  strong : Bool := false
  la : Nat := 0
  pc : Word := 0
  w0 : Word := 0
  w1 : Word := 0
  /-- The check code that it carries for each sector it writes, by location key div 32 (R395). -/
  codes : AMap Nat := []
  deriving DecidableEq, Repr, Inhabited

/-- Who waits on a pager request (R389). -/
inductive Waiter where
  | inst (team grp inst : Nat)
  | engine (cluster tag : Nat)
  | matrix (core id : Nat)
  | remote (p : Packet)
  /-- A restored team's bound codebook planes (R283). -/
  | restore (team : Nat)
  deriving DecidableEq, Repr, Inhabited

/-- The effective fields of a region (R428, R429). -/
structure Region where
  rcb : Nat := 0
  prio : Nat := 0
  det : Bool := false
  idem : Bool := false
  rr : Bool := false
  fdom : Nat := 0
  djid : Nat := 0
  root : Word := 0
  wdbar : Nat := 0
  wdpager : Nat := 0
  pager : Nat := 0
  pring : Nat := 0
  plogsz : Nat := 0
  pprod : Nat := 0
  pcons : Nat := 0
  presp : Nat := 0
  plaunch : Nat := 0
  nring : Nat := 0
  nlogsz : Nat := 0
  msix : Nat := 0
  coal : Nat := 0
  nprod : Nat := 0
  ncons : Nat := 0
  saveBase : Nat := 0
  saveSize : Nat := 0
  /-- The region and its ancestors: address, MAXCORES, MAXSP, MAXHBM (R429). -/
  budgets : List (Nat × Nat × Nat × Nat) := []
  deriving DecidableEq, Repr, Inhabited

/-- An outstanding pager request of a die (R389). -/
structure PagerReq where
  reqid : Nat
  djid : Nat
  va : Nat
  log : Nat
  /-- The effective fields of the region that asked, as its launch holds them (R427). -/
  region : Region := {}
  waiters : List Waiter
  deriving DecidableEq, Repr, Inhabited

/-! ### Cluster and die -/

/-- A range-lock entry (R348): a half-open byte interval of global virtual addresses of a context, or of the scratchpad of a team's side. -/
structure RangeLock where
  tag : Nat
  /-- Order of registration; entries of one operation share it. -/
  seq : Nat
  core : Nat := 0
  sp : Option (Nat × Nat) := none
  djid : Nat := 0
  lo : Nat
  hi : Nat
  write : Bool
  deriving DecidableEq, Repr, Inhabited

/-- Which command an engine operation runs (R345, R362, R475). -/
inductive EngineKind where
  | cpy | gath | scat | rget | rput
  deriving DecidableEq, Repr, Inhabited

/-- A TB place: team, side and offset. -/
structure TbRef where
  team : Nat
  side : Nat
  off : Nat
  deriving DecidableEq, Repr, Inhabited

/-- One destination sector an engine operation still has to write: its bytes, each with a mask and a value, in order; and the TB it counts at, with the sectors it counts (R346). -/
structure SectorWrite where
  bytes : List (Cell × Nat × Nat)
  tb : Option TbRef
  dec : Nat
  /-- The check code it carries for each sector of package memory it writes (R395). -/
  codes : AMap Nat := []
  deriving DecidableEq, Repr, Inhabited

/-- What a `.sp` or global address of a command names: global memory, or the scratchpad of a team, by team space or one side's (R345, R212). -/
inductive EngSpace where
  | glob
  | sp (team : Nat) (side : Option Nat)
  deriving DecidableEq, Repr, Inhabited

/-- The base of a source, list or destination: its space and its address or offset. -/
structure EngBase where
  space : EngSpace
  base : Nat
  deriving DecidableEq, Repr, Inhabited

/-- An engine operation issued and not complete (R341, R349). -/
structure EngineOp where
  tag : Nat
  kind : EngineKind
  /-- Number of its registration in the range-lock table (R348). -/
  seq : Nat
  team : Nat
  grp : Nat
  split : Nat
  core : Nat
  pc : Word
  w0 : Word
  launch : Nat
  src : EngBase
  /-- Destinations: several under multicast (R359), each with its TB. -/
  dsts : List (EngBase × Option TbRef)
  list : EngBase := ⟨.glob, 0⟩
  /-- EXTENT or the PARAM word; elements and element size of GATH and SCAT; bytes of RGET and RPUT. -/
  param : Nat := 0
  count : Nat := 0
  size : Nat := 0
  strict : Bool := false
  /-- Peer package and remote address of RGET and RPUT (R474). -/
  peer : Nat := 0
  raddr : Nat := 0
  /-- Cells of the recipe held at issue, definitions and planes read at issue (R355). -/
  recipe : List Nat := []
  fmts : AMap Word := []
  planes : AMap Plane := []
  /-- Which planes its CBDEC reads, as 2·bank + plane (R278). -/
  sides : List Nat := []
  /-- What the group's most recent tag was before it (R362). -/
  prev : Nat := 0
  started : Bool := false
  /-- The list, once read (R362). -/
  entries : Option (List Nat) := none
  writes : List SectorWrite := []
  /-- Written sectors whose counts, the last at each TB, wait for the completion (R349). -/
  held : List SectorWrite := []
  /-- Ring entries to push when it completes (R358). -/
  pushes : List (Nat × Half) := []
  fail : Bool := false
  /-- Address of the page of a fatal pager response, and whether it is written (R393). -/
  fatal : Option (Nat × Bool) := none
  /-- Pager requests awaited (R363). -/
  waits : List (Nat × Nat) := []
  /-- Pieces of RGET and RPUT not yet sent, each with its local cells and the sectors its answer counts; and how many are sent and not answered (R475). -/
  unsent : List (Packet × List Cell × Nat) := []
  pieces : Nat := 0
  /-- A schedule entry released this operation (R361). -/
  scheduled : Bool := false
  deriving DecidableEq, Repr, Inhabited

/-- What CPYST reads of an operation (R369). -/
structure EngineStatus where
  tag : Nat
  /-- 0 waiting, 1 running, 2 complete. -/
  state : Nat := 0
  fail : Bool := false
  err : Nat := 0
  srcb : Nat := 0
  deriving DecidableEq, Repr, Inhabited

/-- One cluster. -/
structure Cluster where
  ops : List EngineOp := []
  nextTag : Nat := 1
  /-- The 256 most recent operations, newest first (R369). -/
  status : List EngineStatus := []
  locks : List RangeLock := []
  nextSeq : Nat := 0
  /-- Recipe slots: the 256-bit cells; an unlisted slot is empty (R341). -/
  recipes : AMap (List Nat) := []
  cph : Nat := 0
  deriving DecidableEq, Repr, Inhabited

/-- One compute die. -/
structure Die where
  tlb : List Leaf := []
  requests : List PagerReq := []
  nextReq : Nat := 0
  rings : AMap Half := []
  /-- Lines, by key div 128, that each L2 slice holds in its pinned area (R378). -/
  pinned : AMap (List Nat) := []
  /-- Error log counters and last address, by offset (R454). -/
  errors : AMap Word := []
  dph : Nat := 0
  deriving DecidableEq, Repr, Inhabited

/-! ### Madder (R419 to R447) -/

/-- The fields of a launch record (R424). -/
structure LaunchRec where
  addr : Nat := 0
  paired : Bool := false
  idem : Bool := false
  coop : Bool := false
  cscope : Nat := 4
  ngrp : Nat := 1
  alloc : Nat := 8
  bmask : Nat := 0
  tmask : Nat := 0
  rmask : Nat := 0
  code : Nat := 0
  entry : Nat := 0
  handler : Option Nat := none
  nx : Nat := 1
  ny : Nat := 1
  nz : Nat := 1
  scratch : Nat := 0
  argAddr : Nat := 0
  privSize : Nat := 0
  argSize : Nat := 0
  privArea : Nat := 0
  key : Nat := 0
  slots : List Word := []
  sched : Nat := 0
  nsched : Nat := 0
  dbgrp : Nat := 0
  ringMask : Nat := 0
  mcast : Nat := 0
  doneAddr : Nat := 0
  rcpTab : Nat := 0
  deriving DecidableEq, Repr, Inhabited

/-- What started a launch, and so what its completion completes (R422, R432, R443, R430). -/
inductive Origin where
  | queue (q idx : Nat)
  | node (inst addr : Nat)
  | kernel (launch : Nat)
  | pager (rcb : Nat)
  /-- An armed successor of a launch (R444). -/
  | armed (launch : Nat)
  deriving DecidableEq, Repr, Inhabited

/-- A device pager's launch (R430). -/
def Origin.isPager (o : Origin) : Bool :=
  match o with
  | .pager _ => true
  | _ => false

/-- A die's share of a launch's teams (R407). -/
structure DieShare where
  lo : Nat := 0
  hi : Nat := 0
  steals : Nat := 0
  /-- Teams claimed by this die and not retired. -/
  running : Nat := 0
  /-- Seven attempts in a row took nothing: the die steals no more. -/
  done : Bool := false
  deriving DecidableEq, Repr, Inhabited

/-- An accepted launch (R427). -/
structure Launch where
  id : Nat := 0
  /-- Order of acceptance (R408, R437). -/
  order : Nat := 0
  lrec : LaunchRec := {}
  region : Region := {}
  args : List Word := []
  origin : Origin := .queue 0 0
  /-- Entry point and handler address. -/
  entry : Word := 0
  handler : Option Word := none
  /-- Address of the native section, and the 48-byte side-table entries held since acceptance (R91, R95). -/
  native : Nat := 0
  side : List Nat := []
  /-- Recipe images held since acceptance (R341), and schedule entries (R360). -/
  recipes : AMap (List Nat) := []
  sched : List Nat := []
  shares : AMap DieShare := []
  retired : Nat := 0
  /-- Linear indices of discarded teams, with the die that restarts them (R327, R436). -/
  redo : List (Nat × Nat) := []
  /-- Teams that have triggered (R445). -/
  triggered : List Nat := []
  /-- Armed successors: record address and launch identifier (R444). -/
  armed : List (Nat × Nat) := []
  /-- An armed successor that has not started, or a launch held back in a DET region (R447). -/
  held : Bool := false
  started : Bool := false
  /-- A region fault ended it; its STATUS (R441). -/
  ended : Option Nat := none
  /-- FREC of the faulting group. -/
  frec : Nat := 0
  notify : Bool := false
  tag : Word := 0
  /-- Cores that held producer teams of a launch token, for R435, and cores that held its own teams. -/
  producers : List Nat := []
  cores : List Nat := []
  /-- Scope at which its groups acquire when they start (R443, R447). -/
  acquire : Option Nat := none
  /-- HBAR combiners by scope·4096 + place, a place being a cluster below 512, 512 + die, or 520 for the package: 1 forwarded upwards, 2 completed and its release on the way down (R401, R402). -/
  hbar : AMap Nat := []
  /-- COOP: place of each team, by linear index (R406). -/
  places : AMap Nat := []
  complete : Bool := false
  deriving DecidableEq, Repr, Inhabited

/-- An entry of a hardware queue that has been taken and has not completed (R422). -/
structure QTaken where
  idx : Nat
  kind : Nat
  tag : Word
  /-- ADDR of its notification: the launch record, or the entry (R438). -/
  addr : Nat
  /-- WAIT: the word's address, and the threshold. -/
  word : Nat
  value : Nat
  notify : Bool
  /-- The effective fields of the queue's region when the entry was taken (R427). -/
  region : Region := {}
  deriving DecidableEq, Repr, Inhabited

/-- A hardware queue (R420, R421). -/
structure Queue where
  base : Word := 0
  err : Bool := false
  enable : Bool := false
  logsz : Nat := 0
  rcb : Word := 0
  qwrite : Word := 0
  qread : Word := 0
  qdoor : Word := 0
  /-- The effective producer index E. -/
  eff : Word := 0
  /-- The doorbell word as last read; none before its first read (R420). -/
  door : Option Word := none
  /-- A write to the doorbell word has been performed since that read (R420). -/
  doorDue : Bool := false
  taken : List QTaken := []
  /-- Cores of the queue's completed launches: their tokens await DEP entries (R435). -/
  producers : List Nat := []
  deriving DecidableEq, Repr, Inhabited

/-- A running graph instance (R432 to R434). -/
structure Graph where
  q : Nat
  idx : Nat
  region : Region
  /-- Arrivals not yet delivered: node address and BACK. -/
  arrivals : List (Nat × Bool) := []
  /-- Running launches, each with the arrivals its completion sends: node address and BACK. -/
  launches : AMap (List (Nat × Bool)) := []
  /-- No further node starts: it has started an END node, or it has failed. -/
  ended : Bool := false
  /-- It ends with a notification of KIND 5 and this status. -/
  failed : Bool := false
  status : Nat := 0
  /-- Cores of the instance's completed launches (R435). -/
  producers : List Nat := []
  deriving DecidableEq, Repr, Inhabited

/-- A notification ring as Madder keeps it (R439). -/
structure Ring where
  /-- Records held while the ring is full, oldest first, each with the region that posts it, as numbers. -/
  held : List (Region × Nat) := []
  /-- A coalescing window is open. -/
  window : Bool := false
  /-- The index words as they were logged, while one of them is uncorrectable (R419). -/
  seen : Option (Nat × Nat) := none
  /-- The region that last used the ring. -/
  region : Region := {}
  deriving DecidableEq, Repr, Inhabited

/-- A submission from LNCH waiting for arbitration (R437, R443). -/
structure Submission where
  launch : Nat
  team : Nat
  grp : Nat
  inst : Nat
  addr : Nat
  scope : Nat
  arm : Bool
  deriving DecidableEq, Repr, Inhabited

/-- An invalidation in progress (R388, R452). -/
structure Inval where
  djid : Nat
  base : Nat
  log : Nat
  /-- A host invalidation, or the queue and entry that posted it. -/
  queue : Option (Nat × Nat) := none
  deriving DecidableEq, Repr, Inhabited

/-! ### The package -/

/-- An update that a TB receives in this cycle: arrivals, sectors written, an expectation that comes with an arrival, and one without (R344). -/
structure TbUpdate where
  tb : TbRef
  arr : Int := 0
  sec : Int := 0
  withArv : Int := 0
  after : Int := 0
  deriving DecidableEq, Repr, Inhabited

/-- The instruction that is issuing: its split, address and words (R59). -/
structure Latch where
  ref : SplitRef
  pc : Word
  w0 : Word
  w1 : Word
  deriving DecidableEq, Repr, Inhabited

/-- The second instruction of a co-issued pair, with the trap registers as it reads them: a trap of the first has no effect on it (R81). -/
structure Mate where
  ref : SplitRef
  trap : AMap Word
  trapAddr : AMap Word
  deriving DecidableEq, Repr, Inhabited

/-- The device control block (R452) and the clocks (R24, R26). -/
structure Control where
  service : Nat := 0
  inverr : Bool := false
  calfail : Bool := false
  calbusy : Bool := false
  dieok : BitVec 8 := 0
  failcode : BitVec 8 := 0
  pwrcap : Nat := 10000
  pwrnow : Nat := 0
  tinlet : Nat := 0
  tjmax : Nat := 0
  /-- Clock steps below the rate of the service state (R460). -/
  steps : Nat := 0
  scrub : Nat := 1440
  invctx : Nat := 0
  invbase : Word := 0
  invdone : Word := 0
  /-- A change of service awaits quiescence: with `calbusy` a calibration, else the return to BASIC (R458). -/
  calibrating : Bool := false
  clk : Nat := 0
  time : Nat := 0
  /-- Fraction of a nanosecond, in units of one arithmetic clock period's numerator. -/
  frac : Nat := 0
  minSvn : Nat := 0
  /-- The recovery mailbox awaits an image (R455). -/
  recovery : Bool := false
  /-- Working stacks (R457). -/
  stackok : BitVec 16 := 0
  resets : Nat := 0
  /-- SELF: this package's number in the domain (R492). -/
  self : Nat := 0
  /-- 8-byte words of the MSI-X table written by the host (R449). -/
  msixTable : AMap Word := []
  deriving DecidableEq, Repr, Inhabited

/-! ### Fabric (22, 23) -/

/-- Whose request an outstanding remote request is. -/
inductive ReqOwner where
  /-- A thread instruction: team, group, split and instruction number. -/
  | thread (team grp split inst : Nat)
  /-- An engine operation's piece (R475). -/
  | engine (cluster tag : Nat)
  /-- A line or the commit of a group's transaction (R473). -/
  | tx (team grp : Nat)
  /-- A piece of a drain contribution (R488). -/
  | drain (core id : Nat)
  /-- A contribution to the parent of a combining tree: group, phase, and whether it is an HBAR arrival (R404, R487). -/
  | reduce (dbgrp phase : Nat) (hbar : Bool)
  deriving DecidableEq, Repr, Inhabited

/-- An unanswered request (R464, R472, R477, R479). -/
structure RemoteReq where
  pkt : Packet
  owner : ReqOwner
  /-- Address and words of the instruction, for a trap on it. -/
  pc : Word := 0
  w0 : Word := 0
  /-- Threads served: thread, offset of its bytes in the payload, VA. -/
  parts : List (Nat × Nat × Nat) := []
  /-- Bytes of each thread's access; destination register field, and whether it is sign-extended. -/
  size : Nat := 0
  reg : Option Nat := none
  sx : Bool := false
  /-- The instruction is uniform: one value for a g-register (R12). -/
  uniform : Bool := false
  /-- Local cells that a GETREAD's reply is written to (R475). -/
  cells : List Cell := []
  /-- Sectors that the answer of a PUTWRITE counts (R475). -/
  dec : Nat := 0
  /-- Buffered accesses of the transaction that a load sees through (R253). -/
  buffered : List TxAcc := []
  deriving DecidableEq, Repr, Inhabited

/-- A packet waiting to be routed: VC of its next hop (R495). -/
structure NetPkt where
  pkt : Packet
  hop : Nat
  /-- The receive buffer that holds it: port, and 6·class + VC (R497). -/
  buf : Option (Nat × Nat) := none
  deriving DecidableEq, Repr, Inhabited

/-- A request handled at this destination, with its answer once it exists (R479). -/
structure Handled where
  src : Nat
  cls : Nat
  eseq : Nat
  answer : Option Packet := none
  /-- Copies held until the answer exists. -/
  copies : List Packet := []
  /-- It waits for the pager (R463). -/
  parked : Bool := false
  deriving DecidableEq, Repr, Inhabited

/-- A contribution buffer (R488): its source and index, and the requests received by offset in the tile. -/
structure Contribution where
  src : Nat
  /-- None for a contribution without an index. -/
  index : Option Nat
  djid : Nat
  core : Nat
  tile : Nat
  parts : AMap (List Byte) := []
  pkts : List Packet := []
  /-- All of it has arrived: its values. -/
  vals : Option (AMap Half) := none
  /-- The drain of this package that sent it: core and number. -/
  drain : Option (Nat × Nat) := none
  deriving DecidableEq, Repr, Inhabited

/-- Lines of a remote transaction that have arrived (R473). -/
structure IncomingTx where
  src : Nat
  rtag : Nat
  lines : List Packet := []
  deriving DecidableEq, Repr, Inhabited

/-- A contribution to a combining tree, or its result (R486, R487): the operation, SIZE, the number of words, the words, and the status of a failed phase. An HBAR arrival has none of them. -/
structure TreeVal where
  op : Nat := 0
  size : Nat := 3
  n : Nat := 0
  status : Nat := 0
  words : List Word := []
  deriving DecidableEq, Repr, Inhabited

/-- A phase of a domain barrier group in its combining tree: domain reductions, or HBAR `.dom` (R404, R486, R487). -/
structure TreePhase where
  dbgrp : Nat
  phase : Nat
  hbar : Bool
  /-- Launch of this package that takes part, once it has. -/
  launch : Nat := 0
  own : Option TreeVal := none
  /-- Contributions of children, each with the request that carried it. -/
  kids : List (Packet × TreeVal) := []
  /-- The folded contribution went to the parent. -/
  sent : Bool := false
  result : Option TreeVal := none
  /-- The DRED that waits for the result: where it is, and the threads it writes. -/
  team : Nat := 0
  grp : Nat := 0
  split : Nat := 0
  inst : Nat := 0
  pc : Word := 0
  w0 : Word := 0
  active : Half := 0
  waiting : Bool := false
  deriving DecidableEq, Repr, Inhabited

/-- Why a thread access of a remote instruction failed: a status, a race with its TRAPAUX, an uncorrectable word with its cause, or no room for a race tag (R416, R417, R478, R490). -/
inductive RemoteWhy where
  | status (n : Nat)
  | race (aux : Nat)
  | uce (cause : Nat)
  | overflow
  deriving DecidableEq, Repr, Inhabited

/-- A thread access of a remote instruction that failed (R468, R478): peer, thread, VA, and why. -/
structure RemoteFail where
  team : Nat
  grp : Nat
  inst : Nat
  peer : Nat
  thr : Nat
  va : Nat
  why : RemoteWhy
  write : Bool := false
  deriving DecidableEq, Repr, Inhabited

/-- Bytes of the stream of a class and VC that wait to be sent, and the receive buffer they still occupy (R496, R497). -/
structure Chunk where
  bytes : List Byte
  buf : Option (Nat × Nat) := none
  deriving DecidableEq, Repr, Inhabited

/-- A fabric port (R493, R497 to R508). Streams and buffers are numbered 6·class + VC. -/
structure Port where
  lstate : Nat := 0
  peerRun : Bool := false
  short : Bool := false
  session : Bool := false
  peerVc : Nat := 7
  vcTop : Nat := 5
  txSeq : Nat := 0
  ackSeq : Nat := 0xFFF
  laneFail : BitVec 16 := 0
  part : Nat := 0
  width : Nat := 0
  laneMask : BitVec 16 := 0xFFFF
  enable : Bool := false
  peerPort : Nat := 0
  peerPkg : Nat := 0
  retrains : Nat := 0
  tagFail : Nat := 0
  replays : Nat := 0
  /-- Transaction flits not yet acknowledged (R501). -/
  retained : List Flit := []
  /-- The peer's STOP bits, as last received (R497). -/
  stopBits : BitVec 12 := 0
  /-- Bytes of each stream that no flit has begun to carry (R496, R500). -/
  waiting : AMap (List Chunk) := []
  /-- Bytes of fill that a stream still owes: its last flit ended within a unit of fill (log 29). -/
  owed : AMap Nat := []
  /-- The STOP bits that this port sends for its own buffers (R497). -/
  ownStop : BitVec 12 := 0
  /-- Next sequence expected from the peer. -/
  expected : Nat := 0
  /-- Banks without an uncorrectable error, and the bank of each stream whose number is not the stream's own (R498). -/
  banks : BitVec 16 := 0xFFFF
  bankOf : AMap Nat := []
  /-- Streams whose packet under reception lost bytes with its bank (R498). -/
  broken : List Nat := []
  stopping : Bool := false
  retraining : Bool := false
  /-- Retrained, and the peer's RESUME has not come (R502). -/
  resuming : Bool := false
  kph : Bool := false
  /-- Flits sent under the current key, and the session's number (R505). -/
  sent : Nat := 0
  sessions : Nat := 0
  /-- This end is the requester of the session (R504). -/
  requester : Bool := false
  /-- The package whose measurements the session brought (R504). -/
  measured : Option Nat := none
  /-- Times of the last tag failures, in nanoseconds of TIME: at most 64 (R505). -/
  tagTimes : List Nat := []
  /-- Bytes received of a packet that is not complete, by 6·class + VC. -/
  rx : AMap (List Byte) := []
  /-- The last control message sent: kind and argument (R500). -/
  control : Option (Nat × Nat) := none
  /-- ENABLE was written while the port was down: it may train (R503). -/
  train : Bool := false
  /-- The sequence and the time of the last REPLAY sent (R501). -/
  asked : Option (Nat × Nat) := none
  deriving DecidableEq, Repr, Inhabited

/-- The fabric state of a package (R492 to R495). -/
structure Fabric where
  rtBase : Word := 0
  rctBase : Word := 0
  ctBase : Word := 0
  rtGen : Nat := 0
  rtErr : Nat := 0
  fevt : Nat := 0
  drops : Nat := 0
  fvec : Nat := 0
  ports : AMap Port := []
  /-- Route memory: primary and alternate columns of a package, 0 where invalid. -/
  routes : AMap (Nat × Nat) := []
  /-- Combining trees by index, as loaded. -/
  trees : AMap Nat := []
  /-- An RTLOAD is being carried out. -/
  loading : Bool := false
  net : List NetPkt := []
  /-- Packets delivered to this package and not yet handled. -/
  inbox : List Packet := []
  reqs : List RemoteReq := []
  /-- Next ESEQ by destination·2 + class. -/
  eseq : AMap Nat := []
  handled : List Handled := []
  contribs : List Contribution := []
  incoming : List IncomingTx := []
  /-- Thread requests issued and not yet sent: an earlier one of their instruction overlaps them, or the limit of R472 holds them. -/
  queue : List RemoteReq := []
  fails : List RemoteFail := []
  phases : List TreePhase := []
  /-- Phases begun by each launch: reductions at 2·launch, HBAR `.dom` at 2·launch + 1. -/
  begun : AMap Nat := []
  /-- Members of combining trees that contribute no more, as group·1024 + package (R404, R487). -/
  closed : List Nat := []
  deriving DecidableEq, Repr, Inhabited

/-- A dirty 32-byte sector of the L2: its check code, and the bytes that HBM still holds under it (R379, R396). A clean sector equals HBM, and none is listed (log 99). -/
structure L2Sector where
  code : Nat
  old : List Byte
  deriving DecidableEq, Repr, Inhabited

/-- An uncorrectable word of a memory or a tile, and the cause of the UCE it raises (R398, R399). -/
structure BadWord where
  place : BadPlace
  cause : Nat
  deriving DecidableEq, Repr, Inhabited

/-- The state of one package. -/
structure State where
  /-- Events to come, decided outside the machine (log 2). -/
  agenda : List Instr := []
  /-- Splits selected to issue in this cycle (R203). -/
  issueQ : List SplitRef := []
  latch : Option Latch := none
  /-- Second instructions of the pairs selected (R81). -/
  mates : List Mate := []
  /-- The model's own turn between issue slots and hardware events (log 2). -/
  turn : Nat := 0
  /-- The last slot that has had its turn in this cycle, as 4·core + slot + 1 (log 2). -/
  slotAt : Nat := 0
  /-- Splits selected in this cycle whose instruction could not issue: they are not ready (R200). -/
  tried : List SplitRef := []
  /-- What the TBs receive in this cycle (R344). -/
  tbNow : List TbUpdate := []
  /-- Index of the next free value (log 15). -/
  free : Nat := 0
  /-- Package memory as its point of coherence gives it: the L2 over HBM. -/
  mem : Memory := []
  /-- Dirty sectors of the L2 slices, by location key div 32 (R379). -/
  l2 : AMap L2Sector := []
  /-- Uncorrectable words (R399). -/
  bad : List BadWord := []
  /-- Tests of sectors that the next store to reach them fails, and words whose next read fails its tests as it is written there (R397, R398; log 104). -/
  tests : List SectorFail := []
  misreads : List BadPlace := []
  host : Memory := []
  /-- Address translation cache of host pages, by DJID·2^40 + I/O page (R451), and requests awaiting completion. -/
  atc : AMap Nat := []
  atsWaits : List Nat := []
  /-- Page requests sent to the host: DJID and address (R394). -/
  pri : List (Nat × Word) := []
  teams : AMap Team := []
  nextTeam : Nat := 0
  cores : AMap Core := []
  clusters : AMap Cluster := []
  dies : AMap Die := []
  launches : AMap Launch := []
  nextLaunch : Nat := 1
  launchSeq : Nat := 0
  queues : AMap Queue := []
  /-- Queue last chosen at each priority, plus 1 (R437). -/
  chosen : AMap Nat := []
  subs : List Submission := []
  graphs : AMap Graph := []
  nextGraph : Nat := 0
  rings : AMap Ring := []
  /-- MSI-X vectors raised while masked: the pending-bit array (R449). -/
  msix : List Nat := []
  /-- Messages sent of each vector (R449). -/
  msixSent : AMap Nat := []
  invals : List Inval := []
  stores : List PStore := []
  nextStore : Nat := 0
  /-- Package phase (R412). -/
  pph : Nat := 0
  /-- Race tags of lines, by sector (R411). -/
  l2tags : AMap RaceTag := []
  ctl : Control := {}
  fab : Fabric := {}
  deriving DecidableEq, Repr, Inhabited

/-- The package right after reset: SERVICE is RESET, nothing is resident, memory lists nothing (R452, R457). -/
def State.reset : State := {}

end Sys2Proof.Machine
end

