-- ==== Sys2Proof/Machine/Access.lean ====
section
/-! DEFINITION. Reading and writing the parts of the state: teams, groups, splits, cores, and the registers of a group, with the pending writes and lookahead windows that a register write meets (R8 to R14, R72, R201). -/

namespace Sys2Proof.Machine

/-! ### Parts of the state -/

/-- Team `t`. -/
def State.team (s : State) (t : Nat) : Team := (AMap.find s.teams t).getD {}
/-- Replace team `t`. -/
def State.setTeam (s : State) (t : Nat) (x : Team) : State := { s with teams := AMap.put s.teams t x }
/-- Group `g` of team `t`. -/
def State.group (s : State) (t g : Nat) : Group := (AMap.find (s.team t).groups g).getD {}
/-- Replace group `g` of team `t`. -/
def State.setGroup (s : State) (t g : Nat) (x : Group) : State :=
  s.setTeam t { s.team t with groups := AMap.put (s.team t).groups g x }
/-- The core with index die·512 + cluster·8 + core. -/
def State.core (s : State) (c : Nat) : Core := (AMap.find s.cores c).getD {}
/-- Replace a core. -/
def State.setCore (s : State) (c : Nat) (x : Core) : State := { s with cores := AMap.put s.cores c x }
/-- The cluster with index die·64 + cluster. -/
def State.cluster (s : State) (c : Nat) : Cluster := (AMap.find s.clusters c).getD {}
/-- Replace a cluster. -/
def State.setCluster (s : State) (c : Nat) (x : Cluster) : State := { s with clusters := AMap.put s.clusters c x }
/-- Compute die `d`. -/
def State.die (s : State) (d : Nat) : Die := (AMap.find s.dies d).getD {}
/-- Replace a die. -/
def State.setDie (s : State) (d : Nat) (x : Die) : State := { s with dies := AMap.put s.dies d x }
/-- The launch with an identifier. -/
def State.launch (s : State) (id : Nat) : Launch := (AMap.find s.launches id).getD {}
/-- Replace a launch. -/
def State.setLaunch (s : State) (id : Nat) (x : Launch) : State := { s with launches := AMap.put s.launches id x }
/-- Hardware queue `q`. -/
def State.queue (s : State) (q : Nat) : Queue := (AMap.find s.queues q).getD {}
/-- Replace a queue. -/
def State.setQueue (s : State) (q : Nat) (x : Queue) : State := { s with queues := AMap.put s.queues q x }
/-- The launch of team `t`. -/
def State.launchOf (s : State) (t : Nat) : Launch := s.launch (s.team t).launch

/-- The cluster of a core. -/
def clusterOf (core : Nat) : Nat := core / 8
/-- The die of a core. -/
def dieOf (core : Nat) : Nat := core / 512

/-- Entry `i` of the split table. -/
def Group.split (g : Group) (i : Nat) : Split := g.splits.getD i {}
/-- Replace a split-table entry. -/
def Group.setSplit (g : Group) (i : Nat) (x : Split) : Group := { g with splits := g.splits.set i x }
/-- Frame `i`. -/
def Group.frame (g : Group) (i : Nat) : Frame := g.frames.getD i {}
/-- Replace a frame. -/
def Group.setFrame (g : Group) (i : Nat) (x : Frame) : Group := { g with frames := g.frames.set i x }

/-- Threads of the group that have not exited: LIVEK or DEMK (R20). -/
def Group.present (g : Group) : Half := g.live ||| g.dem

/-! ### Registers -/

/-- Vector register `r` of thread `t`. -/
def Group.readV (g : Group) (r t : Nat) : Word := AMap.get g.v (r * 32 + t) 0
/-- Uniform register `r`. -/
def Group.readG (g : Group) (r : Nat) : Word := AMap.get g.g r 0
/-- Mask register `k`; k0 is the issuing split's mask (R10). -/
def Group.readK (g : Group) (self : Half) (k : Nat) : Half := if k = 0 then self else AMap.get g.k k 0
/-- RNG counter of thread `t` (R22). -/
def Group.readRng (g : Group) (t : Nat) : Word := AMap.get g.rngc t 0
/-- Format definition word of slot `n`; f15 is binary32 (R6, R21). -/
def Group.readF (g : Group) (n : Nat) : Word := if n = 15 then 0x000002000A0FF744 else AMap.get g.f n 0

/-- The 64 bits an operand supplies in thread `t`: a g-register is broadcast (R13), vz reads zero (R9), a k-register reads as 32 bits (R133). -/
def Group.readOpnd (g : Group) (self : Half) (o : Opnd) (t : Nat) : Word :=
  match o with
  | .v n => g.readV n.val t
  | .g n => g.readG n.val
  | .k n => (g.readK self n.val).setWidth 64
  | .vz => 0
  | .lit n => n.setWidth 64

/-- The active set of a mask under a split's mask (R10). -/
def Group.active (g : Group) (self : Half) (m : Mask) : Half :=
  if m.k.val = 0 then self
  else if m.neg then self &&& ~~~(g.readK self m.k.val) else self &&& g.readK self m.k.val

/-- The window of pending write `p` is open for thread `t` (R72, R73). -/
def Pend.openFor (p : Pend) (t : Nat) : Bool :=
  decide (0 < AMap.get p.cnt (if 192 ≤ p.reg then p.winThread else t) 0)

/-- A write of register `reg` in the threads of `m` wins over the pending writes of the instructions `insts` whose window is open (R72). -/
def Pend.overwritten (p : Pend) (insts : List Nat) (reg : Nat) (m : Half) : Pend :=
  if insts.contains p.inst then
    if 192 ≤ reg then (if p.openFor 0 then { p with disc := p.mask } else p)
    else { p with disc := p.disc ||| (m &&& maskOf (fun t => p.openFor t)) }
  else p

/-- Note a write of `reg` in the threads of `m`: it discards every register of the tuples that hold `reg` (R72). A handler's write is noted like any other (log 95). -/
def Group.noteWrite (g : Group) (reg : Nat) (m : Half) : Group :=
  { g with pends := g.pends.map (fun p => p.overwritten ((g.pends.filter (fun q => q.reg = reg)).map (fun q => q.inst)) reg m) }

/-- Write thread values of one vector register, without regard to windows. -/
def setThreads (v : AMap Word) (r : Nat) (ts : List Nat) (f : Nat → Word) : AMap Word :=
  match ts with
  | [] => v
  | t :: rest => setThreads (AMap.set v (r * 32 + t) (f t) 0) r rest f

/-- A register word that is wholly overwritten is protected anew (R399). -/
def Group.freshen (g : Group) (reg : Nat) (m : Half) : Group :=
  { g with bad := g.bad.filter (fun b => !(b.reg = reg && (decide (192 ≤ reg) || m.getLsbD b.thr))) }

/-- Write vector register `r` in the threads of `m` (R11). -/
def Group.writeV (g : Group) (r : Nat) (m : Half) (f : Nat → Word) : Group :=
  (({ g with v := setThreads g.v r (threadsOf m) f } : Group).freshen r m).noteWrite r m

/-- Write uniform register `r`. -/
def Group.writeG (g : Group) (r : Nat) (x : Word) : Group :=
  (({ g with g := AMap.set g.g r x 0 } : Group).freshen (192 + r) 0).noteWrite (192 + r) 0

/-- Write mask register `k`, k1 to k7. -/
def Group.writeK (g : Group) (k : Nat) (x : Half) : Group := ({ g with k := AMap.set g.k k x 0 } : Group).freshen (240 + k) 0

/-- Write the RNG counter of thread `t`. -/
def Group.writeRng (g : Group) (t : Nat) (x : Word) : Group := { g with rngc := AMap.set g.rngc t x 0 }

/-- Write a register operand: per thread of `m` for a v-register; once, with thread 0's value, for a g-register; the mask of the threads whose value is not zero for a k-register's bits in `m` (R10, R11, R12); nothing for vz (R9). -/
def Group.writeOpnd (g : Group) (o : Opnd) (m : Half) (f : Nat → Word) : Group :=
  match o with
  | .v n => g.writeV n.val m f
  | .g n => g.writeG n.val (f 0)
  | .k n =>
    let x := (g.readK 0 n.val &&& ~~~m) ||| (m &&& maskOf (fun t => f t != 0))
    if m = 0xFFFFFFFF then g.writeK n.val x else { g with k := AMap.set g.k n.val x 0 }
  | .vz => g
  | .lit _ => g

/-- Write a whole uniform result to a g-register, a k-register or vz. -/
def Group.writeOnce (g : Group) (o : Opnd) (x : Word) : Group :=
  match o with
  | .g n => g.writeG n.val x
  | .k n => g.writeK n.val (x.setWidth 32)
  | _ => g

/-! ### Pending writes and windows -/

/-- The register words that a result with a failed read check leaves uncorrectable in the threads of `m` (R398). -/
def Pend.badRegs (p : Pend) (m : Half) : List BadReg :=
  if p.failed then (if 192 ≤ p.reg then [p.winThread] else threadsOf m).map (fun t =>
    { reg := p.reg, thr := if 192 ≤ p.reg then 0 else t, cause := 8, addr := AMap.get (p.addrs.getD []) t (if 192 ≤ p.reg then ((p.addrs.getD []).head?.map (fun a => a.2)).getD 0 else 0) })
  else []

/-- Write the value of a pending result to its register in the threads of `m`. -/
def Group.deliver (g : Group) (p : Pend) (m : Half) : Group :=
  let g1 := g.freshen p.reg m
  if 192 ≤ p.reg then { g1 with g := AMap.set g.g (p.reg - 192) (AMap.get p.vals 0 0) 0, bad := g1.bad ++ p.badRegs m }
  else { g1 with v := setThreads g.v p.reg (threadsOf m) (fun t => AMap.get p.vals t 0), bad := g1.bad ++ p.badRegs m }

/-- Threads of a pending write whose window is closed and whose result is not discarded. -/
def Pend.due (p : Pend) : Half :=
  p.mask &&& ~~~p.disc &&& maskOf (fun t => !p.openFor t)

/-- A pending write that has arrived: deliver the threads whose window is closed, drop the discarded, keep the rest (R72, R202). -/
def Group.settle (g : Group) (p : Pend) : Group × Option Pend :=
  let g' := if 192 ≤ p.reg then (if p.openFor 0 || p.disc != 0 then g else g.deliver p p.mask) else g.deliver p p.due
  let left := if 192 ≤ p.reg then (if p.openFor 0 && p.disc = 0 then p.mask else 0)
    else p.mask &&& ~~~p.disc &&& maskOf (fun t => p.openFor t)
  if left = 0 then (g', none) else (g', some { p with mask := left, arrived := true })

/-- Settle every pending write that has arrived. -/
def Group.settleAll (g : Group) (ps : List Pend) : Group × List Pend :=
  match ps with
  | [] => (g, [])
  | p :: rest =>
    if p.arrived then
      let r := g.settle p
      let q := r.1.settleAll rest
      (q.1, match r.2 with | some p' => p' :: q.2 | none => q.2)
    else
      let q := g.settleAll rest
      (q.1, p :: q.2)

/-- One instruction of the threads of `m` counts against the windows of the instructions before number `inst` (R72). -/
def Pend.count (p : Pend) (inst : Nat) (m : Half) : Pend :=
  if inst ≤ p.inst then p
  else { p with cnt := (p.cnt.map (fun c => if m.getLsbD c.1 then (c.1, c.2 - 1) else c)).filter (fun c => c.2 != 0) }

/-- An instruction of the threads of `m` has issued: windows of instructions before number `inst` count it, and the results held for a window that closed are written (R72). -/
def Group.countWindow (g : Group) (inst : Nat) (m : Half) : Group :=
  let r := g.settleAll (g.pends.map (fun p => p.count inst m))
  { r.1 with pends := r.2 }

/-- A pending write arrives with the values it holds; of a word read from memory, a second check mismatch is kept with it (R202, R398). -/
def Group.arrive (g : Group) (id mismatches : Nat) : Group :=
  let r := g.settleAll (g.pends.map (fun p => if p.id = id then { p with arrived := true, failed := p.addrs.isSome && decide (2 ≤ mismatches) } else p))
  { r.1 with pends := r.2 }

/-- Drop the pending writes of an instruction (R315). -/
def Group.cancel (g : Group) (inst : Nat) : Group :=
  { g with pends := g.pends.filter (fun p => p.inst != inst) }

/-- Drop the threads of `m` from every pending write (R126). A g-register's window is still counted for its thread after that has exited, so it stays open (log 95). -/
def Group.dropThreads (g : Group) (m : Half) : Group :=
  { g with pends := (g.pends.map (fun p => { p with mask := p.mask &&& ~~~m })).filter (fun p => p.mask != 0) }

/-- Window counts of a lookahead of `n` for the threads of `m`; a g-register counts its lowest thread only (R72, R73). -/
def windowCounts (n reg : Nat) (m : Half) : AMap Nat :=
  if n = 0 then []
  else if 192 ≤ reg then [(lowBit 32 m.toNat, n)]
  else (threadsOf m).map (fun t => (t, n))

/-- Add a pending write of instruction `inst` to register field `reg` in the threads of `m`; it wins over the writes whose window it lies in (R72). -/
def Group.addPend (g : Group) (inst : Nat) (pc : Word) (reg : Nat) (m : Half) (la : Nat) (vals : AMap Word) (src : PendSrc) : Group :=
  if m = 0 then g
  else
    let p : Pend :=
      { id := g.nextPend, inst := inst, pc := pc, reg := reg, mask := m, vals := vals, cnt := windowCounts la reg m, windowed := decide (0 < la), winThread := lowBit 32 m.toNat, src := src }
    { (g.noteWrite reg m) with pends := (g.noteWrite reg m).pends ++ [p], nextPend := g.nextPend + 1 }

/-- Give a waiting pending write its values, so that it can arrive. -/
def Group.fill (g : Group) (inst reg : Nat) (vals : AMap Word) : Group :=
  { g with pends := g.pends.map (fun p => if p.inst = inst && p.reg = reg then { p with vals := vals, src := .ready } else p) }

/-- The field value of a register operand. -/
def fieldOf (o : Opnd) : Nat := (opndBits o).toNat

/-- A write of a long-latency result: pending for a v- or g-register, nothing for vz (R9, R201). -/
def Group.pendOpnd (g : Group) (inst : Nat) (pc : Word) (o : Opnd) (m : Half) (la : Nat) (f : Nat → Word) : Group :=
  match o with
  | .v n => g.addPend inst pc n.val m la ((threadsOf m).map (fun t => (t, f t))) .ready
  | .g n => g.addPend inst pc (192 + n.val) m la [(0, f 0)] .ready
  | _ => g

end Sys2Proof.Machine
end

