-- ==== Sys2Proof/Machine/Phys.lean ====
section
/-! DEFINITION. Physical memory and its placements (R375, R376, R518), the L1 of a core (R218, R219, R227), and reading and writing one resolved byte. -/

namespace Sys2Proof.Machine

/-! ### Placement (R375) -/

/-- End of package memory under PLACE 0. -/
def physEnd : Nat := 0xC000000000

/-- Bytes of one stack. -/
def stackBytes : Nat := 0xC00000000

/-- The location key s·2^36 + O of a physical address under PLACE 0 or 1 (R375, R376). -/
def physKey (place pa : Nat) : Option Nat :=
  if place = 0 then
    if pa < physEnd then some ((bitsOf pa 14 11) * 2 ^ 36 + (pa / 32768) * 2048 + pa % 2048) else none
  else if place = 1 then
    if pa / 2 ^ 40 = 0 ∧ pa % 2 ^ 36 < stackBytes then some pa else none
  else none

/-- The home die of a location key: s div 2 (R375). -/
def homeDie (key : Nat) : Nat := key / 2 ^ 36 / 2

/-- The L2 slice that holds a location key under HOME 0 and 1 (R378). -/
def sliceOf (key : Nat) : Nat :=
  let o := key % 2 ^ 36
  let st := key / 2 ^ 36
  bitsOf o 11 7 ^^^ bitsOf o 16 12 ^^^ bitsOf o 21 17 ^^^ (16 * (st % 2))

/-- `n` bytes from key `k`, little-endian. -/
def Memory.readN (m : Memory) (k n : Nat) : Nat := leNat ((List.range n).map (fun i => m.read (k + i)))

/-- Write bytes from a key on. -/
def Memory.writeL (m : Memory) (k : Nat) (bs : List Byte) : Memory :=
  match bs with
  | [] => m
  | b :: rest => Memory.writeL (m.write k b) (k + 1) rest

/-- Read `n` bytes at a physical address of PLACE 0, `none` outside physical memory (R518). The bytes of one 2 KiB chunk are adjacent. -/
def State.readPhys (s : State) (pa n : Nat) : Option Nat :=
  let bs := (List.range n).map (fun i => physKey 0 (pa + i))
  if bs.all (·.isSome) then some (leNat (bs.map (fun k => s.mem.read (k.getD 0)))) else none

/-! ### Check codes and the sectors of the L2 (R379, R395, R396) -/

/-- The bytes of memory in the 32-byte sector `sec`. -/
def l2Bytes (m : Memory) (sec : Nat) : List Byte :=
  let near : Memory := m.filter (fun c => c.1 / 32 = sec)
  (List.range 32).map (fun i => near.read (32 * sec + i))

/-- The check code of a sector: CRC-32C over its 32 bytes and the byte mask (R395). -/
def checkCode (bytes : List Byte) (mask : Nat) : Nat := crc32c (bytes ++ leBytes 4 mask)

/-- The codes that a store of bytes to location keys carries, one for each sector it writes; bytes it does not write count as zero (R395). -/
def checkCodes (ws : List (Nat × Byte)) : AMap Nat :=
  ((ws.map (fun w => w.1 / 32)).eraseDups).foldl (fun (acc : AMap Nat) sec =>
    let at_ := fun (i : Nat) => (ws.find? (fun w => w.1 = 32 * sec + i)).map (fun w => w.2)
    AMap.put acc sec (checkCode ((List.range 32).map (fun i => (at_ i).getD 0)) (natOfBits 32 (fun i => (at_ i).isSome)))) []

/-- Write one byte of package memory at its point of coherence, in the L2: the sector is dirty, its code is that of the merged bytes, and HBM keeps what it held (R379, R396). -/
def State.writeMem (s : State) (k : Nat) (b : Byte) : State :=
  let m := s.mem.write k b
  let old := match AMap.find s.l2 (k / 32) with
    | some e => e.old
    | none => l2Bytes s.mem (k / 32)
  { s with mem := m, l2 := AMap.put s.l2 (k / 32) { code := checkCode (l2Bytes m (k / 32)) (2 ^ 32 - 1), old := old } }

/-- Write one byte where no slice allocates its line: under HOME 3, at the memory controller, and of a CACHE 3 store that misses; a sector that the L2 holds is written there (R218, R379). -/
def State.writeDirect (s : State) (k : Nat) (b : Byte) : State :=
  if (AMap.find s.l2 (k / 32)).isSome then s.writeMem k b else { s with mem := s.mem.write k b }

/-! ### Uncorrectable words (R399, R454) -/

/-- The cause of a UCE by the source of the word (R399). -/
def BadPlace.cause (p : BadPlace) : Nat :=
  match p with
  | .reg _ _ _ _ => 1
  | .sp _ _ _ => 2
  | .l1 _ _ => 3
  | .l2 _ => 4
  | .tile _ _ _ => 5
  | .book _ _ _ _ => 6
  | .hbm _ => 7

/-- The cause at a place whose word is uncorrectable. -/
def State.badAt (s : State) (p : BadPlace) : Option Nat := (s.bad.find? (fun b => b.place = p)).map (fun b => b.cause)

/-- A word becomes uncorrectable: one of a register stands in its group, another in the package. -/
def State.spoil (s : State) (p : BadPlace) (cause : Nat) : State :=
  match p with
  | .reg team grp reg thr =>
    let g := s.group team grp
    if (AMap.find (s.team team).groups grp).isNone then s
    else s.setGroup team grp { g with bad := { reg := reg, thr := if 192 ≤ reg then 0 else thr, cause := cause } :: g.bad }
  | _ => { s with bad := { place := p, cause := cause } :: s.bad.filter (fun b => b.place != p) }

/-- Words of some places are wholly overwritten, or gone (R399). -/
def State.clearBad (s : State) (p : BadPlace → Bool) : State := { s with bad := s.bad.filter (fun b => !p b.place) }

/-- Add to a saturating 32-bit counter of a die's error log. -/
def State.countError (s : State) (d off n : Nat) : State :=
  s.setDie d { s.die d with errors := AMap.set (s.die d).errors off (BitVec.ofNat 64 (min (2 ^ 32 - 1) ((AMap.get (s.die d).errors off 0).toNat + n))) 0 }

/-- The location of the latest uncorrectable word of a die, where one was met (R454). -/
def State.sawBad (s : State) (w : Option (Nat × Nat)) : State :=
  match w with
  | none => s
  | some (d, key) => s.setDie d { s.die d with errors := AMap.set (s.die d).errors 40 (BitVec.ofNat 64 key) 0 }

/-- Uncorrectable words were only written back, evicted or scrubbed: their number, and the location of the last (R399, R454). -/
def State.logBad (s : State) (d n key : Nat) : State :=
  (s.countError d 28 n).sawBad (if n = 0 then none else some (d, key))

/-- Words arrive at places of a kind: those whose tests are to fail twice are uncorrectable there (R398). -/
def State.misread (s : State) (here : BadPlace → Bool) : State :=
  if s.misreads.isEmpty then s
  else (s.misreads.filter here).foldl (fun (acc : State) p => acc.spoil p 8) { s with misreads := s.misreads.filter (fun p => !here p) }

/-- The planes of a bank are written whole (R281, R283, R398, R399). -/
def State.freshBank (s : State) (core bank : Nat) : State :=
  let here := fun (p : BadPlace) => match p with | .book c b _ _ => c = core && b = bank | _ => false
  ((if s.bad.isEmpty then s else s.clearBad here) : State).misread here

/-- Bytes of package memory by key that are overwritten at the point of coherence: a word of them that is written whole is protected anew (R399). -/
def State.freshKeys (s : State) (ks : List Nat) : State :=
  s.clearBad (fun p => match p with
    | .l2 w => (List.range 8).all (fun i => ks.contains (8 * w + i))
    | .hbm w => (List.range 8).all (fun i => ks.contains (8 * w + i))
    | _ => false)

/-- A write-back of a dirty sector reaches HBM: the sector is clean; uncorrectable words of it are logged and stand in HBM (R379, R399). -/
def State.writeBackL2 (s : State) (sec : Nat) : State :=
  let words := (List.range 4).map (fun i => 4 * sec + i)
  let moved := words.filter (fun w => (s.badAt (.l2 w)).isSome)
  let s1 := ({ s with l2 := AMap.erase s.l2 sec } : State).clearBad (fun p => match p with
    | .l2 w => words.contains w
    | .hbm w => words.contains w
    | _ => false)
  moved.foldl (fun (acc : State) w => (acc.spoil (.hbm w) 7).logBad (homeDie (8 * w)) 1 (8 * w)) s1

/-- A write-back whose code fails twice is not committed: the location keeps what HBM holds (R397). -/
def State.dropL2 (s : State) (sec : Nat) : State :=
  match AMap.find s.l2 sec with
  | some e => { s with mem := s.mem.writeL (32 * sec) e.old, l2 := AMap.erase s.l2 sec }
  | none => s

/-- Write bytes one by one at a physical address of PLACE 0; bytes outside physical memory are dropped (R450). -/
def State.writeEach (s : State) (pa : Nat) (bs : List Byte) : State :=
  match bs with
  | [] => s
  | b :: rest =>
    State.writeEach
      (match physKey 0 pa with | some k => s.writeMem k b | none => s) (pa + 1) rest

/-- Write bytes at a physical address of PLACE 0; words written whole are protected anew (R399). -/
def State.writePhys (s : State) (pa : Nat) (bs : List Byte) : State :=
  (if s.bad.isEmpty then s else s.freshKeys ((List.range bs.length).filterMap (fun i => physKey 0 (pa + i)))).writeEach pa bs

/-- Byte `k` stands in a word that is uncorrectable in the L2 or in HBM. -/
def State.badKey (s : State) (k : Nat) : Bool := s.bad.any (fun b => b.place = .l2 (k / 8) || b.place = .hbm (k / 8))

/-! ### The L1 (R218) -/

/-- The L1 byte of a core at a key. -/
def Core.l1At (c : Core) (k : Nat) : Option L1Byte := AMap.find c.l1 k

/-- Bring the bytes of a line that the L1 does not hold into it, clean, but those in `skip` (R218). -/
def fillBytes (mem : Memory) (l1 : AMap L1Byte) (priv : Option (Nat × Nat)) (skip : Nat → Bool) (va : Nat) (base : Nat) (is : List Nat) : AMap L1Byte :=
  match is with
  | [] => l1
  | i :: rest =>
    let l1' := match AMap.find l1 (base + i) with
      | some _ => l1
      | none => if skip (base + i) then l1 else AMap.put l1 (base + i) { val := mem.read (base + i), priv := priv, va := va + i }
    fillBytes mem l1' priv skip va base rest

/-- Fill the 128-byte line of key `k` into a core's L1; an uncorrectable word of it does not come in (log 99). -/
def State.fillLine (s : State) (core k va : Nat) (priv : Option (Nat × Nat)) : State :=
  s.setCore core { s.core core with
    l1 := fillBytes s.mem (s.core core).l1 priv s.badKey (va - k % 128) (k - k % 128) (List.range 128) }

/-- The dirty bytes of an L1 that satisfy `p`, written to memory (R227). -/
def State.flushBytes (s : State) (l1 : AMap L1Byte) (p : Nat → L1Byte → Bool) : State :=
  match l1 with
  | [] => s
  | e :: rest => (if e.2.dirty && p e.1 e.2 then s.writeMem e.1 e.2.val else s).flushBytes rest p

/-- The bytes `ks` of a core's L1 were written back: words written whole are protected anew in the L2; an uncorrectable word of the L1 stays so there, and is logged (R399; log 99). -/
def State.flushBad (s : State) (core : Nat) (ks : List Nat) : State :=
  ((ks.map (fun k => k / 8)).eraseDups.filter (fun w => (s.badAt (.l1 core w)).isSome)).foldl
    (fun (acc : State) w => (acc.spoil (.l2 w) 4).logBad (dieOf core) 1 (8 * w)) (s.freshKeys ks)

/-- Uncorrectable words that a core's L1 holds no more are logged (R399). -/
def State.evictBad (s : State) (core : Nat) : State :=
  let gone := s.bad.filterMap (fun b => match b.place with
    | .l1 c w => if c = core && !((s.core core).l1.any (fun e => e.1 / 8 = w)) then some w else none
    | _ => none)
  gone.foldl (fun (acc : State) w => (acc.clearBad (fun p => p = .l1 core w)).logBad (dieOf core) 1 (8 * w)) s

/-- Keep the bytes of a core's L1 that satisfy `p`. -/
def State.keepL1 (s : State) (core : Nat) (p : Nat → L1Byte → Bool) : State :=
  let s1 := s.setCore core { s.core core with l1 := (s.core core).l1.filter (fun e => p e.1 e.2) }
  if s.bad.isEmpty then s1 else s1.evictBad core

/-- An L1 holds all of the aligned 8 bytes that hold byte `k`. -/
def Core.wholeUnit (c : Core) (k : Nat) : Bool := (List.range 8).all (fun i => (c.l1At (k / 8 * 8 + i)).isSome)

/-- The dirty bytes of a core's L1 in sectors whose store fails its test are not committed: they leave the L1, and the location keeps its value (R397). -/
def State.dropFailed (s : State) (core : Nat) (p : Nat → L1Byte → Bool) (secs : List Nat) : State :=
  s.setCore core { s.core core with l1 := (s.core core).l1.filter (fun e => !(e.2.dirty && p e.1 e.2 && secs.contains (e.1 / 32))) }

/-- An E2E stands to be presented for a group, with LAUNCH and the location of its record (R397). -/
def State.failStore (s : State) (team grp launch key : Nat) (t : TrapAt) (split inst : Nat) : State :=
  let g := s.group team grp
  s.setGroup team grp { g with deferred := { split := split, inst := inst, trap := { t with req := { t.req with code := 0x10, deferred := true } }, e2e := some (launch, key) } :: g.deferred }

/-- A resident group of a core, whose region learns that a write-back of the core's L1 failed (log 104). -/
def State.reporter (s : State) (core : Nat) : Option (Nat × Nat) :=
  s.teams.findSome? (fun t => if t.2.saved.isSome then none else (t.2.groups.find? (fun g => g.2.core = core)).map (fun g => (t.1, g.1)))

/-- A core's dirty L1 bytes that satisfy `p` meet the tests of their sectors: those of a failing sector are not written back, and E2E is raised with LAUNCH zero (R397). -/
def State.testBytes (s : State) (core : Nat) (p : Nat → L1Byte → Bool) : State :=
  match s.tests.filter (fun f => (s.core core).l1.any (fun e => e.2.dirty && p e.1 e.2 && e.1 / 32 = f.sector)) with
  | [] => s
  | f :: rest =>
    let s1 := ({ s with tests := s.tests.filter (fun x => !(f :: rest).contains x) } : State).dropFailed core p ((f :: rest).map (fun x => x.sector))
    match s1.reporter core with
    | some (t, g) => s1.failStore t g 0 (32 * f.sector) ⟨{ code := 0x10 }, 0, 0, 0, 0⟩ 0 0
    | none => s1

/-- Write a core's dirty L1 bytes that satisfy `p` back to L2; they stay as clean bytes where the L1 holds their whole unit, and leave it otherwise: a later read of the unit does not join them with newer bytes (R223, R227, R242). -/
def State.writeBack (s0 : State) (core : Nat) (p : Nat → L1Byte → Bool) : State :=
  let s := if s0.tests.isEmpty then s0 else s0.testBytes core p
  let c := s.core core
  let s1 := (s.setCore core { c with l1 := c.l1.filterMap (fun e =>
    if e.2.dirty && p e.1 e.2 then (if c.wholeUnit e.1 then some (e.1, { e.2 with dirty := false, covered := false }) else none) else some e) }).flushBytes c.l1 p
  if s.bad.isEmpty then s1 else (s1.flushBad core ((c.l1.filter (fun e => e.2.dirty && p e.1 e.2)).map (fun e => e.1))).evictBad core

/-- Drop a core's clean L1 bytes that satisfy `p` (R227, R242). -/
def State.invalidate (s : State) (core : Nat) (p : Nat → L1Byte → Bool) : State := s.keepL1 core (fun k b => b.dirty || !p k b)

/-- Drop a core's L1 bytes that satisfy `p`, dirty ones too (R216). -/
def State.discardL1 (s : State) (core : Nat) (p : Nat → L1Byte → Bool) : State := s.keepL1 core (fun k b => !p k b)

/-- An L1 byte lies in a range of virtual addresses; no range is the whole space (R244). -/
def inRange (range : Option (Nat × Nat)) (b : L1Byte) : Bool :=
  match range with
  | none => true
  | some r => decide (r.1 ≤ b.va) && decide (b.va < r.1 + 2 ^ r.2)

/-- The write-back of a wide release on a core: every dirty byte of the range but private ones (R227, R244). -/
def State.releaseL1 (s : State) (core : Nat) (range : Option (Nat × Nat)) : State :=
  s.writeBack core (fun _ b => b.priv.isNone && inRange range b)

/-- The invalidation of a wide acquire on a core: every clean byte of the range but private ones (R227, R244). -/
def State.acquireL1 (s : State) (core : Nat) (range : Option (Nat × Nat)) : State :=
  s.invalidate core (fun _ b => b.priv.isNone && inRange range b)

/-- A core-scope release covers the dirty bytes of its core's L1 that lie in its range, but private ones (R227, R228, R244). -/
def State.coverL1 (s : State) (core : Nat) (range : Option (Nat × Nat)) : State :=
  s.setCore core { s.core core with
    l1 := (s.core core).l1.map (fun e => (e.1, { e.2 with covered := e.2.covered || (e.2.dirty && e.2.priv.isNone && inRange range e.2) })) }

/-- The bytes that a core-scope release itself wrote are covered by it (R228). -/
def State.coverCells (s : State) (core : Nat) (cs : List Cell) : State :=
  s.setCore core { s.core core with
    l1 := (s.core core).l1.map (fun e => (e.1, { e.2 with covered := e.2.covered || (e.2.dirty && e.2.priv.isNone && cs.any (fun c => c.loc = .mem e.1)) })) }

/-- Write back the dirty bytes of the aligned 8 bytes that hold byte `k`: a unit is written back whole, as accesses up to b64 are single-copy atomic (R223). -/
def State.writeBackUnit (s : State) (core k : Nat) : State :=
  if (s.core core).l1.any (fun e => e.1 / 8 = k / 8 && e.2.dirty) then s.writeBack core (fun j _ => j / 8 = k / 8) else s

/-- Take the aligned 8 bytes that hold byte `k` out of a core's L1, dirty ones written back: the access at the point of coherence then sees and leaves no L1 byte (R222, R223). -/
def State.evictUnit (s : State) (core k : Nat) : State :=
  if (s.core core).l1.any (fun e => e.1 / 8 = k / 8) then (s.writeBackUnit core k).discardL1 core (fun j _ => j / 8 = k / 8) else s

/-- The reserved area of a core holds a line, or has room for it: 64 KiB (R219). -/
def Core.pinRoom (c : Core) (line : Nat) : Bool := c.pinned.contains line || decide (c.pinned.length < 512)

/-- Keep a line in a core's reserved area (R219). -/
def State.pin (s : State) (core line : Nat) : State :=
  if (s.core core).pinned.contains line then s else s.setCore core { s.core core with pinned := (s.core core).pinned ++ [line] }

/-- How an access with a CACHE value reaches a line under HOME 0 (R218). -/
def cachePath (cache : Nat) : Path := if cache = 2 then .through else if cache = 3 then .noalloc else .l1

/-- How core `core` reaches byte `k` by a path: under HOME 1 other cores go to the L2, and the named core caches a line that finds its area full as under HOME 0 (R219). -/
def State.pathAt (s : State) (core k : Nat) (p : Path) : Path :=
  match p with
  | .pinned n cache =>
    if n != core then .home
    else if ((s.core core).l1At k).isSome || !(s.core core).pinRoom (k / 128) then cachePath cache
    else .pinned n cache
  | p => p

/-- The cell as an access by another path reaches it: under HOME 3 every access goes to the memory controller (R219). -/
def Cell.via (c : Cell) (p : Path) : Cell := { c with path := if c.path = .direct then .direct else p }

/-! ### One byte -/

/-- The host address of a host I/O byte, once translated (R451). -/
def State.hostAddr (s : State) (djid a : Nat) : Option Nat :=
  (AMap.find s.atc (djid * 2 ^ 40 + a / 4096)).map (fun p => p * 4096 + a % 4096)

/-- The host address of a host I/O byte: the cached translation, else the host's own mapping. -/
def State.hostAt (s : State) (djid a : Nat) : Nat :=
  (s.hostAddr djid a).getD (Config.hostPage djid (a / 4096) * 4096 + a % 4096)

/-- Host pages of cells that link0's translation cache does not hold (R451). -/
def State.atsMissing (s : State) (cells : List Cell) : List Nat :=
  (cells.filterMap (fun c => match c.loc with
    | .host d a => if (s.hostAddr d a).isNone then some (d * 2 ^ 40 + a / 4096) else none
    | _ => none)).eraseDups

/-- The host translations of cells are obtained through ATS and cached (R451; log 111). -/
def State.cacheHost (s : State) (cells : List Cell) : State :=
  match s.atsMissing cells with
  | [] => s
  | ps => { s with atc := ps.foldl (fun (m : AMap Nat) p => AMap.put m p (Config.hostPage (p / 2 ^ 40) (p % 2 ^ 40))) s.atc }

/-- A scratchpad byte of a team; a byte that nothing has written is undefined (R327, log 7). -/
def State.readSp (s : State) (team side off : Nat) : Byte :=
  (AMap.find (s.team team).sp (side * 2 ^ 32 + off)).getD (Config.scratchByte (s.team team).epoch side off)

/-- Write a scratchpad byte of a team. -/
def State.writeSp (s : State) (team side off : Nat) (b : Byte) : State :=
  s.setTeam team { s.team team with sp := AMap.put (s.team team).sp (side * 2 ^ 32 + off) b }

/-- Read one byte as core `core` does (R218, R219, R222). -/
def State.readCell (s : State) (core : Nat) (c : Cell) : Byte × State :=
  match c.loc with
  | .sp t side off => (s.readSp t side off, s)
  | .host d a => (s.host.read (s.hostAt d a), s)
  | .mem k =>
    match s.pathAt core k c.path with
    | .home => let s' := s.evictUnit core k; (s'.mem.read k, s')
    | .direct => let s' := s.evictUnit core k; (s'.mem.read k, s')
    | .pinned _ _ => (s.mem.read k, s.pin core (k / 128))
    | .l1 =>
      match (s.core core).l1At k with
      | some b => (b.val, s)
      | none => (s.mem.read k, s.fillLine core k c.va c.priv)
    | .through =>
      match (s.core core).l1At k with
      | some b => (if b.dirty then b.val else s.mem.read k, s)
      | none => (s.mem.read k, s)
    | .noalloc =>
      match (s.core core).l1At k with
      | some b => (b.val, s)
      | none => (s.mem.read k, s)

/-- A store that goes through to the L2 updates the L1's copy of its byte, and does not dirty it (R218). -/
def State.updateL1 (s : State) (core k : Nat) (b : Byte) : State :=
  let s0 := s.writeBackUnit core k
  match (s0.core core).l1At k with
  | some e => s0.setCore core { s0.core core with l1 := AMap.put (s0.core core).l1 k { e with val := b, dirty := false, covered := false } }
  | none => s0

/-- Write one byte as core `core` does (R218, R219, R222). -/
def State.writeCell (s : State) (core : Nat) (c : Cell) (b : Byte) : State :=
  match c.loc with
  | .sp t side off => s.writeSp t side off b
  | .host d a => { s with host := s.host.write (s.hostAt d a) b }
  | .mem k =>
    match s.pathAt core k c.path with
    | .home => (s.evictUnit core k).writeMem k b
    | .direct => (s.evictUnit core k).writeDirect k b
    | .pinned _ _ => (s.pin core (k / 128)).writeMem k b
    | .l1 =>
      let seen := match (s.core core).l1At k with | some e => e.covered | none => false
      s.setCore core { s.core core with l1 := AMap.put (s.core core).l1 k ⟨b, true, c.priv, c.va, seen⟩ }
    | .through => (s.updateL1 core k b).writeMem k b
    | .noalloc => (s.updateL1 core k b).writeDirect k b

/-- Read the bytes of cells in order. -/
def State.readCells (s : State) (core : Nat) (cs : List Cell) : List Byte × State :=
  match cs with
  | [] => ([], s)
  | c :: rest =>
    let r := s.readCell core c
    let q := r.2.readCells core rest
    (r.1 :: q.1, q.2)

/-- Write bytes to cells in order. -/
def State.writeCells (s : State) (core : Nat) (cs : List Cell) (bs : List Byte) : State :=
  match cs, bs with
  | c :: cs', b :: bs' => (s.writeCell core c b).writeCells core cs' bs'
  | _, _ => s

/-! ### Slices (R378) -/

/-- The slice of the home die that holds a cell's line (R378). -/
def Cell.sliceNo (c : Cell) (key : Nat) : Nat := c.slice.getD (sliceOf key)

/-- A slice keeps a line of a HOME 2 page in its pinned area of 1.5 MiB, while it has room (R378). -/
def State.pinLine (s : State) (key slice : Nat) : State :=
  let d := s.die (homeDie key)
  let lines := AMap.get d.pinned slice []
  if lines.contains (key / 128) || decide (12288 ≤ lines.length) then s
  else s.setDie (homeDie key) { d with pinned := AMap.put d.pinned slice (lines ++ [key / 128]) }

/-- The slices keep the lines of the HOME 2 pages that an access reaches (R378). -/
def State.pinCells (s : State) (cs : List Cell) : State :=
  cs.foldl (fun (acc : State) c => match c.slice, c.loc with
    | some _, .mem k => acc.pinLine k (c.sliceNo k)
    | _, _ => acc) s

/-! ### Consuming a word (R399) -/

/-- The number of no core: what a peer, a stream or Madder reads and writes touches no L1 of this package (R218, R301, R463). -/
def noCore : Nat := 4096

/-- A core's L1 supplies byte `k` on a path, or holds it dirty. -/
def State.l1Serves (s : State) (core k : Nat) (p : Path) : Bool :=
  match s.pathAt core k p, (s.core core).l1At k with
  | .l1, some _ => true
  | .noalloc, some _ => true
  | _, some b => b.dirty
  | _, none => false

/-- The cause of the UCE that consuming a byte raises: its word is uncorrectable where the access finds it (R399). -/
def State.badCell (s : State) (core : Nat) (c : Cell) : Option Nat :=
  match c.loc with
  | .sp t side off => s.badAt (.sp t side (off / 8))
  | .host _ _ => none
  | .mem k => if s.l1Serves core k c.path then s.badAt (.l1 core (k / 8)) else (s.badAt (.l2 (k / 8))).orElse (fun _ => s.badAt (.hbm (k / 8)))

/-- The location of a consumed word of memory, and the die whose log it stands in: the core's for a word of its L1, else the home (R454). -/
def badWordAt (core : Nat) (c : Cell) (cause : Nat) : Option (Nat × Nat) :=
  match c.loc with
  | .mem k => some (if cause = 3 then dieOf core else homeDie k, k / 8 * 8)
  | _ => none

/-- A write to cells by a core, or at their points of coherence, overwrites a whole word: of the copies of package memory, the one that is written (R399). -/
def State.overwrites (s : State) (core : Option Nat) (cs : List Cell) (p : BadPlace) : Bool :=
  let whole := fun (q : Nat → Cell → Bool) => (List.range 8).all (fun i => cs.any (q i))
  match p with
  | .sp t side w => whole (fun i c => c.loc = .sp t side (8 * w + i))
  | .l1 n w => core = some n && whole (fun i c => c.loc = .mem (8 * w + i))
  | .l2 w => whole (fun i c => c.loc = .mem (8 * w + i) && (core.isNone || s.pathAt (core.getD 0) (8 * w + i) c.path != .l1))
  | .hbm w => whole (fun i c => c.loc = .mem (8 * w + i) && (core.isNone || s.pathAt (core.getD 0) (8 * w + i) c.path != .l1))
  | _ => false

/-- Words that a write to cells overwrites whole are protected anew (R399). -/
def State.freshCells (s : State) (core : Option Nat) (cs : List Cell) : State :=
  if s.bad.isEmpty then s else s.clearBad (s.overwrites core cs)

end Sys2Proof.Machine
end

