-- ==== Sys2Proof/Machine/Xlate.lean ====
section
/-! DEFINITION. Address translation: root descriptors, the walk, permissions, the TLBs, and the cell a translated byte lies in (R380 to R388, R517). -/

namespace Sys2Proof.Machine

/-! ### Root descriptors and entries -/

/-- Every byte of a range at a placement lies in package memory (R375, R384). -/
def rangeValid (place pa n : Nat) : Bool :=
  if place = 0 then decide (pa + n ≤ physEnd)
  else if place = 1 then decide (pa / 2 ^ 40 = 0) && decide (pa % 2 ^ 36 + n ≤ stackBytes)
  else place = 2

/-- A root descriptor is well formed (R381). -/
def rootOk (root : Word) : Bool :=
  fld root 63 52 = 0 && fld root 9 0 = 0 && decide (fld root 11 10 < 2) &&
    rangeValid (fld root 11 10) (fld root 51 12 * 4096) 4096

/-- log2 of the page size at a level of the walk; 5 is the page block (R317, R390). -/
def levelLog (level : Nat) : Nat := if level = 5 then 16 else if level = 4 then 21 else 30

/-- The index of a virtual address at a level (R382). -/
def levelIndex (level va : Nat) : Nat :=
  if level = 1 then bitsOf va 56 48 else if level = 2 then bitsOf va 47 39
  else if level = 3 then bitsOf va 38 30 else if level = 4 then bitsOf va 29 21 else bitsOf va 20 16

/-- HIDX keeps the rule of its HOME (R383, R384). -/
def hidxOk (home hidx : Nat) : Bool :=
  if home = 1 then true else if home = 2 then decide (hidx < 32) else hidx = 0

/-- A valid pointer entry is malformed (R384). -/
def badPointer (level e : Nat) : Bool :=
  level = 5 || bitsOf e 2 1 != 0 || decide (2 ≤ bitsOf e 11 10) || bitsOf e 9 4 != 0 || bitsOf e 63 52 != 0 ||
    !rangeValid (bitsOf e 11 10) (bitsOf e 51 12 * 4096) 4096

/-- A valid leaf entry is malformed (R384). -/
def badLeaf (level e : Nat) : Bool :=
  decide (level < 3) || bitsOf e 2 1 != 0 || bitsOf e 11 10 = 3 ||
    (bitsOf e 51 12 * 4096) % 2 ^ levelLog level != 0 || !hidxOk (bitsOf e 9 8) (bitsOf e 63 52) ||
    !rangeValid (bitsOf e 11 10) (bitsOf e 51 12 * 4096) (2 ^ levelLog level)

/-- The leaf of an entry that maps `va` (R383). -/
def leafOf (djid level va e : Nat) : Leaf where
  djid := djid
  base := va - va % 2 ^ levelLog level
  log := levelLog level
  pa := bitsOf e 51 12 * 4096
  place := bitsOf e 11 10
  home := bitsOf e 9 8
  hidx := bitsOf e 63 52
  pager := bitAt e 7
  dtag := bitAt e 6
  x := bitAt e 5
  w := bitAt e 4

/-- How a walk ends. -/
inductive Walk where
  | leaf (l : Leaf)
  /-- An entry with V = 0 at a level, and its PAGER bit. -/
  | absent (level : Nat) (pager : Bool)
  | malformed (level : Nat)
  deriving DecidableEq, Repr

/-- Read a table entry at its home (R387). -/
def State.readEntry (s : State) (place table idx : Nat) : Nat :=
  match physKey place (table + 8 * idx) with
  | some k => s.mem.readN k 8
  | none => 0

/-- Walk from a level's table on; `fuel` levels are left (R382). -/
def State.walkFrom (s : State) (djid va : Nat) (fuel : Nat) (level place table : Nat) : Walk :=
  match fuel with
  | 0 => .malformed level
  | n + 1 =>
    let e := s.readEntry place table (levelIndex level va)
    if !bitAt e 0 then .absent level (bitAt e 7)
    else if bitAt e 3 then
      if badLeaf level e then .malformed level else .leaf (leafOf djid level va e)
    else if badPointer level e then .malformed level
    else s.walkFrom djid va n (level + 1) (bitsOf e 11 10) (bitsOf e 51 12 * 4096)

/-- Walk the tables of a root descriptor (R381, R382). -/
def State.walk (s : State) (djid : Nat) (root : Word) (va : Nat) : Walk :=
  s.walkFrom djid va 5 1 (fld root 11 10) (fld root 51 12 * 4096)

/-! ### TLBs -/

/-- A leaf maps an address of a context. -/
def Leaf.covers (l : Leaf) (djid va : Nat) : Bool :=
  l.djid = djid && decide (l.base ≤ va) && decide (va < l.base + 2 ^ l.log)

/-- The leaf that a core's L1 TLB, or else the die's L2 TLB, holds for an address (R386). -/
def State.tlbLookup (s : State) (core : Option Nat) (die djid va : Nat) : Option Leaf :=
  match (match core with | some c => (s.core c).tlb.find? (fun l => l.covers djid va) | none => none) with
  | some l => some l
  | none => (s.die die).tlb.find? (fun l => l.covers djid va)

/-- Put a leaf at the front of a TLB of `n` entries, in place of the entry for its page (log 8). -/
def tlbInsert (n : Nat) (tlb : List Leaf) (l : Leaf) : List Leaf :=
  (l :: tlb.filter (fun e => !(e.djid = l.djid && e.base = l.base && e.log = l.log))).take n

/-- Keep a leaf in the core's L1 TLB and the die's L2 TLB (R386). -/
def State.tlbFill (s : State) (core : Option Nat) (die : Nat) (l : Leaf) : State :=
  let s1 := match core with
    | some c => s.setCore c { s.core c with tlb := tlbInsert 64 (s.core c).tlb l }
    | none => s
  s1.setDie die { s1.die die with tlb := tlbInsert 8192 (s1.die die).tlb l }

/-- How an access reaches a page. -/
inductive Kind where
  | read | write | fetch
  deriving DecidableEq, Repr

/-- How a translation ends: a leaf, a fault with its cause and page size, or a page that needs the pager and the level the walk stopped at (R384, R385, R389). -/
inductive Xlate where
  | ok (l : Leaf)
  | fault (cause log : Nat)
  | need (level log : Nat)
  deriving DecidableEq, Repr

/-- The leaf allows the access (R385). -/
def Leaf.allows (l : Leaf) (k : Kind) : Bool :=
  match k with
  | .read => true
  | .write => l.w
  | .fetch => l.x

/-- The page-table level of a page size, as a request gives it. -/
def logLevel (log : Nat) : Nat := if log = 16 then 5 else if log = 21 then 4 else 3

/-- What a walk gives an access, when the context has a pager or not (R385, R389, R394). -/
def walkResult (pager : Bool) (k : Kind) (w : Walk) : Xlate :=
  match w with
  | .malformed level => .fault 4 (levelLog level)
  | .absent level p =>
    if k = .fetch then .need level (levelLog level)
    else if p && pager then .need level (levelLog level) else .fault 1 (levelLog level)
  | .leaf l =>
    if l.allows k then .ok l
    else if k = .write && l.pager && pager then .need (logLevel l.log) l.log
    else .fault 3 l.log

/-- Translate an address: by a TLB entry that allows the access, else by a walk (R385, R386). -/
def State.xlate (s : State) (core : Option Nat) (die djid : Nat) (root : Word) (pager : Bool) (va : Nat) (k : Kind) : Xlate :=
  match s.tlbLookup core die djid va with
  | some l => if l.allows k then .ok l else walkResult pager k (s.walk djid root va)
  | none => walkResult pager k (s.walk djid root va)

/-! ### Cells -/

/-- How an access with a CACHE value reaches a page of a HOME value (R218, R219). -/
def pathOf (home hidx cache : Nat) (place : Nat) : Path :=
  if place = 2 then .home
  else if home = 1 then .pinned hidx cache
  else cachePath cache

/-- The cell of a virtual address under its leaf. -/
def Leaf.cell (l : Leaf) (va cache : Nat) (strong : Bool) (priv : Option (Nat × Nat)) : Cell :=
  let pa := l.pa + (va - l.base)
  if l.place = 2 then { loc := .host l.djid pa, path := .home, va := va, priv := priv }
  else
    { loc := .mem ((physKey l.place pa).getD 0), path := if l.home = 3 then .direct else if strong then .home else pathOf l.home l.hidx cache l.place
      va := va, priv := priv, dtag := l.dtag, slice := if l.home = 2 then some l.hidx else none }

/-- The aligned 64 KiB chunks that a list of byte addresses touches, in order of first touch. -/
def chunksOf (vas : List Nat) : List Nat := (vas.map (fun a => a / 65536)).eraseDups

/-- Translations by 64 KiB chunk. -/
abbrev ChunkMap := List (Nat × Xlate)

/-- The leaf that a chunk map gives an address. -/
def ChunkMap.leaf (m : ChunkMap) (va : Nat) : Option Leaf :=
  match m.find? (fun p => p.1 = va / 65536) with
  | some (_, .ok l) => some l
  | _ => none

/-- A context of translation: core if any, die, DJID, root, whether it has a pager. -/
structure XCtx where
  core : Option Nat
  die : Nat
  djid : Nat
  root : Word
  pager : Bool
  deriving DecidableEq, Repr

/-- Translate each chunk once (R386). -/
def State.xlateChunks (s : State) (x : XCtx) (k : Kind) (chunks : List Nat) : ChunkMap :=
  chunks.map (fun c => (c, s.xlate x.core x.die x.djid x.root x.pager (c * 65536) k))

/-- Fill the TLBs with the leaves of a chunk map (R386); a hit in the die's TLB leaves the core's as it is (log 106). -/
def State.fillChunks (s : State) (x : XCtx) (m : ChunkMap) : State :=
  match m with
  | [] => s
  | (c, .ok l) :: rest =>
    State.fillChunks (match s.tlbLookup x.core x.die x.djid (c * 65536) with
      | some l' => if l' = l then s else s.tlbFill x.core x.die l
      | none => s.tlbFill x.core x.die l) x rest
  | _ :: rest => s.fillChunks x rest

/-- The plain and relaxed accesses Madder and the hardware make in a context: translate a byte range with no pager request (R519); `none` on any fault. -/
def State.madderCells (s : State) (x : XCtx) (va n : Nat) (k : Kind) : Option (List Cell) :=
  let vas := (List.range n).map (fun i => (va + i) % 2 ^ 64)
  if vas.any (fun a => decide (2 ^ 57 ≤ a)) then none
  else
    let m := s.xlateChunks { x with pager := false } k (chunksOf vas)
    if vas.all (fun a => (m.leaf a).isSome) then
      some (vas.map (fun a => ((m.leaf a).map (fun l => l.cell a 0 true none)).getD { loc := .mem 0, path := .home, va := a }))
    else none

/-- Read a cell at its point of coherence, touching no L1. -/
def State.peek (s : State) (c : Cell) : Byte :=
  match c.loc with
  | .mem k => s.mem.read k
  | .host d a => s.host.read (s.hostAt d a)
  | .sp t side off => s.readSp t side off

/-- Write a cell at its point of coherence, touching no L1; under CACHE 3 a miss allocates no L2 line (R218). -/
def State.poke (s : State) (c : Cell) (b : Byte) : State :=
  match c.loc with
  | .mem k => if c.path = .direct || c.path = .noalloc then s.writeDirect k b else s.writeMem k b
  | .host d a => { s.cacheHost [c] with host := s.host.write (s.hostAt d a) b }
  | .sp t side off => s.writeSp t side off b

/-- Write bytes to cells at their point of coherence. -/
def State.pokeEach (s : State) (cs : List Cell) (bs : List Byte) : State :=
  match cs, bs with
  | c :: cs', b :: bs' => (s.poke c b).pokeEach cs' bs'
  | _, _ => s

/-- Write bytes to cells at their points of coherence; words written whole are protected anew (R399). -/
def State.pokes (s : State) (cs : List Cell) (bs : List Byte) : State :=
  ((s.pinCells cs).freshCells none cs).pokeEach cs bs

/-- Read `n` bytes at a virtual address at their homes, in a context (R519). -/
def State.readVa (s : State) (x : XCtx) (va n : Nat) : Option (List Byte) :=
  (s.madderCells x va n .read).map (fun cs => cs.map s.peek)

/-- Madder's own read of a virtual range has the translations of its host pages cached (R451, R519; log 111). -/
def State.touchHost (s : State) (x : XCtx) (va n : Nat) : State :=
  match s.madderCells x va n .read with
  | some cs => s.cacheHost cs
  | none => s

/-- Write bytes at a virtual address at their homes, in a context (R519). -/
def State.writeVa (s : State) (x : XCtx) (va : Nat) (bs : List Byte) : Option State :=
  (s.madderCells x va bs.length .write).map (fun cs => s.pokes cs bs)

/-- The translation context of a team's core for its launch (R381, R389). A pager launch's own accesses need the pager too, and are answered as fatal (R430). -/
def State.xctx (s : State) (team core : Nat) : XCtx :=
  let l := s.launchOf team
  ⟨some core, dieOf core, l.region.djid, l.region.root, l.region.pager != 0⟩

/-- A team's context as engine operations and matrix streams of a core use it: they look up the die's TLB alone (R386). -/
def State.dieCtx (s : State) (team core : Nat) : XCtx := { s.xctx team core with core := none }

/-- The translation context of a region as Madder and the die hardware use it. -/
def regionCtx (r : Region) (die : Nat) : XCtx := ⟨none, die, r.djid, r.root, r.pager != 0⟩

end Sys2Proof.Machine
end

