-- ==== Sys2Proof/Machine/Region.lean ====
section
/-! DEFINITION. Region control blocks and their effective fields (R419, R428, R429), notification rings (R438, R439), stopping a queue (R423) and ending a fault domain (R441). -/

namespace Sys2Proof.Machine

/-! ### Region control blocks -/

/-- A ring's size, base and index addresses are usable (R419, R518). -/
def ringUsable (logsz base recSize prod cons : Nat) : Bool :=
  decide (4 ≤ logsz) && decide (logsz ≤ 20) && base % recSize = 0 && prod % 8 = 0 && cons % 8 = 0 &&
    decide (base + recSize * 2 ^ logsz ≤ physEnd) && decide (prod + 8 ≤ physEnd) && decide (cons + 8 ≤ physEnd)

/-- An RCB's own fields are valid: version, reserved bits, INHERIT and reserved PAGER (R426 check 2, R428, R429; log 106). -/
def rcbOk (n : Nat) : Bool :=
  bitsOf n 7 0 = 1 && bitsOf n 2047 1280 = 0 && bitsOf n 1023 1008 = 0 && bitsOf n 991 987 = 0 && bitsOf n 975 965 = 0 &&
    bitsOf n 639 581 = 0 && bitsOf n 383 336 = 0 && bitsOf n 191 141 = 0 && bitsOf n 63 42 = 0 && bitsOf n 15 14 != 3

/-- The chain of RCBs from an address to its root, and whether it reaches one within its depth at aligned addresses; `none` when a block cannot be read (R428; R426 check 1). -/
def State.rcbChain (s : State) (fuel addr : Nat) : Option (List (Nat × Nat) × Bool) :=
  match fuel with
  | 0 => some ([], false)
  | k + 1 =>
    if addr % 64 != 0 then some ([], false)
    else
      match s.readPhys addr 256 with
      | none => none
      | some n =>
        if bitsOf n 127 64 = 0 then some ([(addr, n)], true)
        else (s.rcbChain k (bitsOf n 127 64)).map (fun rest => ((addr, n) :: rest.1, rest.2))

/-- The RCB that supplies a field group: the nearest whose INHERIT bit for it is clear (R429). -/
def rcbFor (chain : List (Nat × Nat)) (bit : Nat) : Nat :=
  match chain.find? (fun p => !bitAt p.2 (32 + bit)) with
  | some p => p.2
  | none => 0

/-- The effective fields of a chain (R429). -/
def regionOf (chain : List (Nat × Nat)) : Region :=
  let pg := rcbFor chain 7
  let nt := rcbFor chain 8
  let sv := rcbFor chain 9
  { rcb := (chain.head?.map (·.1)).getD 0
    prio := bitsOf (rcbFor chain 0) 10 8
    det := bitAt (rcbFor chain 1) 11
    idem := bitAt (rcbFor chain 2) 12
    rr := bitAt (rcbFor chain 3) 13
    fdom := bitsOf (rcbFor chain 4) 31 16
    djid := bitsOf (rcbFor chain 5) 335 320
    root := BitVec.ofNat 64 (bitsOf (rcbFor chain 5) 447 384)
    wdbar := bitsOf (rcbFor chain 6) 479 448
    wdpager := bitsOf (rcbFor chain 6) 511 480
    pager := bitsOf pg 15 14
    pring := bitsOf pg 575 512
    plogsz := bitsOf pg 580 576
    pprod := bitsOf pg 703 640
    pcons := bitsOf pg 767 704
    presp := bitsOf pg 831 768
    plaunch := bitsOf pg 895 832
    nring := bitsOf nt 959 896
    nlogsz := bitsOf nt 964 960
    msix := bitsOf nt 986 976
    coal := bitsOf nt 1007 992
    nprod := bitsOf nt 1087 1024
    ncons := bitsOf nt 1151 1088
    saveBase := bitsOf sv 1215 1152
    saveSize := bitsOf sv 1279 1216
    budgets := chain.map (fun p => (p.1, bitsOf p.2 140 128, bitsOf p.2 255 192, bitsOf p.2 319 256)) }

/-- The rings that an RCB gives itself are usable (R419). -/
def rcbRings (n : Nat) : Bool :=
  let r := regionOf [(0, n)]
  (bitAt n 40 || ringUsable r.nlogsz r.nring 64 r.nprod r.ncons) && (bitAt n 39 || r.pager = 0 || ringUsable r.plogsz r.pring 32 r.pprod r.pcons)

/-- Every RCB of a chain is valid, the last inherits nothing, and the effective root is well formed (R381, R426 check 2). -/
def chainOk (chain : List (Nat × Nat)) : Bool :=
  chain.all (fun p => rcbOk p.2 && rcbRings p.2) && chain.getLast?.any (fun p => bitsOf p.2 63 32 = 0) && rootOk (regionOf chain).root

/-- Resolve the region of an RCB address: status 0x09 or 0xF6 on failure (R423, R426). -/
def State.region (s : State) (rcb : Nat) : Except Nat Region :=
  if rcb = 0 then .error 0xF6
  else
    match s.rcbChain 8 rcb with
    | none => .error 0x09
    | some chain => if chain.2 && chainOk chain.1 then .ok (regionOf chain.1) else .error 0xF6

/-! ### Notifications (R438, R439) -/

/-- The fields of a notification record. -/
structure Note where
  kind : Nat
  status : Nat := 0
  launch : Nat := 0
  team : Nat := 0
  gidx : Nat := 0
  addr : Nat := 0
  tag : Nat := 0
  arg : Nat := 0
  pc : Nat := 0
  call : Nat := 0
  frec : Nat := 0
  deriving DecidableEq, Repr

/-- The 64-byte record of a notification, its SEQ zero (R438). -/
def Note.bits (n : Note) : Nat :=
  n.kind % 256 + (n.status % 256) * 2 ^ 16 + (n.frec % 2 ^ 64) * 2 ^ 64 + (n.gidx % 64) * 2 ^ 138 + (n.call % 2 ^ 16) * 2 ^ 144 +
    (n.launch % 2 ^ 32) * 2 ^ 192 + (n.team % 2 ^ 32) * 2 ^ 224 + (n.addr % 2 ^ 64) * 2 ^ 256 + (n.tag % 2 ^ 64) * 2 ^ 320 +
    (n.arg % 2 ^ 64) * 2 ^ 384 + (n.pc % 2 ^ 64) * 2 ^ 448

/-- Madder's view of the notification ring with a producer-index address. -/
def State.ring (s : State) (r : Region) : Ring := (AMap.find s.rings r.nprod).getD { region := r }

/-- What a word of the MSI-X table reads until it is written: every vector masked, as PCI Express has it (R449; log 109). -/
def msixInit (off : Nat) : Word := if off % 16 = 8 then 0x100000000 else 0

/-- A vector's mask bit, bit 32 of the second word of its table entry (R449; log 109). -/
def State.msixMasked (s : State) (v : Nat) : Bool := (AMap.get s.ctl.msixTable (0x10000 + 16 * v + 8) (msixInit 8)).getLsbD 32

/-- Raise an MSI-X vector: its message is sent, or its pending bit is set while it is masked (R449). -/
def State.raiseMsix (s : State) (v : Nat) : State :=
  if s.msixMasked v then { s with msix := if s.msix.contains v then s.msix else s.msix ++ [v] }
  else { s with msixSent := AMap.put s.msixSent v (AMap.get s.msixSent v 0 + 1) }

/-- Raise a region's MSI-X vector, at once or when its coalescing window closes (R439). -/
def State.signal (s : State) (r : Region) : State :=
  if r.coal = 0 then s.raiseMsix r.msix
  else { s with rings := AMap.put s.rings r.nprod { s.ring r with window := true, region := r } }

/-- Records in a ring that its consumer has not taken. -/
def State.ringUsed (s : State) (prod cons : Nat) : Nat :=
  wrapNat 64 (((s.readPhys prod 8).getD 0 : Int) - ((s.readPhys cons 8).getD 0 : Int))

/-- Index words of a ring that are uncorrectable where Madder reads them, as location keys (R419). -/
def State.ringBad (s : State) (prod cons : Nat) : List Nat :=
  if s.bad.isEmpty then [] else [prod, cons].filterMap (fun pa => (physKey 0 pa).bind (fun k => if s.badKey k then some k else none))

/-- Madder reads the index words of a region's ring: the uncorrectable ones are logged, once for what the words hold (R419, R454; log 99). -/
def State.meetIndex (s : State) (r : Region) (prod cons : Nat) : State :=
  let x := (AMap.find s.rings prod).getD { region := r }
  let now := ((s.readPhys prod 8).getD 0, (s.readPhys cons 8).getD 0)
  if (s.ringBad prod cons).isEmpty then (if x.seen.isNone then s else { s with rings := AMap.put s.rings prod { x with seen := none } })
  else if x.seen = some now then s
  else
    (s.ringBad prod cons).foldl (fun (acc : State) k => acc.sawBad (some (homeDie k, k / 8 * 8)))
      { s with rings := AMap.put s.rings prod { x with seen := some now } }

/-- Write one record at a region ring's producer and advance the index (R419). -/
def State.ringWrite (s : State) (base logsz size prod bits : Nat) : State :=
  let p := (s.readPhys prod 8).getD 0
  (s.writePhys (base + size * (p % 2 ^ logsz)) (leBytes size bits)).writePhys prod (leBytes 8 ((p + 1) % 2 ^ 64))

/-- Post held records of the ring whose producer index is at `prod`, each by the region that posts it, while the ring has room and its indexes read cleanly (R419, R427, R439). -/
def State.drainRing (s : State) (prod : Nat) (held : List (Region × Nat)) : State :=
  match held with
  | [] => { s with rings := AMap.put s.rings prod { AMap.get s.rings prod {} with held := [] } }
  | (r, n) :: rest =>
    if (s.ringBad r.nprod r.ncons).isEmpty && decide (s.ringUsed r.nprod r.ncons < 2 ^ r.nlogsz) then
      let seq := (s.readPhys r.nprod 8).getD 0
      ((s.ringWrite r.nring r.nlogsz 64 r.nprod (n + (seq % 2 ^ 32) * 2 ^ 160)).signal r).drainRing prod rest
    else { s with rings := AMap.put s.rings prod { AMap.get s.rings prod {} with held := (r, n) :: rest, region := r } }

/-- A region is about to write to the ring with these index words: it reads them, and the ring is in its use. -/
def State.useRing (s : State) (r : Region) (prod cons : Nat) : State :=
  let s1 := s.meetIndex r prod cons
  { s1 with rings := AMap.put s1.rings prod { AMap.get s1.rings prod {} with region := r } }

/-- Post a notification on a region's ring, after the records held before it (R439). A region that could not be resolved has no ring. -/
def State.post (s : State) (r : Region) (n : Note) : State :=
  if r.rcb = 0 then s
  else (s.useRing r r.nprod r.ncons).drainRing r.nprod ((s.ring r).held ++ [(r, n.bits)])

/-- The notification ring has room for a record now (R325). -/
def State.ringRoom (s : State) (r : Region) : Bool :=
  (s.ring r).held.isEmpty && (s.ringBad r.nprod r.ncons).isEmpty && decide (s.ringUsed r.nprod r.ncons < 2 ^ r.nlogsz)

/-! ### Queues and fault domains -/

/-- The region of a queue, or a region with no ring. -/
def State.queueRegion (s : State) (q : Nat) : Region :=
  match s.region (s.queue q).rcb.toNat with
  | .ok r => r
  | .error _ => {}

/-- Stop a queue: ERR set, ENABLE cleared (R423). -/
def State.stopQueue (s : State) (q : Nat) : State :=
  s.setQueue q { s.queue q with err := true, enable := false }

/-- Stop a queue with a notification of KIND 2 (R421, R423). -/
def State.stopQueueWith (s : State) (q status addr tag : Nat) : State :=
  (s.stopQueue q).post (s.queueRegion q) { kind := 2, status := status, addr := addr, tag := tag }

/-- An entry of a queue completes: it leaves the taken list, with a notification if asked for (R422, R439). -/
def State.finishEntry (s : State) (q idx kind status launch : Nat) (always : Bool) : State :=
  match (s.queue q).taken.find? (fun e => e.idx = idx) with
  | none => s
  | some e =>
    let s1 := s.setQueue q { s.queue q with taken := (s.queue q).taken.filter (fun x => x.idx != idx) }
    if always || e.notify then
      s1.post e.region { kind := kind, status := status, launch := launch, addr := e.addr, tag := e.tag.toNat }
    else s1

/-- An entry of a queue leaves the taken list without a notification of its own. -/
def State.dropEntry (s : State) (q idx : Nat) : State :=
  s.setQueue q { s.queue q with taken := (s.queue q).taken.filter (fun x => x.idx != idx) }

/-- An instance ends with a status: no further node starts (R433, R434). -/
def Graph.fail (g : Graph) (status : Nat) : Graph :=
  if g.failed then g else { g with ended := true, failed := true, status := status }

/-- Stop every group of a launch's teams (R316, R441). -/
def stopTeams (teams : AMap Team) (id : Nat) : AMap Team :=
  teams.map (fun p =>
    if p.2.launch = id then (p.1, { p.2 with groups := p.2.groups.map (fun g => (g.1, { g.2 with stopped := true })) }) else p)

/-- End one launch of a faulting domain: its groups stop, its notification has KIND 3, and its entry or instance ends (R441). -/
def State.endLaunch (s : State) (id status frec team gidx : Nat) : State :=
  let l := s.launch id
  if l.complete || l.ended.isSome then s
  else
    let s1 := { s.setLaunch id { l with ended := some status, frec := frec } with teams := stopTeams s.teams id }
    let s2 := s1.post l.region { kind := 3, status := status, launch := id, team := team, gidx := gidx, addr := l.lrec.addr, tag := l.tag.toNat, frec := frec }
    match l.origin with
    | .queue q idx => s2.dropEntry q idx
    | .node inst _ =>
      match AMap.find s2.graphs inst with
      | some g => { s2 with graphs := AMap.put s2.graphs inst (({ g with launches := AMap.erase g.launches id } : Graph).fail status) }
      | none => s2
    | _ => s2

/-- End each of a list of launches with status 0. -/
def State.endLaunches (s : State) (ids : List Nat) : State :=
  match ids with
  | [] => s
  | i :: rest => (s.endLaunch i 0 0 0 0).endLaunches rest

/-- Stop each queue whose region has a fault domain (R441). -/
def State.stopQueues (s : State) (fdom : Nat) (qs : List Nat) : State :=
  match qs with
  | [] => s
  | q :: rest =>
    (match s.region (s.queue q).rcb.toNat with
     | .ok r => if r.fdom = fdom then s.stopQueue q else s
     | .error _ => s).stopQueues fdom rest

/-- A trap delivered to the region ends the launch and every launch of its fault domain, and stops the domain's queues (R441). -/
def State.endDomain (s : State) (id status frec team gidx : Nat) : State :=
  let fdom := (s.launch id).region.fdom
  let s1 := s.endLaunch id status frec team gidx
  let others := (s1.launches.filter (fun p => p.1 != id && p.2.region.fdom = fdom && !p.2.complete)).map (·.1)
  (s1.endLaunches others).stopQueues fdom (List.range 64)

end Sys2Proof.Machine
end

