-- ==== Sys2Proof/Machine/Splits.lean ====
section
/-! DEFINITION. The split table, token frames and the spill stack: division, fusion, parking and release (R97 to R110). All on one group. -/

namespace Sys2Proof.Machine

/-- The token of the root frame (R99). -/
def rootToken : Word := 0xFFFFFFFFFFFFFFFF

/-- The frames a frame is inside of, itself first (R99). -/
def Group.chainFrom (g : Group) (fuel f : Nat) : List Nat :=
  match fuel with
  | 0 => [f]
  | n + 1 => if f = 0 then [0] else f :: g.chainFrom n (g.frame f).parent

/-- The frames a holder of `f` holds (R99). -/
def Group.chain (g : Group) (f : Nat) : List Nat := g.chainFrom 8 f

/-- The state in which a split can issue: runnable, or in handler (R98). -/
def Split.ready (sp : Split) : Nat := if sp.handler then 6 else 1

/-- Entry `i` of the split table is in use. -/
def Group.used (g : Group) (i : Nat) : Bool := (g.split i).st != 0

/-- Split-table entries in use, ascending. -/
def Group.usedSplits (g : Group) : List Nat := (List.range 8).filter g.used

/-- The lowest free split entry. -/
def Group.freeSplit (g : Group) : Option Nat := (List.range 8).find? (fun i => !g.used i)

/-- The lowest free frame (R101). -/
def Group.freeFrame (g : Group) : Option Nat := (List.range 8).find? (fun i => i != 0 && !(g.frame i).valid)

/-- Some split other than `skip`, or some spill entry, holds frame `f` (R99). -/
def Group.heldBy (g : Group) (skip : Option Nat) (f : Nat) : Bool :=
  g.usedSplits.any (fun i => some i != skip && (g.chain (g.split i).frame).contains f) ||
    g.spill.any (fun e => (g.chain e.frame).contains f)

/-- Free every frame that nothing holds (R99). -/
def Group.pruneFrames (g : Group) : Group :=
  { g with frames := (List.range 8).map (fun f =>
      if f = 0 then { token := rootToken, parent := 0, depth := 0, valid := true }
      else if (g.frame f).valid && g.heldBy none f then g.frame f else {}) }

/-- Entry `hi` fuses into entry `lo`: the masks join, `hi` is freed, and its spill entries, deferred traps and logged instructions name `lo` (R103, R105). The survivor keeps its own handler flag (log 106). -/
def Group.fuse (g : Group) (lo hi : Nat) : Group :=
  let g1 := g.setSplit lo { g.split lo with mask := (g.split lo).mask ||| (g.split hi).mask }
  let g2 := g1.setSplit hi {}
  { g2 with
    spill := g2.spill.map (fun e => if e.owner = hi then { e with owner := lo } else e)
    deferred := g2.deferred.map (fun d => if d.split = hi then { d with split := lo } else d)
    oplog := g2.oplog.map (fun e => if e.split = hi then { e with split := lo } else e) }

/-- Turn loose spill entries into splits while split entries are free, the most recently pushed first (R110). -/
def Group.restoreLoose (g : Group) (fuel : Nat) : Group :=
  match fuel with
  | 0 => g
  | n + 1 =>
    match (g.spill.zipIdx.filter (fun p => p.1.loose)).getLast?, g.freeSplit with
    | some (e, idx), some i =>
      ({ g.setSplit i { st := 1, mask := e.mask, pc := if e.park then e.token else e.pc, frame := e.frame } with
          spill := g.spill.eraseIdx idx }).restoreLoose n
    | _, _ => g

/-- The owner of spill entries parks or is freed: those of its entries that `p` picks become loose (R110). -/
def Group.loosenIf (g : Group) (i : Nat) (p : Spill → Bool) : Group :=
  ({ g with spill := g.spill.map (fun e : Spill => if e.owner = i && p e then { e with loose := true } else e) } : Group).restoreLoose 32

/-- Every entry of an owner becomes loose: it exits, joins or waits at a barrier (R110). -/
def Group.loosen (g : Group) (i : Nat) : Group := g.loosenIf i (fun _ => true)

/-- A split is parked at the token of frame `f`, holding it directly (R103). -/
def Group.parkedAt (g : Group) (f i : Nat) : Bool :=
  (g.split i).st = 3 && (g.split i).frame = f && (g.split i).wait = .token (g.frame f).token

/-- Release the split parked at frame `f`'s token when every holder of `f` is parked there (R103 step 4). -/
def Group.releaseToken (g : Group) (f : Nat) : Group :=
  if (g.frame f).valid && f != 0 then
    let holders := g.usedSplits.filter (fun i => (g.chain (g.split i).frame).contains f)
    if holders.all (g.parkedAt f) && !(g.spill.any (fun e => (g.chain e.frame).contains f)) then
      match holders with
      | i :: _ =>
        g.setSplit i { g.split i with st := (g.split i).ready, wait := .none, frame := (g.frame f).parent, pc := (g.frame f).token + 8 }
      | [] => g
    else g
  else g

/-- Frames by depth, deepest first. -/
def Group.framesByDepth (g : Group) : List Nat :=
  (List.range 8).reverse.flatMap (fun d => (List.range 8).filter (fun f => f != 0 && (g.frame f).valid && (g.frame f).depth = d))

/-- Release tokens of a list of frames in turn, freeing the frames nothing holds. -/
def Group.releaseTokens (g : Group) (fs : List Nat) : Group :=
  match fs with
  | [] => g
  | f :: rest => ((g.releaseToken f).pruneFrames).releaseTokens rest

/-- Release a JOIN whose split holds every thread that has not exited (R106). -/
def Group.releaseJoin (g : Group) : Group :=
  match g.usedSplits.find? (fun i => (g.split i).st = 4 && (g.split i).mask = g.present) with
  | some i =>
    match (g.split i).wait with
    | .join j => if g.spill.isEmpty then (g.setSplit i { g.split i with st := (g.split i).ready, wait := .none, frame := 0, pc := j + 8 }).pruneFrames else g
    | _ => g
  | none => g

/-- The checks that follow a park, an exit, a freed entry or a removed spill entry (R103, R106, R110). -/
def Group.recheck (g : Group) : Group :=
  let g1 := (g.restoreLoose 32).pruneFrames
  (g1.releaseTokens g1.framesByDepth).releaseJoin

/-- Another split parked at the same wait and frame: fuse `i` with it (R103 step 3, R106). -/
def Group.fuseParked (g : Group) (i : Nat) : Group :=
  match g.usedSplits.find? (fun j => j != i && (g.split j).st = (g.split i).st && (g.split j).wait = (g.split i).wait &&
      (g.split j).frame = (g.split i).frame) with
  | some j => if j < i then g.fuse j i else g.fuse i j
  | none => g

/-- The most recently pushed spill entry that split `i` owns. -/
def Group.topSpill (g : Group) (i : Nat) : Option (Spill × Nat) :=
  (g.spill.zipIdx.filter (fun p => p.1.owner = i && !p.1.loose)).getLast?

/-- The frame check of an RCV at `t` by split `i`, whose PC already stands at t + 8 (R103 steps 2 to 4). Parking at the token of frame `f` frees the spill entries that `f` encloses: not those of a frame outside it (R110). -/
def Group.rcvFrames (g : Group) (i : Nat) (t : Word) : Group :=
  match (g.chain (g.split i).frame).find? (fun f => (g.frame f).token = t) with
  | none => g
  | some f =>
    let g1 := (g.setSplit i { g.split i with st := 3, wait := .token t, frame := f, parkPc := t, pc := t + 8 }).loosenIf i (fun e => (g.chain e.frame).contains f)
    (g1.pruneFrames.fuseParked i).recheck

/-- RCV at `t` by split `i` (R103, R109). -/
def Group.rcv (g : Group) (i : Nat) (t : Word) : Group :=
  match g.topSpill i with
  | some (e, idx) =>
    if e.token = t then
      if e.park then
        let g1 : Group := { g with spill := g.spill.eraseIdx idx }
        (g1.setSplit i { g1.split i with mask := (g1.split i).mask ||| e.mask }).rcvFrames i t
      else
        let g1 : Group := { g with spill := g.spill.set idx { e with mask := (g.split i).mask, park := true, pc := t, token := t } }
        g1.setSplit i { g1.split i with mask := e.mask, pc := e.pc }
    else g.rcvFrames i t
  | none => g.rcvFrames i t

/-- JOIN at `j` by split `i`, whose PC already stands at j + 8 (R106). -/
def Group.join (g : Group) (i : Nat) (j : Word) : Group :=
  if (g.split i).mask = g.present && g.spill.isEmpty then (g.setSplit i { g.split i with frame := 0 }).pruneFrames
  else
    let g1 := (g.setSplit i { g.split i with st := 4, wait := .join j, parkPc := j }).loosen i
    let others := g1.usedSplits.filter (fun x => (g1.split x).st = 4 && (g1.split x).wait = .join j)
    let lo := others.headD i
    (others.foldl (fun acc x => if x = lo then acc else acc.fuse lo x) g1).recheck

/-- BRD by split `i`: the taken threads go to `target`, the others to `fall`; `none` is SPLITOVF (R101, R108, R122). -/
def Group.brd (g : Group) (i : Nat) (taken : Half) (target fall t : Word) : Option Group :=
  let sp := g.split i
  let rest := sp.mask &&& ~~~taken
  if rest = 0 then some (g.setSplit i { sp with pc := target })
  else if taken = 0 then some (g.setSplit i { sp with pc := fall })
  else
    let need := (g.frame sp.frame).token != t
    match g.freeSplit, (if need then g.freeFrame else some sp.frame) with
    | some n, some f =>
      let g1 := if need then g.setFrame f { token := t, parent := sp.frame, depth := (g.frame sp.frame).depth + 1, valid := true } else g
      some ((g1.setSplit i { sp with mask := taken, pc := target, frame := f }).setSplit n { st := 1, mask := rest, pc := fall, frame := f })
    | _, _ =>
      if 32 ≤ g.spill.length then none
      else
        let e : Spill := { mask := rest, token := t, owner := i, frame := sp.frame, park := false, pc := fall }
        some (({ g with spill := g.spill ++ [e] } : Group).setSplit i { sp with mask := taken, pc := target })

/-- Put a value at its place in a rising list, unless it is there. -/
def insertAsc (x : Nat) (xs : List Nat) : List Nat :=
  match xs with
  | [] => [x]
  | y :: rest => if x < y then x :: y :: rest else if x = y then y :: rest else y :: insertAsc x rest

/-- Distinct values of a list, ascending. -/
def ascending (xs : List Nat) : List Nat :=
  xs.foldr insertAsc []

/-- New splits of a JMPI for the later targets, ascending (R125). -/
def Group.addTargets (g : Group) (frame : Nat) (mask : Half) (targets : List Nat) (f : Nat → Nat) (st : Nat) : Group :=
  match targets with
  | [] => g
  | u :: rest =>
    match g.freeSplit with
    | some n =>
      (g.setSplit n { st := st, mask := mask &&& maskOf (fun t => f t = u), pc := BitVec.ofNat 64 u, frame := frame }).addTargets frame mask rest f st
    | none => g

/-- The threads of `m` exit: they leave the live, demoted and split masks, their pending results are dropped, and an empty split is freed (R17, R126). -/
def Group.exitThreads (g : Group) (i : Nat) (m : Half) : Group :=
  let g1 := ({ g with live := g.live &&& ~~~m, dem := g.dem &&& ~~~m }).dropThreads m
  let left := (g1.split i).mask &&& ~~~m
  if left = 0 then ((g1.setSplit i {}).loosen i).recheck
  else (g1.setSplit i { g1.split i with mask := left }).recheck

/-- The lower entry that a runnable split fuses into: it stands at its PC with its frame (R104). -/
def Group.fusesInto (g : Group) (i : Nat) : Option Nat :=
  g.usedSplits.find? (fun j => decide (j < i) && (g.split j).st = 1 && (g.split i).st = 1 && (g.split j).pc = (g.split i).pc &&
    (g.split j).frame = (g.split i).frame)

/-- Fuse the runnable splits that stand at one PC with one frame, those that a fusion lets out of the spill stack among them, until no two do (R104, R110). -/
def Group.fuseRunnable (g : Group) (fuel : Nat) : Group :=
  match fuel with
  | 0 => g
  | n + 1 =>
    match g.usedSplits.findSome? (fun i => (g.fusesInto i).map (fun j => (j, i))) with
    | some (j, i) => ((g.fuse j i).recheck).fuseRunnable n
    | none => g

/-- The frame table with the root frame alone (R99). -/
def freshFrames : List Frame :=
  { token := rootToken, parent := 0, depth := 0, valid := true } :: List.replicate 7 {}

/-- The split table of one split at a PC with a mask (R97). -/
def freshSplits (m : Half) (pc : Word) : List Split :=
  { st := 1, mask := m, pc := pc } :: List.replicate 7 {}

end Sys2Proof.Machine
end

