-- ==== Sys2Proof/WellFormed.lean ====
section
/-! DEFINITION. Well-formed instructions: those whose fields pass every decode check of R78 and whose operands are written in the one form that decoding yields. -/

namespace Sys2Proof

open Machine

/-- An operand is a register exactly where its position holds a register field (R61, R62, R168). -/
def wfOpnd (cl : Classes) (o : Opnd) : Bool :=
  match o with
  | .lit _ => !isRegPos cl
  | _ => isRegPos cl

/-- A 64-bit operand fits the 27-bit immediate (R64). -/
def wfShortImm (imm : Word) : Bool := (imm.setWidth 27).signExtend 64 == imm

/-- The operands of a form are canonical under the opcode's row; a short immediate fits its field (R64). -/
def wfOperands (r : Row) (v : View) : Bool :=
  match v with
  | .reg _ f => wfOpnd r.d f.d && wfOpnd r.a f.a && wfOpnd r.b f.b && wfOpnd r.c f.c
  | .imm _ f => wfOpnd r.d f.d && wfOpnd r.a f.a && (f.long || wfShortImm f.imm)
  | .branch _ f => wfOpnd r.d f.d && wfOpnd r.a f.a
  | .mem _ f => wfOpnd r.d f.d && wfOpnd r.a f.a && wfOpnd r.b f.b && wfOpnd r.c f.c
  | .fmt _ f => wfOpnd r.d f.d && wfOpnd r.a f.a && wfOpnd r.b f.b && wfOpnd r.c f.c
  | .event => false

/-- CBSAVE and CBSAVE `.rst` differ in MOD[1] (R281). -/
def wfSave (i : Instr) : Bool :=
  match i with
  | .cbsave f => !f.mod.getLsbD 0
  | .cbsaveRst f => f.mod.getLsbD 0
  | _ => true

/-- The fields of an instruction pass the checks of R78 and hold its operands canonically. -/
def wfFields (cx : DecodeCtx) (v : View) (f : Fields) : Bool :=
  match rowFor f with
  | none => false
  | some r => wfOperands r v && (illopCause cx f).isNone

/-- An instruction that an encoding stands for, in the given decode context. An event has no encoding. -/
def Instr.wf (cx : DecodeCtx) (i : Instr) : Bool :=
  match instrFields i with
  | none => false
  | some f => wfFields cx (viewOf i) f && wfSave i

end Sys2Proof
end

