-- ==== Sys2Proof/Decode.lean ====
section
/-! DEFINITION. Decoding instruction words and bytes, with the ILLOP cause where a word is rejected (R78), and the encoder. -/

namespace Sys2Proof

open Machine

/-- What decoding a byte string gives: an instruction and the bytes after it, an ILLOP cause, or too few bytes. -/
inductive Decoded where
  | instr (i : Instr) (rest : List Byte)
  | illop (cause : Nat)
  | short
  deriving DecidableEq, Repr

/-- The instruction of a base word and the word after it, or the ILLOP cause of R78. -/
def decodeWords (cx : DecodeCtx) (w ext : Word) : Except Nat Instr :=
  match illopCause cx (Fields.ofWords w ext) with
  | some c => .error c
  | none =>
    match rowFor (Fields.ofWords w ext) with
    | none => .error 1
    | some r =>
      match (typedOf r (Fields.ofWords w ext)).build with
      | some i => .ok i
      | none => .error 1

/-- The word held by the first 8 bytes, little-endian (R2, R59). -/
def wordOfBytes (bs : List Byte) : Word := BitVec.ofNat 64 (leNat (bs.take 8))

/-- Decode the instruction at the start of a byte string (R58, R59). -/
def decode (cx : DecodeCtx) (bs : List Byte) : Decoded :=
  if bs.length < 8 then .short
  else if (wordOfBytes bs).getLsbD 0 && bs.length < 16 then .short
  else
    match decodeWords cx (wordOfBytes bs) (wordOfBytes (bs.drop 8)) with
    | .error c => .illop c
    | .ok i => .instr i (bs.drop (if (wordOfBytes bs).getLsbD 0 then 16 else 8))

/-- The words of an instruction, base word first; none for an event (R58). -/
def encode (i : Instr) : List Word :=
  match instrFields i with
  | none => []
  | some f => if f.x = 1 then [f.base, f.ext] else [f.base]

/-- The bytes of an instruction, each word little-endian. -/
def encodeBytes (i : Instr) : List Byte := (encode i).flatMap (fun w => leBytes 8 w.toNat)

/-- The most permissive decode context: every register, bank, tile and recipe present, in a handler. -/
def tableCtx : DecodeCtx := ⟨192, 255, 15, 255, true, true, true, false⟩

/-- The instruction that the decoder reads from an instruction whose bits are `w`, numbered from bit 0 of the first word; bits above `nbits` are zero. -/
def decodeTableWord (nbits w : Nat) : Option Instr :=
  match decode tableCtx (leBytes 16 (w % 2 ^ nbits)) with
  | .instr i _ => some i
  | _ => none

end Sys2Proof
end

