-- ==== Sys2Proof/Machine/Uses.lean ====
section
/-! DEFINITION. The registers that an instruction names, and those it reads by thread number (R112, R193, R201). -/

namespace Sys2Proof.Machine

/-! ### Fields that several meanings read -/

/-- The SAT bit of a register form, MOD[1] (R134). -/
def RegForm.flag (f : RegForm) : Bool := f.mod.getLsbD 0

/-- The literal that a format instruction holds in its C field. -/
def fmtLit (f : FmtForm) : Nat := fieldOf f.c

/-- Width of a format definition word: W, bits [41:36] (R27). -/
def fmtWidth (w : Word) : Nat := fld w 41 36

/-- Elements of slot `n` of a group, with its format. -/
def Group.fmt (g : Group) (n : Nat) : Fmt := fmtOf (g.readF n)

/-- Elements per word of a format. -/
def Fmt.k (f : Fmt) : Nat := lanesOf f.w

/-- SHFL's source thread (R153). -/
def shflSource (mode t : Nat) (b : Word) : Nat :=
  match mode with
  | 0 => b.toNat % 32
  | 1 => if 32 ≤ b.toNat ∨ t < b.toNat then t else t - b.toNat
  | 2 => if 32 ≤ b.toNat ∨ 31 < t + b.toNat then t else t + b.toNat
  | _ => (t ^^^ (b.toNat % 32)) % 32

/-! ### Registers of an instruction (R201) -/

/-- `n` register fields from an operand on. -/
def fieldsFrom (o : Opnd) (n : Nat) : List Nat :=
  match o with
  | .v x => (List.range n).map (fun j => x.val + j)
  | .g x => (List.range n).map (fun j => 192 + x.val + j)
  | .k x => [240 + x.val]
  | _ => []

/-- Registers of D of a memory form (R68, R239). -/
def memCount (op : Nat) (f : MemForm) : Nat :=
  if op = 0x76 || op = 0x77 then 2 else if f.size.val = 4 then 2 else if f.size.val = 5 then 4 else 1

/-- Registers of D of a register form: RNG of 128 bits and MSEL24 write two. -/
def regCount (op : Nat) (f : RegForm) : Nat := if (op = 0x68 && f.fs = 1) || op = 0xB6 then 2 else 1

/-- Registers of A of a register form: a command tuple has four (R345, R475). -/
def commandCount (op : Nat) : Nat := if op = 0xC0 || op = 0xC2 || op = 0xC3 || op = 0xD4 || op = 0xD5 then 4 else 1

/-- The destination field of an opcode is written, not read as data: all but stores (R236, R470). -/
def writesD (op : Nat) : Bool := !(op = 0x71 || op = 0x73 || op = 0x75 || op = 0x77 || op = 0x79 || op = 0x99 || op = 0xD1)

/-- Opcode, register fields written, register fields read, the mask, and the lookahead field of an instruction. -/
structure Uses where
  op : Nat := 0
  writes : List Nat := []
  reads : List Nat := []
  mask : Mask := Mask.none
  la : Nat := 0
  deriving DecidableEq, Repr

/-- The registers an instruction names (R201). -/
def usesOf (i : Instr) : Uses :=
  let mk := fun (op : Nat) (d : List Nat) (src : List Nat) (m : Mask) (la : Nat) =>
    ({ op := op, writes := if writesD op then d else [], reads := if writesD op then src else d ++ src, mask := m, la := la } : Uses)
  match viewOf i with
  | .reg op f =>
    let base := mk op (fieldsFrom f.d (regCount op f)) (fieldsFrom f.a (commandCount op) ++ fieldsFrom f.b 1 ++ fieldsFrom f.c 1) f.mask f.la.toNat
    if op = 0x27 then { base with reads := base.reads ++ base.writes } else base
  | .imm op f => mk op (fieldsFrom f.d 1) (fieldsFrom f.a 1) f.mask 0
  | .branch op f => mk op (fieldsFrom f.d 1) (fieldsFrom f.a 1) f.mask 0
  | .mem op f => mk op (fieldsFrom f.d (memCount op f)) (fieldsFrom f.a 1 ++ fieldsFrom f.b 1 ++ fieldsFrom f.c 1) f.mask f.la.toNat
  | .fmt op f => mk op (fieldsFrom f.d 1) (fieldsFrom f.a 1 ++ fieldsFrom f.b 1 ++ fieldsFrom f.c 1) f.mask f.la.toNat
  | .event => {}

/-! ### Registers read by thread number (R112) -/

/-- Registers that an instruction reads by thread number, each with its thread (R112, R193, R489). -/
def crossThreads (g : Group) (self : Half) (i : Instr) : List (Nat × Nat) :=
  let at_ := fun (o : Opnd) (t : Nat) => (fieldsFrom o 1).map (fun r => (r, t))
  match i with
  | .shfl f => (threadsOf (g.active self f.mask)).flatMap (fun t => at_ f.a (shflSource f.fs.toNat t (g.readOpnd self f.b t)))
  | .eperm f =>
    let w := fmtWidth (g.readF f.fs.toNat)
    let k := lanesOf w
    (threadsOf (g.active self f.mask)).flatMap (fun t => (List.range k).flatMap (fun j =>
      at_ f.a (((g.readOpnd self f.b t).toNat + j * (f.mod.toNat % 1024)) % (32 * k) / k)))
  | .pick f => at_ f.a (if RegForm.flag f then lowBit 32 self.toNat else (g.readOpnd self f.b 0).toNat % 32)
  | .fbscl f =>
    let k := (g.fmt (fmtLit f % 16)).k
    (threadsOf (g.active self f.mask)).flatMap (fun t => at_ f.b (t * k / 256) ++ at_ f.b ((t * k + k - 1) / 256))
  | .dred f => (List.range (match f.b with | .g _ => (g.readOpnd self f.b 0).toNat % 16 | _ => 8)).flatMap (at_ f.a)
  | _ => []

/-- The operand that an instruction reads by thread number and not thread by thread (R151, R188, R193, R489). -/
def crossOpnd (i : Instr) : Option Opnd :=
  match i with
  | .shfl f => some f.a
  | .eperm f => some f.a
  | .pick f => some f.a
  | .fbscl f => some f.b
  | .dred f => some f.a
  | _ => none

/-- Registers that an instruction reads in its own active threads. -/
def ownReads (i : Instr) : List Nat :=
  match crossOpnd i with
  | some o => (fieldsFrom o 1).foldl (fun xs r => xs.erase r) (usesOf i).reads
  | none => (usesOf i).reads

/-- The D that an instruction reads as well as writes: FDOT adds to its element 0, a conversion to narrower elements and FCVTI from an integer keep its other elements (R184, R186, R187). -/
def Group.mergedD (g : Group) (i : Instr) : List Nat :=
  let more := fun (f : FmtForm) => if (g.fmt (fmtLit f % 16)).k < (g.fmt f.slot.toNat).k then fieldsFrom f.d 1 else []
  match i with
  | .fdot f => fieldsFrom f.d 1
  | .fcvt f => more f
  | .fbscl f => more f
  | .fcvti f => if (fmtLit f).testBit 2 then fieldsFrom f.d 1 else []
  | _ => []

end Sys2Proof.Machine
end

