-- ==== Sys2Proof/Machine/Ops.lean ====
section
/-! DEFINITION. Issuing an instruction, taking a trap and leaving its handler, delivery to the region (R72, R79, R80, R114, R313 to R318, R322, R323, R441). -/

namespace Sys2Proof.Machine

open Host

/-! ### The issuing split -/

/-- The group of a split reference. -/
def State.groupAt (s : State) (r : SplitRef) : Group := s.group r.team r.grp
/-- Replace the group of a split reference. -/
def State.setGroupAt (s : State) (r : SplitRef) (g : Group) : State := s.setGroup r.team r.grp g
/-- The split of a split reference. -/
def State.splitAt (s : State) (r : SplitRef) : Split := (s.groupAt r).split r.split
/-- Replace the split of a split reference. -/
def State.setSplitAt (s : State) (r : SplitRef) (x : Split) : State := s.setGroupAt r ((s.groupAt r).setSplit r.split x)

/-- Address of the instruction after the one at `l` (R59). -/
def Latch.next (l : Latch) : Word := l.pc + (if l.w0.getLsbD 0 then 16 else 8)

/-- The mask of the issuing split: k0 (R10). -/
def Latch.self (l : Latch) (s : State) : Half := (s.splitAt l.ref).mask

/-! ### Fault records (R317) -/

/-- Number of teams of a launch record's grid. -/
def LaunchRec.teams (r : LaunchRec) : Nat := r.nx * r.ny * r.nz

/-- PRIVBASE of a group (R424). -/
def LaunchRec.privBase (r : LaunchRec) (linear gidx : Nat) : Nat := r.privArea + (linear * r.ngrp + gidx) * 32 * r.privSize

/-- FRECBASE of a group (R424). -/
def LaunchRec.frecBase (r : LaunchRec) (linear gidx : Nat) : Nat :=
  r.privArea + r.teams * r.ngrp * 32 * r.privSize + (linear * r.ngrp + gidx) * 2048

/-- FRECBASE of a resident group. -/
def State.frecBase (s : State) (team grp : Nat) : Nat :=
  (s.launchOf team).lrec.frecBase (s.team team).linear grp

/-- One fault record (R317). -/
def recordBits (addr pc launch team gidx thr count split : Nat) (defer write fetch remote : Bool) (index aux code event : Nat) : Nat :=
  event % 2 ^ 16 + (code % 256) * 2 ^ 16 + (aux % 256) * 2 ^ 24 + (index % 128) * 2 ^ 32 + natOfBool remote * 2 ^ 39 +
    natOfBool fetch * 2 ^ 40 + natOfBool write * 2 ^ 41 + natOfBool defer * 2 ^ 42 + (split % 8) * 2 ^ 43 + (count % 128) * 2 ^ 46 +
    (thr % 32) * 2 ^ 53 + (gidx % 64) * 2 ^ 58 + (team % 2 ^ 32) * 2 ^ 64 + (launch % 2 ^ 32) * 2 ^ 96 + (pc % 2 ^ 64) * 2 ^ 128 +
    (addr % 2 ^ 64) * 2 ^ 192

/-- TRAPAUX of a trap: a deferred trap holds its resume address and its cause (R315). -/
def TrapAt.auxWord (t : TrapAt) : Nat :=
  if t.req.deferred then 2 ^ 63 + (t.resume.toNat % 2 ^ 57) / 8 * 8 + t.req.aux % 8 else t.req.aux % 2 ^ 64

/-- The records of a trap: one per faulting page, or one with ADDR zero (R317). -/
def trapRecords (s : State) (team grp split : Nat) (t : TrapAt) : List Nat :=
  let tm := s.team team
  let pages := if t.req.pages.isEmpty then [{ addr := 0, thr := 0 }] else t.req.pages.take 64
  pages.zipIdx.map (fun p =>
    recordBits p.1.addr t.pc.toNat tm.launch tm.linear grp p.1.thr pages.length split t.req.deferred p.1.write p.1.fetch p.1.remote
      p.2 (t.auxWord % 256) t.req.code (s.group team grp).event)

/-- Write bytes in a group's context as plain stores of its core that go through to L2, with no pager request (R317, R519; log 31). -/
def State.writeThrough (s : State) (x : XCtx) (va : Nat) (bs : List Byte) : Option State :=
  (s.madderCells x va bs.length .write).map (fun cs =>
    match x.core with
    | some c => s.writeCells c (cs.map (fun (e : Cell) => e.via .through)) bs
    | none => s.pokes cs bs)

/-- The cells of an address range that the group's context can write, unit of 64 KiB by unit; the rest is left out. -/
def State.areaCells (s : State) (x : XCtx) (base n : Nat) : List Cell :=
  (List.range (if n = 0 then 0 else (base + n - 1) / 65536 + 1 - base / 65536)).flatMap (fun i =>
    let u := base / 65536 + i
    let lo := max base (u * 65536)
    (s.madderCells x lo (min (base + n) ((u + 1) * 65536) - lo) .write).getD [])

/-- Bytes that the spec leaves undefined take free values, through a core's L1 (R216, R317; logs 15, 17, 18). -/
def State.unsettle (s : State) (core : Nat) (cs : List Cell) : State :=
  ({ s with free := s.free + cs.length } : State).writeCells core (cs.map (fun (e : Cell) => e.via .through))
    ((List.range cs.length).map (fun i => (Config.freeWord (s.free + i)).setWidth 8))

/-- The fault record area of a group whose record cannot be written is undefined (R317, R520; log 18). -/
def State.unsettleRecords (s : State) (team grp : Nat) : State :=
  let c := (s.group team grp).core
  s.unsettle c (s.areaCells (s.xctx team c) (s.frecBase team grp) 2048)

/-- Write records of 32 bytes from an address on in a team's context; `none` when one cannot be written (R317). -/
def State.writeRecords (s : State) (x : XCtx) (base : Nat) (rs : List Nat) : Option State :=
  match rs with
  | [] => some s
  | r :: rest =>
    match s.writeThrough x base (leBytes 32 r) with
    | some s' => s'.writeRecords x (base + 32) rest
    | none => none

/-- Write the records of a trap of a group and count the event (R317). -/
def State.recordTrap (s : State) (team grp split : Nat) (t : TrapAt) : Option State :=
  match s.writeRecords (s.xctx team ((s.group team grp).core)) (s.frecBase team grp) (trapRecords s team grp split t) with
  | some s' => some (s'.setGroup team grp { s'.group team grp with event := ((s'.group team grp).event + 1) % 2 ^ 16 })
  | none => none

/-! ### Trap registers and entry -/

/-- The trap registers hold a deferred trap: TRAPAUX[63], which a SWTRAP's operand does not make one (R131, R315; log 96). -/
def Group.trapDeferred (g : Group) : Bool :=
  (AMap.get g.trap 0x2D 0).getLsbD 63 && AMap.get g.trap 0x20 0 != 0x13

/-- The trap registers that a trap presents (R79). -/
def TrapAt.regs (t : TrapAt) : AMap Word :=
  let f := Fields.ofWords t.w0 t.w1
  let vals : List (Nat × Nat) :=
    [(0x20, t.req.code), (0x21, t.pc.toNat), (0x22, t.w0.toNat), (0x23, if t.w0.getLsbD 0 then t.w1.toNat else 0),
     (0x24, f.op.toNat), (0x25, f.d.toNat), (0x26, f.a.toNat), (0x27, f.b.toNat), (0x28, f.c.toNat), (0x29, f.mod.toNat),
     (0x2A, f.fs.toNat), (0x2B, f.mi.toNat * 8 + f.mkr.toNat), (0x2D, t.auxWord)]
  (vals.filter (fun p => p.2 != 0)).map (fun p => (p.1, BitVec.ofNat 64 p.2))

/-- Present a trap's registers in the group (R79, R25). -/
def Group.setTrap (g : Group) (t : TrapAt) : Group :=
  { g with trap := t.regs, trapAddr := t.req.addrs.filter (fun p => p.2 != 0) }

/-- A trap that R313 delivers to the region only: E2E and DETOVF. -/
def regionOnly (code : Nat) : Bool := code = 0x10 || code = 0x16

/-- Deliver a trap to the region: the registers and records are written, the group stops, and the fault domain ends (R316, R441). -/
def State.regionTrap (s : State) (r : SplitRef) (t : TrapAt) : State :=
  let s1 := match s.recordTrap r.team r.grp r.split t with
    | some s' => s'
    | none => s.unsettleRecords r.team r.grp
  let g := s1.groupAt r
  let s2 := s1.setGroupAt r { g.setTrap t with stopped := true }
  s2.endDomain (s2.team r.team).launch t.req.code (s2.frecBase r.team r.grp) (s2.team r.team).linear r.grp

/-- E2E on a failed store: the region gets one record with the location, the registers and the group's stop, and the fault domain ends (R313, R316, R397, R441). `launch` is zero where the failing copy was no single store. -/
def State.e2e (s : State) (team grp launch key : Nat) (t : TrapAt) : State :=
  let u := { t with req := { t.req with code := 0x10, deferred := true } }
  let base := s.frecBase team grp
  let g := s.group team grp
  let s1 := match s.writeRecords (s.xctx team g.core) base [recordBits key 0 launch 0 0 0 1 0 true true false false 0 (u.auxWord % 256) 0x10 g.event] with
    | some s' => s'.setGroup team grp { s'.group team grp with event := ((s'.group team grp).event + 1) % 2 ^ 16 }
    | none => s.unsettleRecords team grp
  let s2 := s1.setGroup team grp { (s1.group team grp).setTrap u with stopped := true }
  s2.endDomain (s2.team team).launch 0x10 base (s2.team team).linear grp

/-- A test of the sector failed a second time, after the retry (R397). -/
def SectorFail.failed (f : SectorFail) : Bool := decide (2 ≤ f.stored) || decide (2 ≤ f.old)

/-- Sectors that are not committed (R397). -/
def failedSectors (fs : List SectorFail) : List Nat := (fs.filter SectorFail.failed).map (fun f => f.sector)

/-- The byte at a location lies in one of some sectors of package memory. -/
def Loc.inSectors (l : Loc) (secs : List Nat) : Bool :=
  match l with
  | .mem k => secs.contains (k / 32)
  | _ => false

/-- The first failing sector among the locations that a write names, with its first location key. -/
def firstFail (fs : List SectorFail) (locs : List Loc) : Option (Nat × SectorFail) :=
  (fs.filter SectorFail.failed).findSome? (fun f => locs.findSome? (fun l => match l with
    | .mem k => if k / 32 = f.sector then some (k, f) else none
    | _ => none))

/-- E2E for the first failing sector that a write to locations has; LAUNCH is the writer's unless the old code of the sector it merged into failed (R397). -/
def State.e2eFails (s : State) (team grp : Nat) (fs : List SectorFail) (locs : List Loc) (t : TrapAt) : State :=
  match firstFail fs locs with
  | some x => s.e2e team grp (if 2 ≤ x.2.old then 0 else (s.team team).launch) x.1 t
  | none => s

/-- The region learns of a logged instruction that a fatal page ended (R393, R520). -/
def State.reportFatal (s : State) (team grp : Nat) : State :=
  let l := s.launchOf team
  s.post l.region { kind := 8, status := 0x09, launch := l.id, team := (s.team team).linear, gidx := grp, frec := s.frecBase team grp }

/-- A PGFAULT that a fatal answer of the pager raised: it is reported too where a handler takes it (R520). -/
def TrapReq.fatalPage (t : TrapReq) : Bool := t.code = 0x09 && t.deferred

/-- Split `i` has issued instructions after the one at an address (R313). -/
def Group.passed (g : Group) (i : Nat) (pc w0 : Word) : Bool := (g.split i).pc != pc + (if w0.getLsbD 0 then 16 else 8)

/-- A split enters the launch's handler; a missing handler or a record that cannot be written sends the trap to the region (R80, R317, R322). -/
def State.enterHandler (s : State) (r : SplitRef) (t : TrapAt) : State :=
  match (s.launchOf r.team).handler with
  | none => s.regionTrap r t
  | some h =>
    if regionOnly t.req.code then s.regionTrap r t
    else
      match s.recordTrap r.team r.grp r.split t with
      | none => s.regionTrap r t
      | some s1 =>
        let g := (s1.groupAt r).setTrap t
        let s2 := s1.setGroupAt r (g.setSplit r.split { g.split r.split with
          st := 6, handler := true, pc := h, wait := .none, waitCnt := 0, urgent := false })
        if t.req.fatalPage then s2.reportFatal r.team r.grp else s2

/-- Some split of the group other than `i` is in its handler (R114). -/
def Group.handling (g : Group) (i : Nat) : Bool :=
  g.usedSplits.any (fun j => j != i && (g.split j).handler)

/-- Present a trap on a split; a word of memory that it consumed is the latest uncorrectable one of its die (R454): a trap in a handler is a double trap and goes to the region; while another split handles one, the split waits in state 7 (R114, R316). -/
def State.present (s0 : State) (r : SplitRef) (t : TrapAt) : State :=
  let s := s0.sawBad t.req.word
  let g := s.groupAt r
  if (g.split r.split).handler then s.regionTrap r t
  else if regionOnly t.req.code then s.regionTrap r t
  else if (s.launchOf r.team).handler.isNone then s.regionTrap r t
  else if g.handling r.split then
    s.setGroupAt r ({ g with waiting := AMap.put g.waiting r.split t }.setSplit r.split
      { g.split r.split with st := 7, wait := .none, parkPc := t.pc })
  else s.enterHandler r t

/-- The group's open transaction: TCOMMIT has not been executed (R252, R254). -/
def Group.openTx (g : Group) : Option Tx :=
  match g.tx with
  | some t => if t.sent then none else some t
  | none => none

/-- Abort the group's open transaction, unless it is aborted already (R253, R255). What it has buffered stays visible to its own loads (log 95). -/
def Group.abortTx (g : Group) (code byte : Nat) : Group :=
  { g with tx := g.tx.map (fun t => if t.sent then t else { t with abort := some (t.abort.getD (code, byte)) }) }

/-- Take a trap on the issuing instruction: it has no effect but the trap (R313). -/
def State.takeTrap (s : State) (l : Latch) (t : TrapReq) : State :=
  let s0 := if t.txAbort then s.setGroupAt l.ref ((s.groupAt l.ref).abortTx 4 0) else s
  { s0 with latch := none }.present l.ref ⟨t, l.pc, l.w0, l.w1, l.next⟩

/-- The lowest split in state 7 enters the handler, when no split is in it (R114). -/
def State.nextHandler (s : State) (team grp : Nat) : State :=
  let g := s.group team grp
  if g.handling 8 then s
  else
    match g.usedSplits.find? (fun i => (g.split i).st = 7) with
    | some i =>
      match AMap.find g.waiting i with
      | some t => (s.setGroup team grp { g with waiting := AMap.erase g.waiting i }).enterHandler ⟨team, grp, i⟩ t
      | none => s
    | none => s

/-! ### Issue -/

/-- What an instruction's body gives. -/
inductive Res where
  /-- It has issued. -/
  | done (s : State)
  /-- It has issued and is discarded: it consumes no register and raises no trap (R18). -/
  | discard (s : State)
  /-- It waits at its address, in state 2, for another try. -/
  | hold (s : State)
  /-- A full structure cannot accept it: the split stays in state 1 (R200, R295, R348). -/
  | full (s : State)
  /-- Its split has parked at its address and issues it again when it wakes (R208, R325). -/
  | park (s : State)
  | trap (t : TrapReq)

/-- The split's PC stands after the instruction while its body runs. -/
def State.advance (s : State) (l : Latch) : State :=
  s.setSplitAt l.ref { s.splitAt l.ref with pc := l.next }

/-- The instruction has issued: windows count it once, its number and the pre-emption count advance (R72, R74, R328). -/
def State.finish (s0 s : State) (l : Latch) : State :=
  let g0 := s0.groupAt l.ref
  let g := s.groupAt l.ref
  let h := (g0.split l.ref.split).handler
  let m := (g0.split l.ref.split).mask
  let g1 := if h then g else g.countWindow g0.nextInst (m &&& ~~~g0.counted)
  let g2 := { g1 with
    nextInst := g1.nextInst + 1
    counted := if h then g1.counted else g1.counted &&& ~~~m
    preCount := if (s.team l.ref.team).preempt then g1.preCount + 1 else 0 }
  let sp := g2.split l.ref.split
  { s.setGroupAt l.ref (g2.setSplit l.ref.split { sp with waitCnt := 0, urgent := false }) with latch := none }

/-- A split that was selected has not issued: it was not ready, and where nothing its slot selected issues, the slot selects again in the same cycle (R200). -/
def State.miss (s : State) (r : SplitRef) : State :=
  let g := s.groupAt r
  let c := s.core g.core
  let turn := 4 * g.core + g.resid % 4
  let s1 := { s with tried := r :: s.tried }
  match AMap.find c.pick (g.resid % 4) with
  | none => s1
  | some p =>
    if p.chosen.contains r then
      let q := { p with missed := r :: p.missed }
      let s2 := s1.setCore g.core { c with pick := AMap.put c.pick (g.resid % 4) q, matrixAt := if q.void then 0 else c.matrixAt }
      if q.void && s.slotAt = turn + 1 then { s2 with slotAt := turn } else s2
    else s1

/-- The instruction stays at its address and issues again later; the split waits in state 2 (R320). -/
def State.holdBack (s : State) (l : Latch) : State :=
  let sp := s.splitAt l.ref
  let on := sp.st = 1 || sp.st = 6
  { (s.setSplitAt l.ref { sp with pc := l.pc, st := (if on then 2 else sp.st), wait := (if on then .held else sp.wait) }).miss l.ref with latch := none }

/-- The split stands at its instruction, which has not issued: it has parked there, or a full structure keeps it in its state (R200, R208, R325). -/
def State.parkBack (s : State) (l : Latch) : State :=
  { (s.setSplitAt l.ref { s.splitAt l.ref with pc := l.pc }).miss l.ref with latch := none }

/-- A condition that comes after every other: an instruction that would issue traps (R314). -/
def Res.orTrap (r : Res) (t : Option TrapReq) : Res :=
  match r, t with
  | .done _, some t => .trap t
  | r, _ => r

/-! ### Uncorrectable words (R399) -/

/-- A UCE trap. -/
def trapUce (cause : Nat) (addrs : AMap Word) : TrapReq := { code := 0x11, aux := cause, addrs := addrs.filter (fun a => a.2 != 0) }

/-- Decode context of a split (R78). -/
def State.decodeCtx (s : State) (r : SplitRef) : DecodeCtx :=
  let g := s.groupAt r
  let l := (s.launchOf r.team).lrec
  ⟨g.alloc, l.bmask, l.tmask, l.rmask, l.dbgrp != 0, l.coop, (g.split r.split).handler, g.trapDeferred⟩

/-- The uncorrectable registers that an instruction consumes: its mask, in its active threads the sources it reads thread by thread and the D it merges into, and the words it reads by thread number (R112, R151, R399). -/
def Group.badSources (g : Group) (self : Half) (i : Instr) : List BadReg :=
  let u := usesOf i
  let act := g.active self u.mask
  let own := ownReads i ++ g.mergedD i
  g.bad.filter (fun b => (u.mask.k.val != 0 && b.reg = 240 + u.mask.k.val) || (own.contains b.reg && (decide (192 ≤ b.reg) || act.getLsbD b.thr)) ||
    (crossThreads g self i).any (fun x => x.1 = b.reg && (decide (192 ≤ b.reg) || x.2 = b.thr)))

/-- UCE on the instruction at a latch, if it consumes an uncorrectable register; TRAPADDR is that of a loaded word whose read check failed (R398, R399). -/
def State.registerUce (s : State) (l : Latch) : Option TrapReq :=
  let g := s.groupAt l.ref
  if g.bad.isEmpty then none
  else
    match decodeWords (s.decodeCtx l.ref) l.w0 l.w1 with
    | .error _ => none
    | .ok i =>
      match g.badSources (l.self s) i with
      | [] => none
      | b :: rest => some (trapUce b.cause (((b :: rest).filter (fun x => x.cause = b.cause)).map (fun x => (x.thr, x.addr))))

/-- Run an instruction's body on the issuing split: complete it, hold it back, leave it parked, or take its trap. UCE on a register it consumes comes after every other trap (R314). -/
def issue (name : String) (s : State) (body : Latch → State → Res) : Outcome State Fault Refusal :=
  match s.latch with
  | none => .refused (.noSplit name)
  | some l =>
    match body l (s.advance l) with
    | .done s' =>
      match s.registerUce l with
      | some t => .next (s.takeTrap l t)
      | none => .next (s.finish s' l)
    | .discard s' => .next (s.finish s' l)
    | .hold s' => .next (s'.holdBack l)
    | .full s' => .next (s'.parkBack l)
    | .park s' => .next (s'.parkBack l)
    | .trap t => .next (s.takeTrap l t)

/-! ### Common checks -/

/-- The operand is a v-register. -/
def isVec (o : Opnd) : Bool :=
  match o with
  | .v _ => true
  | _ => false

/-- The operand is a g-register. -/
def isUni (o : Opnd) : Bool :=
  match o with
  | .g _ => true
  | _ => false

/-- UNIFORM: a g-register destination with a per-thread source (R12). -/
def uniformBad (d : Opnd) (srcs : List Opnd) : Bool := isUni d && srcs.any isVec

/-- The UNIFORM trap. -/
def trapUniform : TrapReq := { code := 0x04 }

/-- ILLOP with cause 0x09 on an operand value (R77). -/
def trapOperand : TrapReq := { code := 0x01, aux := 0x09 }

/-- FMTERR with a cause. -/
def trapFmt (cause : Nat) : TrapReq := { code := 0x02, aux := cause }

/-- MASKPART. -/
def trapMaskPart : TrapReq := { code := 0x03 }

/-- DETOP. -/
def trapDetOp : TrapReq := { code := 0x0D }

/-- A trap on one address of a uniform operand: the threads of a mask share it (R317). -/
def trapUniformAddr (code aux : Nat) (addr : Word) (m : Half) (write : Bool) : TrapReq :=
  { code := code, aux := aux, addrs := (threadsOf m).map (fun t => (t, addr))
    pages := [{ addr := addr.toNat, thr := lowBit 32 m.toNat, write := write }] }

/-- A uniform result of an instruction that takes a lookahead: written at once for LA = 0, else pending with its window (R71, R72). -/
def Group.writeLate (g : Group) (m : Half) (pc : Word) (f : RegForm) (x : Word) : Group :=
  if f.la = 0 then g.writeOnce f.d x else g.pendOpnd g.nextInst pc f.d m f.la.toNat (fun _ => x)

/-- Set the group of the issuing split. -/
def doneGroup (l : Latch) (s : State) (g : Group) : Res := .done (s.setGroupAt l.ref g)

end Sys2Proof.Machine
end

