-- ==== Sys2Proof/Machine/Operands.lean ====
section
/-! DEFINITION. Operands read by type code, and the shared shapes of register instructions: per thread, once on the uniform unit, and long-latency (R12, R13, R70, R132, R133, R201). -/

namespace Sys2Proof.Machine

open Host

/-! ### Type codes (R70, R132) -/

/-- Bits of a type code. -/
def typeBits (fs : Nat) : Nat :=
  if fs = 0 ∨ fs = 2 ∨ fs = 4 then 64 else if fs = 1 ∨ fs = 3 ∨ fs = 5 then 32 else if fs = 6 then 16 else 8

/-- An operand under a type code: signed for codes 0 and 1, unsigned otherwise. -/
def typed (fs : Nat) (w : Word) : Int :=
  if fs < 2 then sextNat (typeBits fs) w.toNat else ((w.toNat % 2 ^ typeBits fs : Nat) : Int)

/-- The least and greatest values of a type code. -/
def typeMin (fs : Nat) : Int := if fs < 2 then -((2 ^ (typeBits fs - 1) : Nat) : Int) else 0
/-- The greatest value of a type code. -/
def typeMax (fs : Nat) : Int :=
  if fs < 2 then ((2 ^ (typeBits fs - 1) : Nat) : Int) - 1 else ((2 ^ typeBits fs : Nat) : Int) - 1

/-- Clamp to the type's range (R132). -/
def saturate (fs : Nat) (v : Int) : Int := min (max v (typeMin fs)) (typeMax fs)

/-- The 64 bits written for an exact result: reduced modulo 2^n, sign-extended for code 1, zero-extended otherwise (R132). -/
def typedResult (fs : Nat) (v : Int) : Word :=
  if fs = 1 then wordOfInt (sextNat 32 (wrapNat 32 v)) else BitVec.ofNat 64 (wrapNat (typeBits fs) v)

/-- The result with or without SAT (R132). -/
def intResult (fs : Nat) (sat : Bool) (v : Int) : Word := typedResult fs (if sat then saturate fs v else v)

/-! ### Shapes of instructions -/

/-- The operand values of one thread. -/
structure Args where
  a : Word
  b : Word
  c : Word
  d : Word
  t : Nat

/-- Read A, B, C and D for a thread. -/
def readArgs (g : Group) (self : Half) (da a b c : Opnd) (t : Nat) : Args :=
  ⟨g.readOpnd self a t, g.readOpnd self b t, g.readOpnd self c t, g.readOpnd self da t, t⟩

/-- An instruction that forms one word per active thread, or once for a g-register (R11, R12). -/
def perThread (name : String) (mask : Mask) (d : Opnd) (srcs : List Opnd) (val : Group → Half → Nat → Word) (s : State) :
    Outcome State Fault Refusal :=
  issue name s (fun l s1 =>
    let g := s1.groupAt l.ref
    let self := l.self s1
    if uniformBad d srcs then .trap trapUniform
    else doneGroup l s1 (g.writeOpnd d (g.active self mask) (val g self)))

/-- A register-form instruction whose result in a thread depends on that thread's A, B, C and D. -/
def regLanes (name : String) (f : RegForm) (srcs : List Opnd) (val : Args → Word) (s : State) : Outcome State Fault Refusal :=
  perThread name f.mask f.d srcs (fun g self t => val (readArgs g self f.d f.a f.b f.c t)) s

/-- An immediate-form instruction: the operand of R64 is its b. -/
def immLanes (name : String) (f : ImmForm) (val : Word → Word → Word) (s : State) : Outcome State Fault Refusal :=
  perThread name f.mask f.d [f.a] (fun g self t => val (g.readOpnd self f.a t) f.imm) s

/-- A long-latency instruction that forms one word per active thread: its result is pending with its window (R72, R201). -/
def longLanes (name : String) (mask : Mask) (la : Nat) (d : Opnd) (srcs : List Opnd) (val : Group → Half → Nat → Word) (s : State) :
    Outcome State Fault Refusal :=
  issue name s (fun l s1 =>
    let g := s1.groupAt l.ref
    let self := l.self s1
    if uniformBad d srcs then .trap trapUniform
    else doneGroup l s1 (g.pendOpnd g.nextInst l.pc d (g.active self mask) la (val g self)))

/-- An instruction whose whole result is one word, written once to a g- or k-register, or in the active threads of a v-register (R148, R157, R159). -/
def onceOrLanes (name : String) (mask : Mask) (d : Opnd) (srcs : List Opnd) (val : Group → Half → Half → Word) (s : State) :
    Outcome State Fault Refusal :=
  issue name s (fun l s1 =>
    let g := s1.groupAt l.ref
    let self := l.self s1
    let act := g.active self mask
    if uniformBad d srcs then .trap trapUniform
    else
      doneGroup l s1 (match d with
        | .v n => g.writeV n.val act (fun _ => val g self act)
        | _ => g.writeOnce d (val g self act)))

end Sys2Proof.Machine
end

