-- ==== Sys2Proof/Machine/Flags.lean ====
section
/-! DEFINITION. Conditions: integer compares (R137), votes (R157) and the conditions of branches (R121, R129). The machine has no flags register; a condition's result goes to a v-, g- or k-register, or decides a branch. -/

namespace Sys2Proof.Machine

/-- Condition `fs` of ICMP on two words; with W32, on their low halves (R137). -/
def icmpCond (fs : Nat) (w32 : Bool) (a b : Word) : Bool :=
  let n := if w32 then 32 else 64
  let sa := sextNat n a.toNat
  let sb := sextNat n b.toNat
  let ua := a.toNat % 2 ^ n
  let ub := b.toNat % 2 ^ n
  match fs with
  | 0 => ua = ub
  | 1 => ua != ub
  | 2 => decide (sa < sb)
  | 3 => decide (sa ≤ sb)
  | 4 => decide (sb < sa)
  | 5 => decide (sb ≤ sa)
  | 6 => decide (ua < ub)
  | 7 => decide (ua ≤ ub)
  | 8 => decide (ub < ua)
  | _ => decide (ub ≤ ua)

/-- All ones for true, zero for false (R137). -/
def truthWord (b : Bool) : Word := if b then 0xFFFFFFFFFFFFFFFF else 0

/-- The condition of BRU on its operand (R121). -/
def bruCond (fs : Nat) (a : Word) : Bool :=
  match fs with
  | 0 => a = 0
  | 1 => a != 0
  | 2 => a.getLsbD 63
  | _ => !a.getLsbD 63

/-- The condition of BRX on the active set and the split's mask (R129). -/
def brxCond (fs : Nat) (active mask : Half) : Bool :=
  match fs with
  | 0 => active != 0
  | 1 => active = mask
  | 2 => active = 0
  | _ => active != mask

end Sys2Proof.Machine
end

