-- ==== Sys2Proof/Machine/Integer.lean ====
section
/-! DEFINITION. Integer arithmetic, compares and selection: IADD to ISEL, and their immediate forms (R135 to R138, R146). -/

namespace Sys2Proof.Machine

open Host

/-- IADD's value (R135). -/
def iaddVal (fs : Nat) (sat : Bool) (a b : Word) : Word := intResult fs sat (typed fs a + typed fs b)
/-- ISUB's value (R135). -/
def isubVal (fs : Nat) (sat : Bool) (a b : Word) : Word := intResult fs sat (typed fs a - typed fs b)
/-- IMUL's value (R135). -/
def imulVal (fs : Nat) (sat : Bool) (a b : Word) : Word := intResult fs sat (typed fs a * typed fs b)
/-- IMULH's value: the upper n bits of the 2n-bit product (R135). -/
def imulhVal (fs : Nat) (a b : Word) : Word := typedResult fs ((typed fs a * typed fs b) / ((2 ^ typeBits fs : Nat) : Int))
/-- IMAD's value (R135). -/
def imadVal (fs : Nat) (sat : Bool) (a b c : Word) : Word := intResult fs sat (typed fs a * typed fs b + typed fs c)
/-- IMIN's value (R135). -/
def iminVal (fs : Nat) (a b : Word) : Word := typedResult fs (min (typed fs a) (typed fs b))
/-- IMAX's value (R135). -/
def imaxVal (fs : Nat) (a b : Word) : Word := typedResult fs (max (typed fs a) (typed fs b))
/-- IABS's value (R135). -/
def iabsVal (fs : Nat) (sat : Bool) (a : Word) : Word := intResult fs sat ((typed fs a).natAbs : Int)
/-- INEG's value (R135). -/
def inegVal (fs : Nat) (sat : Bool) (a : Word) : Word := intResult fs sat (-(typed fs a))

/-- IDIV's value: toward zero; all ones for a zero divisor, typemin for typemin / −1 (R136). -/
def idivVal (fs : Nat) (a b : Word) : Word :=
  if typed fs b = 0 then typedResult fs (-1) else typedResult fs ((typed fs a).tdiv (typed fs b))
/-- IREM's value: the sign of the dividend; the dividend for a zero divisor (R136). -/
def iremVal (fs : Nat) (a b : Word) : Word :=
  if typed fs b = 0 then typedResult fs (typed fs a) else typedResult fs ((typed fs a).tmod (typed fs b))

/-- IADD (R135). -/
def execIadd (f : RegForm) (s : State) : Outcome State Fault Refusal :=
  regLanes "IADD" f [f.a, f.b] (fun x => iaddVal f.fs.toNat (RegForm.flag f) x.a x.b) s
/-- ISUB (R135). -/
def execIsub (f : RegForm) (s : State) : Outcome State Fault Refusal :=
  regLanes "ISUB" f [f.a, f.b] (fun x => isubVal f.fs.toNat (RegForm.flag f) x.a x.b) s
/-- IMUL (R135). -/
def execImul (f : RegForm) (s : State) : Outcome State Fault Refusal :=
  regLanes "IMUL" f [f.a, f.b] (fun x => imulVal f.fs.toNat (RegForm.flag f) x.a x.b) s
/-- IMULH (R135). -/
def execImulh (f : RegForm) (s : State) : Outcome State Fault Refusal :=
  regLanes "IMULH" f [f.a, f.b] (fun x => imulhVal f.fs.toNat x.a x.b) s
/-- IMAD (R135). -/
def execImad (f : RegForm) (s : State) : Outcome State Fault Refusal :=
  regLanes "IMAD" f [f.a, f.b, f.c] (fun x => imadVal f.fs.toNat (RegForm.flag f) x.a x.b x.c) s
/-- IMIN (R135). -/
def execImin (f : RegForm) (s : State) : Outcome State Fault Refusal :=
  regLanes "IMIN" f [f.a, f.b] (fun x => iminVal f.fs.toNat x.a x.b) s
/-- IMAX (R135). -/
def execImax (f : RegForm) (s : State) : Outcome State Fault Refusal :=
  regLanes "IMAX" f [f.a, f.b] (fun x => imaxVal f.fs.toNat x.a x.b) s
/-- IABS (R135). -/
def execIabs (f : RegForm) (s : State) : Outcome State Fault Refusal :=
  regLanes "IABS" f [f.a] (fun x => iabsVal f.fs.toNat (RegForm.flag f) x.a) s
/-- INEG (R135). -/
def execIneg (f : RegForm) (s : State) : Outcome State Fault Refusal :=
  regLanes "INEG" f [f.a] (fun x => inegVal f.fs.toNat (RegForm.flag f) x.a) s

/-- IDIV, long-latency (R136). -/
def execIdiv (f : RegForm) (s : State) : Outcome State Fault Refusal :=
  longLanes "IDIV" f.mask f.la.toNat f.d [f.a, f.b]
    (fun g self t => idivVal f.fs.toNat (g.readOpnd self f.a t) (g.readOpnd self f.b t)) s
/-- IREM, long-latency (R136). -/
def execIrem (f : RegForm) (s : State) : Outcome State Fault Refusal :=
  longLanes "IREM" f.mask f.la.toNat f.d [f.a, f.b]
    (fun g self t => iremVal f.fs.toNat (g.readOpnd self f.a t) (g.readOpnd self f.b t)) s

/-- ICMP (R137). -/
def execIcmp (f : RegForm) (s : State) : Outcome State Fault Refusal :=
  regLanes "ICMP" f [f.a, f.b] (fun x => truthWord (icmpCond f.fs.toNat (RegForm.flag f) x.a x.b)) s

/-- ISEL's condition in thread `t`: the bit of a k-register, or a word that is not zero (R138). -/
def selCond (g : Group) (self : Half) (c : Opnd) (t : Nat) : Bool :=
  match c with
  | .k n => (g.readK self n.val).getLsbD t
  | _ => g.readOpnd self c t != 0

/-- A k-register or v-register source is per thread (R12, R138). -/
def selUniformBad (d : Opnd) (srcs : List Opnd) (c : Opnd) : Bool :=
  uniformBad d (c :: srcs) || (isUni d && (match c with | .k _ => true | _ => false))

/-- ISEL (R138). -/
def execIsel (f : RegForm) (s : State) : Outcome State Fault Refusal :=
  issue "ISEL" s (fun l s1 =>
    let g := s1.groupAt l.ref
    let self := l.self s1
    if selUniformBad f.d [f.a, f.b] f.c then .trap trapUniform
    else doneGroup l s1 (g.writeOpnd f.d (g.active self f.mask)
      (fun t => if selCond g self f.c t then g.readOpnd self f.a t else g.readOpnd self f.b t)))

/-- IADDI (R146). -/
def execIaddi (f : ImmForm) (s : State) : Outcome State Fault Refusal :=
  immLanes "IADDI" f (fun a b => iaddVal f.fs.toNat false a b) s
/-- IMULI (R146). -/
def execImuli (f : ImmForm) (s : State) : Outcome State Fault Refusal :=
  immLanes "IMULI" f (fun a b => imulVal f.fs.toNat false a b) s
/-- ICMPI (R137). -/
def execIcmpi (f : ImmForm) (s : State) : Outcome State Fault Refusal :=
  immLanes "ICMPI" f (fun a b => truthWord (icmpCond f.fs.toNat false a b)) s

end Sys2Proof.Machine
end

