-- ==== Sys2Proof/Machine/Logic.lean ====
section
/-! DEFINITION. Logic, shifts, bit fields, counts, addresses and moves: AND to MOVI, and their immediate forms (R139 to R146). -/

namespace Sys2Proof.Machine

open Host

/-- A result of n bits, zero-extended (R132). -/
def bitsResult (fs v : Nat) : Word := BitVec.ofNat 64 (v % 2 ^ typeBits fs)

/-- The low n bits of a source (R132). -/
def low (fs : Nat) (w : Word) : Nat := w.toNat % 2 ^ typeBits fs

/-- The bit of an 8-entry table at (a, b, c) (R139, R147). -/
def tableBit (table : Nat) (a b c : Bool) : Bool := table.testBit (4 * natOfBool a + 2 * natOfBool b + natOfBool c)

/-- The table applied bit by bit to `n` bits (R139, R147). -/
def tableBits (n table a b c : Nat) : Nat :=
  natOfBits n (fun i => tableBit table (a.testBit i) (b.testBit i) (c.testBit i))

/-- SHL's value (R140). -/
def shlVal (fs : Nat) (a b : Word) : Word := if typeBits fs ≤ b.toNat then 0 else bitsResult fs (low fs a <<< b.toNat)
/-- SHR's value (R140). -/
def shrVal (fs : Nat) (a b : Word) : Word := if typeBits fs ≤ b.toNat then 0 else bitsResult fs (low fs a >>> b.toNat)
/-- SAR's value (R140). -/
def sarVal (fs : Nat) (a b : Word) : Word :=
  let n := typeBits fs
  BitVec.ofNat 64 (wrapNat n (sextNat n a.toNat >>> (min b.toNat n)))
/-- A number of n bits rotated left by `s`, s < n. -/
def rotl (n v s : Nat) : Nat := ((v <<< s) ||| (v >>> (n - s))) % 2 ^ n
/-- ROTL's value (R140). -/
def rotlVal (fs : Nat) (a b : Word) : Word := BitVec.ofNat 64 (rotl (typeBits fs) (low fs a) (b.toNat % typeBits fs))
/-- SHFN's value (R141). -/
def shfnVal (fs : Nat) (rt : Bool) (a b c : Word) : Word :=
  let n := typeBits fs
  let v := low fs a * 2 ^ n + low fs b
  let sh := c.toNat % n
  if rt then bitsResult fs (v >>> sh) else bitsResult fs ((v <<< sh) >>> n)
/-- BEXT's value (R142). -/
def bextVal (fs : Nat) (sx : Bool) (a b c : Word) : Word :=
  let n := typeBits fs
  if c = 0 ∨ n ≤ b.toNat then 0
  else
    let len := min c.toNat (n - b.toNat)
    let x := (low fs a >>> b.toNat) % 2 ^ len
    if sx then BitVec.ofNat 64 (wrapNat n (sextNat len x)) else BitVec.ofNat 64 x
/-- BINS's value (R142). -/
def binsVal (fs : Nat) (a b c d : Word) : Word :=
  let n := typeBits fs
  if c = 0 ∨ n ≤ b.toNat then bitsResult fs d.toNat
  else bitsResult fs (putBits (low fs d) b.toNat (min c.toNat (n - b.toNat)) a.toNat)
/-- CLZ's value (R143). -/
def clzVal (fs : Nat) (a : Word) : Word :=
  match highBit (typeBits fs) (low fs a) with
  | some i => wd (typeBits fs - 1 - i)
  | none => wd (typeBits fs)
/-- CTZ's value (R143). -/
def ctzVal (fs : Nat) (a : Word) : Word := wd (lowBit (typeBits fs) (low fs a))
/-- BREV's value (R143). -/
def brevVal (fs : Nat) (a : Word) : Word := wd (natOfBits (typeBits fs) (fun i => (low fs a).testBit (typeBits fs - 1 - i)))
/-- LEA's value: base plus the shifted index (R144). `m` is MOD. -/
def leaVal (m : Nat) (a b : Word) : Word :=
  let x : Int := if m.testBit 3 then sextNat 32 b.toNat else if m.testBit 4 then ((b.toNat % 2 ^ 32 : Nat) : Int) else (b.toNat : Int)
  wordOfInt ((a.toNat : Int) + x * ((2 ^ (m % 8) : Nat) : Int))

/-- AND (R139). -/
def execAnd (f : RegForm) (s : State) : Outcome State Fault Refusal :=
  regLanes "AND" f [f.a, f.b] (fun x => bitsResult f.fs.toNat (x.a &&& x.b).toNat) s
/-- OR (R139). -/
def execOr (f : RegForm) (s : State) : Outcome State Fault Refusal :=
  regLanes "OR" f [f.a, f.b] (fun x => bitsResult f.fs.toNat (x.a ||| x.b).toNat) s
/-- XOR (R139). -/
def execXor (f : RegForm) (s : State) : Outcome State Fault Refusal :=
  regLanes "XOR" f [f.a, f.b] (fun x => bitsResult f.fs.toNat (x.a ^^^ x.b).toNat) s
/-- TLOG (R139). -/
def execTlog (f : RegForm) (s : State) : Outcome State Fault Refusal :=
  regLanes "TLOG" f [f.a, f.b, f.c]
    (fun x => wd (tableBits (typeBits f.fs.toNat) (f.mod.toNat % 256) x.a.toNat x.b.toNat x.c.toNat)) s
/-- SHL (R140). -/
def execShl (f : RegForm) (s : State) : Outcome State Fault Refusal :=
  regLanes "SHL" f [f.a, f.b] (fun x => shlVal f.fs.toNat x.a x.b) s
/-- SHR (R140). -/
def execShr (f : RegForm) (s : State) : Outcome State Fault Refusal :=
  regLanes "SHR" f [f.a, f.b] (fun x => shrVal f.fs.toNat x.a x.b) s
/-- SAR (R140). -/
def execSar (f : RegForm) (s : State) : Outcome State Fault Refusal :=
  regLanes "SAR" f [f.a, f.b] (fun x => sarVal f.fs.toNat x.a x.b) s
/-- ROTL (R140). -/
def execRotl (f : RegForm) (s : State) : Outcome State Fault Refusal :=
  regLanes "ROTL" f [f.a, f.b] (fun x => rotlVal f.fs.toNat x.a x.b) s
/-- SHFN (R141). -/
def execShfn (f : RegForm) (s : State) : Outcome State Fault Refusal :=
  regLanes "SHFN" f [f.a, f.b, f.c] (fun x => shfnVal f.fs.toNat (RegForm.flag f) x.a x.b x.c) s
/-- BEXT (R142). -/
def execBext (f : RegForm) (s : State) : Outcome State Fault Refusal :=
  regLanes "BEXT" f [f.a, f.b, f.c] (fun x => bextVal f.fs.toNat (RegForm.flag f) x.a x.b x.c) s
/-- BINS (R142). -/
def execBins (f : RegForm) (s : State) : Outcome State Fault Refusal :=
  regLanes "BINS" f [f.a, f.b, f.c] (fun x => binsVal f.fs.toNat x.a x.b x.c x.d) s
/-- POPC (R143). -/
def execPopc (f : RegForm) (s : State) : Outcome State Fault Refusal :=
  regLanes "POPC" f [f.a] (fun x => wd (popNat (typeBits f.fs.toNat) x.a.toNat)) s
/-- CLZ (R143). -/
def execClz (f : RegForm) (s : State) : Outcome State Fault Refusal :=
  regLanes "CLZ" f [f.a] (fun x => clzVal f.fs.toNat x.a) s
/-- CTZ (R143). -/
def execCtz (f : RegForm) (s : State) : Outcome State Fault Refusal :=
  regLanes "CTZ" f [f.a] (fun x => ctzVal f.fs.toNat x.a) s
/-- BREV (R143). -/
def execBrev (f : RegForm) (s : State) : Outcome State Fault Refusal :=
  regLanes "BREV" f [f.a] (fun x => brevVal f.fs.toNat x.a) s
/-- LEA (R144). -/
def execLea (f : RegForm) (s : State) : Outcome State Fault Refusal :=
  regLanes "LEA" f [f.a, f.b] (fun x => leaVal f.mod.toNat x.a x.b) s
/-- MOV (R145). -/
def execMov (f : RegForm) (s : State) : Outcome State Fault Refusal :=
  regLanes "MOV" f [f.a] (fun x => x.a) s
/-- MOVI (R145). -/
def execMovi (f : ImmForm) (s : State) : Outcome State Fault Refusal :=
  perThread "MOVI" f.mask f.d [] (fun _ _ _ => f.imm) s
/-- ANDI (R146). -/
def execAndi (f : ImmForm) (s : State) : Outcome State Fault Refusal :=
  immLanes "ANDI" f (fun a b => bitsResult f.fs.toNat (a &&& b).toNat) s
/-- ORI (R146). -/
def execOri (f : ImmForm) (s : State) : Outcome State Fault Refusal :=
  immLanes "ORI" f (fun a b => bitsResult f.fs.toNat (a ||| b).toNat) s
/-- XORI (R146). -/
def execXori (f : ImmForm) (s : State) : Outcome State Fault Refusal :=
  immLanes "XORI" f (fun a b => bitsResult f.fs.toNat (a ^^^ b).toNat) s
/-- SHLI (R146). -/
def execShli (f : ImmForm) (s : State) : Outcome State Fault Refusal :=
  immLanes "SHLI" f (fun a b => shlVal f.fs.toNat a b) s
/-- SHRI (R146). -/
def execShri (f : ImmForm) (s : State) : Outcome State Fault Refusal :=
  immLanes "SHRI" f (fun a b => shrVal f.fs.toNat a b) s
/-- SARI (R146). -/
def execSari (f : ImmForm) (s : State) : Outcome State Fault Refusal :=
  immLanes "SARI" f (fun a b => sarVal f.fs.toNat a b) s

end Sys2Proof.Machine
end

