-- ==== Sys2Proof/Machine/Masks.lean ====
section
/-! DEFINITION. Mask arithmetic, special registers and PICK: KLOG, KMOV, KPOP, KFIND, SRD, SWR, PICK (R24 to R26, R147 to R150). -/

namespace Sys2Proof.Machine

open Host

/-- KLOG, once on the uniform unit (R147). -/
def execKlog (f : RegForm) (s : State) : Outcome State Fault Refusal :=
  onceOrLanes "KLOG" f.mask f.d [] (fun g self _ =>
    wd (tableBits 32 (f.mod.toNat % 256) (g.readOpnd self f.a 0).toNat (g.readOpnd self f.b 0).toNat (g.readOpnd self f.c 0).toNat)) s

/-- The 32-bit mask value of an operand (R147, R148). -/
def maskValue (g : Group) (self : Half) (a : Opnd) : Nat := (g.readOpnd self a 0).toNat % 2 ^ 32

/-- KMOV (R148). -/
def execKmov (f : RegForm) (s : State) : Outcome State Fault Refusal :=
  onceOrLanes "KMOV" f.mask f.d [] (fun g self _ => wd (maskValue g self f.a)) s
/-- KPOP (R148). -/
def execKpop (f : RegForm) (s : State) : Outcome State Fault Refusal :=
  onceOrLanes "KPOP" f.mask f.d [] (fun g self _ => wd (popNat 32 (maskValue g self f.a))) s
/-- KFIND: the lowest set bit, or with HI the highest; 32 when none is set (R148). -/
def execKfind (f : RegForm) (s : State) : Outcome State Fault Refusal :=
  onceOrLanes "KFIND" f.mask f.d [] (fun g self _ =>
    wd (if RegForm.flag f then (highBit 32 (maskValue g self f.a)).getD 32 else lowBit 32 (maskValue g self f.a))) s

/-- TEAMX, TEAMY or TEAMZ of a linear team index (R22, R317). -/
def teamCoord (r : LaunchRec) (linear axis : Nat) : Nat :=
  if axis = 0 then linear % r.nx else if axis = 1 then linear / r.nx % r.ny else linear / (r.nx * r.ny)

/-- What SRD reads in thread `t` of the issuing split (R24). -/
def srdValue (s : State) (l : Latch) (n t : Nat) : Word :=
  let tm := s.team l.ref.team
  let la := s.launchOf l.ref.team
  let g := s.groupAt l.ref
  match n with
  | 0x00 => wd t
  | 0x01 => 32
  | 0x02 => wd g.gidx
  | 0x03 => wd la.lrec.ngrp
  | 0x04 => wd (teamCoord la.lrec tm.linear 0)
  | 0x05 => wd (teamCoord la.lrec tm.linear 1)
  | 0x06 => wd (teamCoord la.lrec tm.linear 2)
  | 0x07 => wd la.lrec.nx
  | 0x08 => wd la.lrec.ny
  | 0x09 => wd la.lrec.nz
  | 0x0A => wd la.id
  | 0x0B => wd (tm.core % 8)
  | 0x0C => wd (tm.core / 8 % 64)
  | 0x0D => wd (tm.core / 512)
  | 0x0E => wd s.ctl.self
  | 0x0F => wd (g.resid % 4)
  | 0x10 => wd s.ctl.clk
  | 0x11 => wd s.ctl.time
  | 0x12 => (l.self s).setWidth 64
  | 0x13 => g.live.setWidth 64
  | 0x14 => g.dem.setWidth 64
  | 0x15 => g.readRng t
  | 0x16 => Config.identity 0
  | 0x17 => wordOfBool (s.ctl.service = 2)
  | 0x18 => wd la.lrec.argAddr
  | 0x19 => wd (la.lrec.privBase tm.linear g.gidx)
  | 0x2C => AMap.get g.trapAddr t 0
  | 0x30 => wd (la.lrec.frecBase tm.linear g.gidx)
  | n => AMap.get g.trap n 0

/-- SRD: a per-thread register into a g-register traps UNIFORM (R24, R149). -/
def execSrd (f : RegForm) (s : State) : Outcome State Fault Refusal :=
  issue "SRD" s (fun l s1 =>
    let g := s1.groupAt l.ref
    let n := fieldOf f.b
    if isUni f.d && srPerThread n then .trap trapUniform
    else doneGroup l s1 (g.writeOpnd f.d (g.active (l.self s1) f.mask) (srdValue s1 l n)))

/-- Set the thread values of a sparse per-thread register. -/
def setPerThread (m : AMap Word) (ts : List Nat) (f : Nat → Word) : AMap Word :=
  match ts with
  | [] => m
  | t :: rest => setPerThread (AMap.set m t (f t) 0) rest f

/-- SWR: the counter or TRAPADDR in the active threads; a trap register once, where a per-thread source traps UNIFORM (R24, R25, R149). -/
def execSwr (f : RegForm) (s : State) : Outcome State Fault Refusal :=
  issue "SWR" s (fun l s1 =>
    let g := s1.groupAt l.ref
    let self := l.self s1
    let n := fieldOf f.b
    let ts := threadsOf (g.active self f.mask)
    if srPerThread n then
      if n = 0x15 then doneGroup l s1 { g with rngc := setPerThread g.rngc ts (g.readOpnd self f.a) }
      else doneGroup l s1 { g with trapAddr := setPerThread g.trapAddr ts (g.readOpnd self f.a) }
    else if isVec f.a then .trap trapUniform
    else doneGroup l s1 { g with trap := AMap.set g.trap n (g.readOpnd self f.a 0) 0 })

/-- PICK: one thread's value into a g-register, whatever that thread's state (R150, R151). -/
def execPick (f : RegForm) (s : State) : Outcome State Fault Refusal :=
  issue "PICK" s (fun l s1 =>
    let g := s1.groupAt l.ref
    let self := l.self s1
    let t := if RegForm.flag f then lowBit 32 self.toNat else (g.readOpnd self f.b 0).toNat % 32
    doneGroup l s1 (g.writeOnce f.d (g.readOpnd self f.a t)))

end Sys2Proof.Machine
end

