-- ==== Sys2Proof/Machine/Control.lean ====
section
/-! DEFINITION. Control flow on one group's splits: NOP, JMP, BRU, BRD, RCV, CALL, RET, JMPI, YIELD, BRX, JOIN, TRAP, BKPT, DEMOTE, and RTT and PSAFE (R119 to R131, R323, R326). EXIT stands with the barriers it completes. -/

namespace Sys2Proof.Machine

open Host

/-- The target of a branch form at `p` (R65). -/
def branchTarget (p : Word) (off : BitVec 27) : Word := p + (off.signExtend 64) * 8

/-- The reconvergence address of a BRD at `p` (R65, R122). -/
def recvTarget (p : Word) (off : BitVec 32) : Word := p + (off.signExtend 64) * 8

/-- Move the issuing split to an address. -/
def Group.jump (g : Group) (i : Nat) (pc : Word) : Group := g.setSplit i { g.split i with pc := pc }

/-- NOP (R119). -/
def execNop (_f : RegForm) (s : State) : Outcome State Fault Refusal :=
  issue "NOP" s (fun _ s1 => .done s1)

/-- JMP (R120). -/
def execJmp (f : BranchForm) (s : State) : Outcome State Fault Refusal :=
  issue "JMP" s (fun l s1 => doneGroup l s1 ((s1.groupAt l.ref).jump l.ref.split (branchTarget l.pc f.off)))

/-- BRU (R121). -/
def execBru (f : BranchForm) (s : State) : Outcome State Fault Refusal :=
  issue "BRU" s (fun l s1 =>
    let g := s1.groupAt l.ref
    if bruCond f.fs.toNat (g.readOpnd (l.self s1) f.a 0) then doneGroup l s1 (g.jump l.ref.split (branchTarget l.pc f.off))
    else .done s1)

/-- BRX (R129). -/
def execBrx (f : BranchForm) (s : State) : Outcome State Fault Refusal :=
  issue "BRX" s (fun l s1 =>
    let g := s1.groupAt l.ref
    if brxCond f.fs.toNat (g.active (l.self s1) f.mask) (l.self s1) then
      doneGroup l s1 (g.jump l.ref.split (branchTarget l.pc f.off))
    else .done s1)

/-- BRD (R122). -/
def execBrd (f : BranchForm) (s : State) : Outcome State Fault Refusal :=
  issue "BRD" s (fun l s1 =>
    let g := s1.groupAt l.ref
    match g.brd l.ref.split (g.active (l.self s1) f.mask) (branchTarget l.pc f.off) l.next (recvTarget l.pc (f.recv.getD 0)) with
    | some g' => doneGroup l s1 g'
    | none => .trap { code := 0x17 })

/-- RCV (R103, R123). -/
def execRcv (_f : RegForm) (s : State) : Outcome State Fault Refusal :=
  issue "RCV" s (fun l s1 => doneGroup l s1 ((s1.groupAt l.ref).rcv l.ref.split l.pc))

/-- JOIN (R106, R130). -/
def execJoin (_f : RegForm) (s : State) : Outcome State Fault Refusal :=
  issue "JOIN" s (fun l s1 => doneGroup l s1 ((s1.groupAt l.ref).join l.ref.split l.pc))

/-- CALL: the link in every thread of the split, or once (R124). -/
def execCall (f : BranchForm) (s : State) : Outcome State Fault Refusal :=
  issue "CALL" s (fun l s1 =>
    let g := (s1.groupAt l.ref).writeOpnd f.d (l.self s1) (fun _ => l.pc + 8)
    doneGroup l s1 (g.jump l.ref.split (branchTarget l.pc f.off)))

/-- The division of a split by its threads' targets: SPLITOVF, then ALIGN, then one split per target (R125). -/
def indirect (a : Opnd) (l : Latch) (s1 : State) : Res :=
  let g := s1.groupAt l.ref
  let self := l.self s1
  let ts := threadsOf self
  let tgt := fun t => (g.readOpnd self a t).toNat
  let targets := ascending (ts.map tgt)
  let free := ((List.range 8).filter (fun i => !g.used i)).length
  if free + 1 < targets.length then .trap { code := 0x17 }
  else if ts.any (fun t => tgt t % 8 != 0) then
    .trap { code := 0x07, addrs := ts.map (fun t => (t, wd (tgt t)))
            pages := ((ts.filter (fun t => tgt t % 8 != 0)).foldl (fun (acc : List FaultPage) t =>
              if acc.any (fun p => p.addr / 65536 = tgt t / 65536) then acc else acc ++ [{ addr := tgt t, thr := t }]) []) }
  else
    match targets with
    | [] => .done s1
    | u :: rest =>
      let sp := g.split l.ref.split
      let g1 := g.setSplit l.ref.split { sp with mask := self &&& maskOf (fun t => tgt t = u), pc := BitVec.ofNat 64 u }
      doneGroup l s1 (g1.addTargets sp.frame self rest tgt 1)

/-- RET (R125). -/
def execRet (f : RegForm) (s : State) : Outcome State Fault Refusal := issue "RET" s (indirect f.a)
/-- JMPI (R125). -/
def execJmpi (f : RegForm) (s : State) : Outcome State Fault Refusal := issue "JMPI" s (indirect f.a)

/-- DEMOTE; inside a transaction it is disallowed and discarded (R127, R253). -/
def execDemote (f : RegForm) (s : State) : Outcome State Fault Refusal :=
  issue "DEMOTE" s (fun l s1 =>
    let g := s1.groupAt l.ref
    if g.openTx.isSome then doneGroup l s1 (g.abortTx 7 0)
    else
      let m := g.active (l.self s1) f.mask
      doneGroup l s1 { g with live := g.live &&& ~~~m, dem := g.dem ||| (m &&& g.live) })

/-- YIELD: no architectural state; under greedy-then-oldest its group becomes the youngest of its slot and loses its claim (R128, R204). -/
def execYield (_f : RegForm) (s : State) : Outcome State Fault Refusal :=
  issue "YIELD" s (fun l s1 =>
    let g := s1.groupAt l.ref
    let c := s1.core g.core
    if c.rr then .done s1
    else
      let slot := g.resid % 4
      let ages := (AMap.find c.ages slot).getD []
      let me := (l.ref.team, l.ref.grp)
      .done (s1.setCore g.core { c with
        ages := AMap.put c.ages slot (ages.filter (· != me) ++ [me])
        pick := c.pick.map (fun p => if p.1 = slot then (p.1, { p.2 with yielded := true }) else p) }))

/-- TRAP: SWTRAP with the operand in TRAPAUX (R131). -/
def execTrap (f : RegForm) (s : State) : Outcome State Fault Refusal :=
  issue "TRAP" s (fun l s1 =>
    .trap { code := 0x13, aux := ((s1.groupAt l.ref).readOpnd (l.self s1) f.a 0).toNat })

/-- BKPT (R131). -/
def execBkpt (_f : RegForm) (s : State) : Outcome State Fault Refusal :=
  issue "BKPT" s (fun _ _ => .trap { code := 0x14 })

/-- Where RTT goes (R315, R323). -/
def rttTarget (g : Group) (retry : Bool) : Word :=
  let aux := AMap.get g.trap 0x2D 0
  if retry then AMap.get g.trap 0x21 0
  else if g.trapDeferred then BitVec.ofNat 64 (aux.toNat % 2 ^ 57 / 8 * 8)
  else AMap.get g.trap 0x21 0 + (if (AMap.get g.trap 0x22 0).getLsbD 0 then 16 else 8)

/-- RTT: the handler ends, and the lowest split waiting for it enters (R323). Passing over an instruction counts it once in its threads' windows (R72). -/
def execRtt (f : RegForm) (s : State) : Outcome State Fault Refusal :=
  issue "RTT" s (fun l s1 =>
    let g := s1.groupAt l.ref
    let sp := g.split l.ref.split
    let target := rttTarget g (f.fs = 1)
    if !sp.handler then .trap { code := 0x01, aux := 0x08 }
    else if target.toNat % 8 != 0 then
      .trap (trapUniformAddr 0x07 0 target sp.mask false)
    else
      let g1 := g.setSplit l.ref.split { sp with pc := target, st := 1, handler := false }
      let g2 := if f.fs = 1 || g.trapDeferred then g1
        else { g1.countWindow g1.nextInst (sp.mask &&& ~~~g.counted) with counted := g.counted &&& ~~~sp.mask }
      .done ((s1.setGroupAt l.ref g2).nextHandler l.ref.team l.ref.grp))

/-- PSAFE: a listed stop address; otherwise a NOP (R326). -/
def execPsafe (_f : RegForm) (s : State) : Outcome State Fault Refusal :=
  issue "PSAFE" s (fun _ s1 => .done s1)

end Sys2Proof.Machine
end

