-- ==== Sys2Proof/Machine/Lanes.lean ====
section
/-! DEFINITION. Cross-lane instructions and random numbers that need no format arithmetic: SHFL, EPERM, IRED, ISCAN, VOTE, MATCH, RNG, RNGSEED, ELECT (R22, R151 to R161). -/

namespace Sys2Proof.Machine

open Host

/-- SHFL, long-latency (R153). -/
def execShfl (f : RegForm) (s : State) : Outcome State Fault Refusal :=
  longLanes "SHFL" f.mask f.la.toNat f.d []
    (fun g self t => g.readOpnd self f.a (shflSource f.fs.toNat t (g.readOpnd self f.b t))) s

/-- EPERM, long-latency: element codes gathered across the group (R154). -/
def execEperm (f : RegForm) (s : State) : Outcome State Fault Refusal :=
  longLanes "EPERM" f.mask f.la.toNat f.d []
    (fun g self t =>
      let w := fmtWidth (g.readF f.fs.toNat)
      let k := lanesOf w
      let stride := f.mod.toNat % 1024
      wordOfElems w ((List.range k).map (fun i =>
        let e := ((g.readOpnd self f.b t).toNat + i * stride) % (32 * k)
        elemOf w (g.readOpnd self f.a (e / k)) (e % k)))) s

/-- The smaller of two words, signed. -/
def sminW (a b : Word) : Word := if sgn a ≤ sgn b then a else b
/-- The larger of two words, signed. -/
def smaxW (a b : Word) : Word := if sgn a ≤ sgn b then b else a
/-- The smaller of two words, unsigned. -/
def uminW (a b : Word) : Word := if a.toNat ≤ b.toNat then a else b
/-- The larger of two words, unsigned. -/
def umaxW (a b : Word) : Word := if a.toNat ≤ b.toNat then b else a

/-- The combining operation of IRED and ISCAN (R155). -/
def redOp (fs : Nat) (a b : Word) : Word :=
  match fs with
  | 0 => a + b
  | 1 => sminW a b
  | 2 => smaxW a b
  | 3 => uminW a b
  | 4 => umaxW a b
  | 5 => a &&& b
  | 6 => a ||| b
  | _ => a ^^^ b

/-- The identity of each operation (R155). -/
def redIdentity (fs : Nat) : Word :=
  match fs with
  | 1 => 0x7FFFFFFFFFFFFFFF
  | 2 => 0x8000000000000000
  | 3 => 0xFFFFFFFFFFFFFFFF
  | 5 => 0xFFFFFFFFFFFFFFFF
  | _ => 0

/-- The combination of a list of words (R155). -/
def redAll (fs : Nat) (xs : List Word) : Word := xs.foldl (redOp fs) (redIdentity fs)

/-- IRED (R155). -/
def execIred (f : RegForm) (s : State) : Outcome State Fault Refusal :=
  onceOrLanes "IRED" f.mask f.d []
    (fun g self act => redAll f.fs.toNat ((threadsOf act).map (g.readOpnd self f.a))) s

/-- ISCAN (R155). -/
def execIscan (f : RegForm) (s : State) : Outcome State Fault Refusal :=
  issue "ISCAN" s (fun l s1 =>
    let g := s1.groupAt l.ref
    let self := l.self s1
    let act := g.active self f.mask
    doneGroup l s1 (g.writeOpnd f.d act (fun t =>
      redAll f.fs.toNat (((threadsOf act).filter (fun u => if RegForm.flag f then u < t else u ≤ t)).map (g.readOpnd self f.a)))))

/-- VOTE's result (R157). -/
def voteVal (mode : Nat) (act : Half) (val : Nat → Word) : Word :=
  let ts := threadsOf act
  match mode with
  | 0 => (act &&& maskOf (fun t => val t != 0)).setWidth 64
  | 1 => wordOfBool (ts.any (fun t => val t != 0))
  | 2 => wordOfBool (ts.all (fun t => val t != 0))
  | _ => wordOfBool (ts.all (fun t => val t = val (lowBit 32 act.toNat)))

/-- VOTE (R157). -/
def execVote (f : RegForm) (s : State) : Outcome State Fault Refusal :=
  onceOrLanes "VOTE" f.mask f.d [] (fun g self act => voteVal f.fs.toNat act (g.readOpnd self f.a)) s

/-- MATCH (R158). -/
def execMatchLanes (f : RegForm) (s : State) : Outcome State Fault Refusal :=
  issue "MATCH" s (fun l s1 =>
    let g := s1.groupAt l.ref
    let self := l.self s1
    let act := g.active self f.mask
    let val := fun t => let w := g.readOpnd self f.a t; if RegForm.flag f then w.toNat % 2 ^ 32 else w.toNat
    doneGroup l s1 (g.writeOpnd f.d act (fun t => (act &&& maskOf (fun u => val u = val t)).setWidth 64)))

/-- ELECT (R159). -/
def execElect (f : RegForm) (s : State) : Outcome State Fault Refusal :=
  issue "ELECT" s (fun l s1 =>
    let g := s1.groupAt l.ref
    let self := l.self s1
    let act := g.active self f.mask
    let e := lowBit 32 act.toNat
    doneGroup l s1 (match f.d with
      | .v n => g.writeV n.val act (fun t => if t = e then 1 else 0)
      | .g n => g.writeG n.val (wd e)
      | .k n => g.writeK n.val (if act = 0 then 0 else oneThread e)
      | _ => g))

/-! ### Random numbers (R22) -/

/-- One Philox-4×32 round on (c0, c1, c2, c3) with keys (k0, k1). -/
def philoxRound (c : List Nat) (k0 k1 : Nat) : List Nat :=
  let p0 := 0xD2511F53 * c.getD 0 0
  let p1 := 0xCD9E8D57 * c.getD 2 0
  [(p1 / 2 ^ 32) ^^^ c.getD 1 0 ^^^ k0, p1 % 2 ^ 32, (p0 / 2 ^ 32) ^^^ c.getD 3 0 ^^^ k1, p0 % 2 ^ 32]

/-- `n` rounds, the keys advanced by the Weyl constants between rounds. -/
def philoxRounds (n : Nat) (c : List Nat) (k0 k1 : Nat) : List Nat :=
  match n with
  | 0 => c
  | m + 1 => philoxRounds m (philoxRound c k0 k1) ((k0 + 0x9E3779B9) % 2 ^ 32) ((k1 + 0xBB67AE85) % 2 ^ 32)

/-- The stream word S of thread `t` (R22). -/
def rngStream (linear gidx t : Nat) : Nat := linear * 2 ^ 11 + gidx * 2 ^ 5 + t

/-- The four 32-bit words of one counter step (R22). -/
def rngWords (key stream : Nat) (c : Word) : List Nat :=
  let x := stream ^^^ (key / 2 ^ 64)
  philoxRounds 10 [c.toNat % 2 ^ 32, c.toNat / 2 ^ 32, x % 2 ^ 32, x / 2 ^ 32 % 2 ^ 32] (key % 2 ^ 32) (key / 2 ^ 32 % 2 ^ 32)

/-- Random words of a thread: step `i` from its counter, word `j` (R22). -/
def State.rngWord (s : State) (l : Latch) (t step j : Nat) : Nat :=
  let tm := s.team l.ref.team
  let g := s.groupAt l.ref
  (rngWords (s.launchOf l.ref.team).lrec.key (rngStream tm.linear g.gidx t) (g.readRng t + wd step)).getD j 0

/-- Advance the counters of threads by a number of steps (R22). -/
def Group.stepRng (g : Group) (ts : List Nat) (n : Nat) : Group :=
  { g with rngc := setPerThread g.rngc ts (fun t => g.readRng t + wd n) }

/-- RNG: one counter step per active thread; two or four words (R160). -/
def execRng (f : RegForm) (s : State) : Outcome State Fault Refusal :=
  issue "RNG" s (fun l s1 =>
    let g := s1.groupAt l.ref
    let act := g.active (l.self s1) f.mask
    let word := fun j t => wd (s1.rngWord l t 0 j + s1.rngWord l t 0 (j + 1) * 2 ^ 32)
    let g1 := g.writeOpnd f.d act (word 0)
    let g2 := match f.d with
      | .v n => if f.fs = 1 then g1.writeV (n.val + 1) act (word 2) else g1
      | _ => g1
    doneGroup l s1 (g2.stepRng (threadsOf act) 1))

/-- RNGSEED: set or advance the counters of the active threads (R161). -/
def execRngseed (f : RegForm) (s : State) : Outcome State Fault Refusal :=
  issue "RNGSEED" s (fun l s1 =>
    let g := s1.groupAt l.ref
    let self := l.self s1
    let ts := threadsOf (g.active self f.mask)
    doneGroup l s1 { g with rngc := setPerThread g.rngc ts (fun t =>
      if RegForm.flag f then g.readRng t + g.readOpnd self f.a t else g.readOpnd self f.a t) })

end Sys2Proof.Machine
end

