-- ==== Sys2Proof/Machine/Expand.lean ====
section
/-! DEFINITION. Codebook banks as the operand path reads them: planes, shape checks and expansion (R263, R264, R267 to R269). -/

namespace Sys2Proof.Machine

/-- Index width of a code (R69). -/
def iwOf (code : Nat) : Nat := [2, 3, 4, 5, 6, 8].getD code 8

/-- Elements per index of a code (R69). -/
def npiOf (code : Nat) : Nat := 2 ^ code

/-- FSLOT of a plane's configuration word (R263). -/
def Plane.fslot (p : Plane) : Nat := bitsOf p.config 3 0
/-- NPI code. -/
def Plane.npi (p : Plane) : Nat := bitsOf p.config 5 4
/-- IW code. -/
def Plane.iw (p : Plane) : Nat := bitsOf p.config 8 6
/-- POL. -/
def Plane.pol (p : Plane) : Bool := bitAt p.config 9
/-- BOUND. -/
def Plane.bound (p : Plane) : Bool := bitAt p.config 10

/-- Entry `x`, if it is valid. -/
def Plane.entry (p : Plane) (x : Nat) : Option Word := if p.valid.testBit x then some (AMap.get p.entries x 0) else none
/-- The plane with entry `x` written and valid, and BOUND cleared (R273, R278). -/
def Plane.write (p : Plane) (x : Nat) (w : Word) : Plane :=
  { entries := AMap.set p.entries x w 0, valid := p.valid ||| 2 ^ x, config := p.config % 1024, back := 0 }
/-- The plane with consecutive entries written, modulo 256 (R271). -/
def Plane.writes (p : Plane) (x : Nat) (ws : List Word) : Plane :=
  match ws with
  | [] => p
  | w :: rest => (p.write (x % 256) w).writes (x + 1) rest
/-- The plane with `n` entries from `x` on invalid, and BOUND cleared (R277, R278). -/
def Plane.clear (p : Plane) (x n : Nat) : Plane :=
  { p with valid := p.valid &&& (2 ^ 256 - 1 - natOfBits 256 (fun i => decide ((i + 256 - x % 256) % 256 < n))), config := p.config % 1024, back := 0 }

/-- Bank `b` of a core. -/
def Core.bank (c : Core) (b : Nat) : Bank := (AMap.find c.banks b).getD {}
/-- Replace a bank. -/
def Core.setBank (c : Core) (b : Nat) (x : Bank) : Core := { c with banks := AMap.put c.banks b x }
/-- Plane `i` of a bank. -/
def Bank.plane (b : Bank) (i : Bool) : Plane := if i then b.p1 else b.p0
/-- Replace plane `i`. -/
def Bank.setPlane (b : Bank) (i : Bool) (p : Plane) : Bank := if i then { b with p1 := p } else { b with p0 := p }
/-- Which plane expansion reads: the active one, or the one that was active before a swap of the same cycle (R269). -/
def Bank.side (b : Bank) : Bool := b.before.getD b.active
/-- The plane that expansion reads. -/
def Bank.reads (b : Bank) : Plane := b.plane b.side
/-- The plane that software writes. -/
def Bank.shadow (b : Bank) : Plane := b.plane (!b.active)

/-- The bank image of 4,224 bytes (R281). -/
def Bank.image (b : Bank) : List Byte :=
  let words := fun (p : Plane) => (List.range 256).flatMap (fun x => leBytes 8 (AMap.get p.entries x 0).toNat)
  leBytes 8 b.p0.config ++ leBytes 8 b.p1.config ++ leBytes 8 b.p0.back.toNat ++ leBytes 8 b.p1.back.toNat ++ leBytes 32 (natOfBool b.active) ++
    leBytes 32 b.p0.valid ++ leBytes 32 b.p1.valid ++ words b.p0 ++ words b.p1

/-- The bank that the 528 words of an image hold; reserved fields are ignored (R281). -/
def bankOfWords (ws : List Word) : Bank :=
  let at_ := fun (i : Nat) => ws.getD i 0
  let entries := fun (base : Nat) => (List.range 256).foldl (fun (m : AMap Word) x => AMap.set m x (at_ (base + x)) 0) []
  let plane := fun (c back v base : Nat) =>
    let config := (at_ c).toNat % 2048
    ({ entries := entries base, valid := (List.range 4).foldl (fun acc i => acc + (at_ (v + i)).toNat * 2 ^ (64 * i)) 0, config := config
       back := if bitAt config 10 then at_ back else 0 } : Plane)
  { p0 := plane 0 2 8 16, p1 := plane 1 3 12 272, active := (at_ 4).getLsbD 0 }

/-- The CBSHAPE cause of an expansion into slot number `slot` with `k` elements (R267). -/
def shapeCause (p : Plane) (slot k iw npi : Nat) : Option Nat :=
  if p.fslot != slot then some 1
  else if p.iw != iw || p.npi != npi then some 2
  else if k % npiOf npi != 0 || decide (64 < (k / npiOf npi) * iwOf iw) then some 3
  else none

/-- The index at position `j` of a source word (R268). -/
def cbIndex (iw : Nat) (src : Word) (j : Nat) : Nat := (src.toNat >>> (j * iw)) % 2 ^ iw

/-- The operand word of a source word: element e of index j is code e of the entry it selects; an invalid entry gives zeros (R264, R268). -/
def expandWord (p : Plane) (w k iw n : Nat) (src : Word) : Word :=
  wordOfElems w ((List.range k).map (fun i =>
    match p.entry (cbIndex iw src (i / n)) with
    | some e => elemOf w e (i % n)
    | none => 0))

/-- Positions of a source word that select an invalid entry, as a mask (R268). -/
def invalidMask (p : Plane) (iw m : Nat) (src : Word) : Nat :=
  natOfBits m (fun j => (p.entry (cbIndex iw src j)).isNone)

/-- Which expansion an instruction asks for: its bank, index width and elements per index as codes, and the slot its operand is read in. -/
structure Expansion where
  bank : Nat
  iw : Nat
  npi : Nat
  slot : Nat
  deriving DecidableEq, Repr

/-- The CBSHAPE trap of an expansion, if its checks fail (R267). -/
def Expansion.shapeTrap (x : Expansion) (c : Core) (g : Group) : Option TrapReq :=
  match shapeCause (c.bank x.bank).reads x.slot (lanesOf (fmtWidth (g.readF x.slot))) x.iw x.npi with
  | some cause => some { code := 0x06, aux := cause }
  | none => none

/-- The CBINV trap of an expansion of the active threads' source words, if an index selects an invalid entry (R268). -/
def Expansion.invTrap (x : Expansion) (c : Core) (g : Group) (ts : List Nat) (src : Nat → Word) : Option TrapReq :=
  let b := c.bank x.bank
  let p := b.reads
  let m := lanesOf (fmtWidth (g.readF x.slot)) / npiOf x.npi
  let bad := (ts.map (fun t => (t, invalidMask p (iwOf x.iw) m (src t)))).filter (fun q => q.2 != 0)
  match bad with
  | [] => none
  | q :: _ =>
    if p.pol then none
    else some { code := 0x05, aux := natOfBool b.side * 2 ^ 11 + x.bank * 2 ^ 8 + cbIndex (iwOf x.iw) (src q.1) (lowBit 64 q.2)
                addrs := bad.map (fun r => (r.1, wd r.2)) }

/-- UCE on consuming entries of a codebook plane, 256 being its configuration word (R263, R399). -/
def State.bookUce (s : State) (core bank : Nat) (plane : Bool) (es : List Nat) : Option TrapReq :=
  if s.bad.isEmpty then none else (es.findSome? (fun e => s.badAt (.book core bank plane e))).map (fun c => trapUce c [])

/-- UCE of an expansion: it consumes the configuration word and the entries that its indices select (R263, R399). -/
def Expansion.uceTrap (x : Expansion) (s : State) (core : Nat) (g : Group) (ts : List Nat) (src : Nat → Word) : Option TrapReq :=
  let m := lanesOf (fmtWidth (g.readF x.slot)) / npiOf x.npi
  s.bookUce core x.bank ((s.core core).bank x.bank).side (256 :: ts.flatMap (fun t => (List.range m).map (cbIndex (iwOf x.iw) (src t))))

/-- The operand word of an expansion. -/
def Expansion.word (x : Expansion) (c : Core) (g : Group) (src : Word) : Word :=
  let w := fmtWidth (g.readF x.slot)
  expandWord (c.bank x.bank).reads w (lanesOf w) (iwOf x.iw) (npiOf x.npi) src

end Sys2Proof.Machine
end

