-- ==== Sys2Proof/Machine/Float.lean ====
section
/-! DEFINITION. Format arithmetic: FADD to FFRC, FDEF, FDRD, FRED, FSCAN (R156, R163 to R194), over exact values with one rounding each. -/

namespace Sys2Proof.Machine

open Host

/-! ### The common element rule (R164 to R171) -/

/-- What an element operation meets: the words of A and B as expanded, C and D as read, the thread, the random word of result `i`. -/
structure FArgs where
  a : Word
  b : Word
  c : Word
  d : Word
  t : Nat
  rnd : Nat → Nat

/-- The expansion a format instruction asks of an operand read in `slot`, if its bit is set (R69, R171). -/
def fmtExpansion (f : FmtForm) (on : Bool) (slot : Nat) : Option Expansion :=
  if on then some ⟨f.bank.toNat, f.iw.toNat, f.npi.toNat, slot⟩ else none

/-- The first trap of a list of checks. -/
def firstTrap (cs : List (Option TrapReq)) : Option TrapReq :=
  match cs with
  | [] => none
  | some t :: _ => some t
  | none :: rest => firstTrap rest

/-- A format instruction that forms one word per active thread. `slot` is the slot of its result, `slotIn` that of A and B, `results` the number of rounded results it writes per word, 0 for an instruction that draws nothing (R40, R164 to R171). A CBINV of both operands is that of A alone (log 95). -/
def fmtLanes (name : String) (f : FmtForm) (srcs : List Opnd) (slotIn : Nat) (long : Bool) (pre : Group → Option TrapReq)
    (results : Group → Nat) (val : Group → FArgs → Word) (s : State) : Outcome State Fault Refusal :=
  issue name s (fun l s1 =>
    let g := s1.groupAt l.ref
    let self := l.self s1
    let core := s1.core g.core
    let act := g.active self f.mask
    let ts := threadsOf act
    let xa := fmtExpansion f f.xa slotIn
    let xb := fmtExpansion f f.xb slotIn
    let srcA := g.readOpnd self f.a
    let srcB := g.readOpnd self f.b
    if uniformBad f.d srcs then .trap trapUniform
    else
      match firstTrap [pre g, xa.bind (fun x => x.shapeTrap core g), xb.bind (fun x => x.shapeTrap core g),
          xa.bind (fun x => x.invTrap core g ts srcA), xb.bind (fun x => x.invTrap core g ts srcB),
          xa.bind (fun x => x.uceTrap s1 g.core g ts srcA), xb.bind (fun x => x.uceTrap s1 g.core g ts srcB)] with
      | some t => .trap t
      | none =>
        let opA := fun t => match xa with | some x => x.word core g (srcA t) | none => srcA t
        let opB := fun t => match xb with | some x => x.word core g (srcB t) | none => srcB t
        let n := if (g.fmt f.slot.toNat).rnd = 5 then results g else 0
        let drawer := fun t => if isUni f.d then lowBit 32 self.toNat else t
        let word := fun t => val g ⟨opA t, opB t, g.readOpnd self f.c t, g.readOpnd self f.d t, t,
          fun i => if n = 0 then 0 else s1.rngWord l (drawer t) (i / 4) (i % 4)⟩
        let drawing := if isUni f.d then [lowBit 32 self.toNat] else ts
        let g1 := if n = 0 then g else g.stepRng drawing (ceilDiv n 4)
        doneGroup l s1 (if long then g1.pendOpnd g.nextInst l.pc f.d act f.la.toNat word else g1.writeOpnd f.d act word))

/-- A word of `k` elements of a format, each formed from its position. -/
def wordOf (F : Fmt) (e : Nat → Nat) : Word := wordOfElems F.w ((List.range F.k).map e)

/-- An element-wise instruction (R164): `op` gives the code of element `i` from the codes x, y, z and a random word. -/
def elementwise (name : String) (f : FmtForm) (srcs : List Opnd) (long draws : Bool) (op : Fmt → Nat → Nat → Nat → Nat → Nat) (s : State) :
    Outcome State Fault Refusal :=
  fmtLanes name f srcs f.slot.toNat long (fun _ => none) (fun g => if draws then (g.fmt f.slot.toNat).k else 0)
    (fun g x =>
      let F := g.fmt f.slot.toNat
      wordOf F (fun i => op F (elemOf F.w x.a i) (elemOf F.w x.b i) (elemOf F.w x.c i) (x.rnd i))) s

/-- An element-wise instruction of one operand whose exact result is rounded once (R173). -/
def unary (name : String) (f : FmtForm) (long : Bool) (op : Fmt → Ex → Ex) (s : State) : Outcome State Fault Refusal :=
  elementwise name f [f.a] long true (fun F x _ _ r => encode1 F (op F (decodeCode F x)) r) s

/-! ### Element values -/

/-- FADD of two codes (R172). -/
def faddCode (F : Fmt) (x y r : Nat) : Nat := encode1 F (exSum (decide (F.rnd = 3)) [decodeCode F x, decodeCode F y]) r
/-- FSUB of two codes (R172). -/
def fsubCode (F : Fmt) (x y r : Nat) : Nat := encode1 F (exSum (decide (F.rnd = 3)) [decodeCode F x, (decodeCode F y).negate]) r
/-- FMUL of two codes (R172, R47). -/
def fmulCode (F : Fmt) (x y r : Nat) : Nat := encode1 F (codeProduct F x y) r
/-- FMAD of three codes (R172). -/
def fmadCode (neg : Bool) (F : Fmt) (x y z r : Nat) : Nat :=
  encode1 F (exSum (decide (F.rnd = 3)) [codeProduct F x y, if neg then (decodeCode F z).negate else decodeCode F z]) r
/-- FDIV of two codes (R172). -/
def fdivCode (F : Fmt) (x y r : Nat) : Nat := encode1 F (exDiv (decodeCode F x) (decodeCode F y)) r

/-- A chosen operand's code after input flushing, a NaN as the canonical one (R175). -/
def chosenCode (F : Fmt) (c : Nat) : Nat :=
  match decodeCode F c with
  | .nan => F.nanCode
  | .zero n => F.zeroCode n
  | _ => c % 2 ^ F.w

/-- FMIN of two codes (R175). -/
def fminCode (F : Fmt) (x y : Nat) : Nat :=
  let dx := decodeCode F x
  let dy := decodeCode F y
  if dx = .nan then chosenCode F y
  else if dy = .nan then chosenCode F x
  else if exBelow dy dx then chosenCode F y else chosenCode F x

/-- FMAX of two codes (R175). -/
def fmaxCode (F : Fmt) (x y : Nat) : Nat :=
  let dx := decodeCode F x
  let dy := decodeCode F y
  if dx = .nan then chosenCode F y
  else if dy = .nan then chosenCode F x
  else if exBelow dx dy then chosenCode F y else chosenCode F x

/-- The magnitude of an exact value. -/
def Ex.abs (x : Ex) : Ex := if x.sign then x.negate else x

/-- FSGN of a code: 0 abs, 1 chs, 2 cpys; by sign bit in float and log slots, by value in integer and fixed-point slots (R178). -/
def fsgnCode (op : Nat) (F : Fmt) (x y : Nat) : Nat :=
  let dx := decodeCode F x
  if F.kind = 1 ∨ F.kind = 2 then
    encode1 F (match op with
      | 0 => dx.abs
      | 1 => dx.negate
      | _ => if (decodeCode F y).sign then dx.abs.negate else dx.abs) 0
  else if dx = .nan then F.nanCode
  else
    let top := 2 ^ (F.w - 1)
    let mag := x % top
    let neg := match op with
      | 0 => false
      | 1 => !x.testBit (F.w - 1)
      | _ => y.testBit (F.w - 1)
    if neg && !(F.nan = 3 && mag = 0) then top + mag else mag

/-- A compare condition holds (R179). -/
def fcmpCond (cond : Nat) (F : Fmt) (x y : Nat) : Bool :=
  let dx := decodeCode F x
  let dy := decodeCode F y
  let un := dx = .nan || dy = .nan
  match cond with
  | 0 => exEq dx dy
  | 1 => un || !exEq dx dy
  | 2 => exLt dx dy
  | 3 => exLt dx dy || exEq dx dy
  | 4 => exLt dy dx
  | 5 => exLt dy dx || exEq dx dy
  | 6 => un
  | _ => !un

/-- The class bit of a raw code (R182). -/
def classOf (F : Fmt) (c : Nat) : Nat :=
  let sub := F.kind = 0 && (c % 2 ^ F.magBits) / 2 ^ F.m = 0
  match decodeCode { F with sub := 0 } c with
  | .nan => 0
  | .inf n => if n then 1 else 7
  | .zero _ => 4
  | .val n _ => if n then (if sub then 3 else 2) else (if sub then 5 else 6)

/-- A shift count as FSCL uses it: past ±4096 every result is that of ±4096 (R176). -/
def scaleCount (b : Word) : Int := max (min (sgn b) 4096) (-4096)

/-- FFRC of an exact value: 0 floor, 1 ceil, 2 trunc, 3 nearest even (R177). -/
def ffrcEx (op : Nat) (x : Ex) : Ex :=
  match x with
  | .val neg v =>
    let p := v.parts
    let q := p.1 / p.2
    let exact := p.1 % p.2 = 0
    let up := if exact then false else
      match op with
      | 0 => neg
      | 1 => !neg
      | 2 => false
      | _ => decide (p.2 < 2 * (p.1 % p.2)) || (p.2 = 2 * (p.1 % p.2) && q % 2 = 1)
    let n := if up then q + 1 else q
    if n = 0 then .zero neg else .val neg (.ratio n 1)
  | _ => x

/-! ### The instructions -/

/-- FADD (R172). -/
def execFadd (f : FmtForm) (s : State) : Outcome State Fault Refusal :=
  elementwise "FADD" f [f.a, f.b] false true (fun F x y _ r => faddCode F x y r) s
/-- FSUB (R172). -/
def execFsub (f : FmtForm) (s : State) : Outcome State Fault Refusal :=
  elementwise "FSUB" f [f.a, f.b] false true (fun F x y _ r => fsubCode F x y r) s
/-- FMUL (R172). -/
def execFmul (f : FmtForm) (s : State) : Outcome State Fault Refusal :=
  elementwise "FMUL" f [f.a, f.b] false true (fun F x y _ r => fmulCode F x y r) s
/-- FMAD (R172). -/
def execFmad (f : FmtForm) (s : State) : Outcome State Fault Refusal :=
  elementwise "FMAD" f [f.a, f.b, f.c] false true (fmadCode f.neg) s
/-- FDIV, long-latency (R172, R173). -/
def execFdiv (f : FmtForm) (s : State) : Outcome State Fault Refusal :=
  elementwise "FDIV" f [f.a, f.b] true true (fun F x y _ r => fdivCode F x y r) s

/-- FSQRT, long-latency (R173). -/
def execFsqrt (f : FmtForm) (s : State) : Outcome State Fault Refusal := unary "FSQRT" f true (fun _ x => exSqrt x) s
/-- FRCP, long-latency (R173). -/
def execFrcp (f : FmtForm) (s : State) : Outcome State Fault Refusal := unary "FRCP" f true (fun _ x => exRcp x) s
/-- FRSQ, long-latency (R173). -/
def execFrsq (f : FmtForm) (s : State) : Outcome State Fault Refusal := unary "FRSQ" f true (fun _ x => exRsq x) s
/-- FEXP2, long-latency (R173, log 9). -/
def execFexp2 (f : FmtForm) (s : State) : Outcome State Fault Refusal :=
  unary "FEXP2" f true (fun F x => exExp2 (F.kind = 0 || F.kind = 3) x) s
/-- FLOG2, long-latency (R173, log 9). -/
def execFlog2 (f : FmtForm) (s : State) : Outcome State Fault Refusal := unary "FLOG2" f true (fun _ x => exLog2 x) s

/-- FMIN (R175). -/
def execFmin (f : FmtForm) (s : State) : Outcome State Fault Refusal :=
  elementwise "FMIN" f [f.a, f.b] false false (fun F x y _ _ => fminCode F x y) s
/-- FMAX (R175). -/
def execFmax (f : FmtForm) (s : State) : Outcome State Fault Refusal :=
  elementwise "FMAX" f [f.a, f.b] false false (fun F x y _ _ => fmaxCode F x y) s

/-- FSGN; a slot without sign traps FMTERR (R178). -/
def execFsgn (f : FmtForm) (s : State) : Outcome State Fault Refusal :=
  let op := fmtLit f % 4
  fmtLanes "FSGN" f (if op = 2 then [f.a, f.b] else [f.a]) f.slot.toNat false
    (fun g => if (g.fmt f.slot.toNat).s = 0 then some (trapFmt 4) else none) (fun _ => 0)
    (fun g x => let F := g.fmt f.slot.toNat; wordOf F (fun i => fsgnCode op F (elemOf F.w x.a i) (elemOf F.w x.b i))) s

/-- FCMP (R180). -/
def execFcmp (f : FmtForm) (s : State) : Outcome State Fault Refusal :=
  elementwise "FCMP" f [f.a, f.b] false false (fun F x y _ _ => if fcmpCond (fmtLit f % 8) F x y then 2 ^ F.w - 1 else 0) s

/-- FCLASS (R182). -/
def execFclass (f : FmtForm) (s : State) : Outcome State Fault Refusal :=
  elementwise "FCLASS" f [f.a] false false (fun F x _ _ _ => if (fmtLit f).testBit (classOf F x) then 2 ^ F.w - 1 else 0) s

/-- FCMPK: bit t of the k-register, for each active thread (R181). -/
def execFcmpk (f : FmtForm) (s : State) : Outcome State Fault Refusal :=
  fmtLanes "FCMPK" f [] f.slot.toNat false (fun _ => none) (fun _ => 0)
    (fun g x =>
      let F := g.fmt f.slot.toNat
      let hit := fun i => fcmpCond (fmtLit f % 8) F (elemOf F.w x.a i) (elemOf F.w x.b i)
      wordOfBool (if (fmtLit f).testBit 4 then (List.range F.k).all hit else (List.range F.k).any hit)) s

/-- FSEL: by bit t of a k-register, or by the elements of c (R183). -/
def execFsel (f : FmtForm) (s : State) : Outcome State Fault Refusal :=
  let byMask := match f.c with | .k _ => true | _ => false
  if byMask && isUni f.d then issue "FSEL" s (fun _ _ => .trap trapUniform)
  else
    fmtLanes "FSEL" f [f.a, f.b, f.c] f.slot.toNat false (fun _ => none) (fun _ => 0)
      (fun g x =>
        let F := g.fmt f.slot.toNat
        wordOf F (fun i =>
          let take := if byMask then x.c.getLsbD x.t else elemOf F.w x.c i != 0
          if take then elemOf F.w x.a i else elemOf F.w x.b i)) s

/-- FDOT: the products of a thread's elements and element 0 of d, one rounding (R184). -/
def execFdot (f : FmtForm) (s : State) : Outcome State Fault Refusal :=
  let m := fmtLit f % 16
  fmtLanes "FDOT" f [f.a, f.b] m false (fun _ => none) (fun _ => 1)
    (fun g x =>
      let F := g.fmt f.slot.toNat
      let M := g.fmt m
      let z := decodeCode F (elemOf F.w x.d 0)
      let terms := (List.range M.k).map (fun i => codeProduct M (elemOf M.w x.a i) (elemOf M.w x.b i))
      wordOf F (fun i => if i = 0 then encode1 F (exSum (decide (F.rnd = 3)) (terms ++ [if f.neg then z.negate else z])) (x.rnd 0) else 0)) s

/-- FSUM: the elements of a thread summed, one rounding (R185). -/
def execFsum (f : FmtForm) (s : State) : Outcome State Fault Refusal :=
  let m := fmtLit f % 16
  fmtLanes "FSUM" f [f.a] m false (fun _ => none) (fun _ => 1)
    (fun g x =>
      let F := g.fmt f.slot.toNat
      let M := g.fmt m
      let terms := (List.range M.k).map (fun i => decodeCode M (elemOf M.w x.a i))
      wordOf F (fun i => if i = 0 then encode1 F (exSum (decide (F.rnd = 3)) terms) (x.rnd 0) else 0)) s

/-- Number of parts of a conversion (R186). -/
def partsOf (ks kd : Nat) : Nat := if kd ≤ ks then ceilDiv ks kd else ceilDiv kd ks

/-- The elements a conversion converts: destination position and source position, ascending (R186). -/
def convPairs (ks kd p : Nat) : List (Nat × Nat) :=
  if kd ≤ ks then ((List.range kd).map (fun i => (i, p * kd + i))).filter (fun q => decide (q.2 < ks))
  else ((List.range ks).map (fun j => (p * ks + j, j))).filter (fun q => decide (q.1 < kd))

/-- The word a conversion writes: widening fills with code 0, narrowing merges into d (R186). `src` is the exact value of source element j. -/
def convWord (F : Fmt) (ks p : Nat) (d : Word) (src : Nat → Ex) (rnd : Nat → Nat) : Word :=
  let pairs := convPairs ks F.k p
  wordOf F (fun i =>
    match pairs.zipIdx.find? (fun q => q.1.1 = i) with
    | some q => encode1 F (src q.1.2) (rnd q.2)
    | none => if F.k ≤ ks then 0 else elemOf F.w d i)

/-- The part check of a conversion (R186). -/
def partTrap (f : FmtForm) (g : Group) : Option TrapReq :=
  if partsOf (g.fmt (fmtLit f % 16)).k (g.fmt f.slot.toNat).k ≤ fmtLit f / 16 then some (trapFmt 2) else none

/-- Results a conversion counts (R40, R186). -/
def convCount (f : FmtForm) (g : Group) : Nat :=
  (convPairs (g.fmt (fmtLit f % 16)).k (g.fmt f.slot.toNat).k (fmtLit f / 16)).length

/-- FCVT (R186). -/
def execFcvt (f : FmtForm) (s : State) : Outcome State Fault Refusal :=
  fmtLanes "FCVT" f [f.a] (fmtLit f % 16) false (partTrap f) (convCount f)
    (fun g x =>
      let M := g.fmt (fmtLit f % 16)
      convWord (g.fmt f.slot.toNat) M.k (fmtLit f / 16) x.d (fun j => decodeCode M (elemOf M.w x.a j)) x.rnd) s

/-- The integer an exact value becomes under a rounding 0 rz, 1 rn, 2 rd, 3 ru; a NaN is 0, an infinity past every range (R187). -/
def exToInt (rm : Nat) (x : Ex) : Int :=
  match x with
  | .nan => 0
  | .inf n => if n then -(2 ^ 80) else 2 ^ 80
  | .zero _ => 0
  | .val _ _ =>
    match ffrcEx ([2, 3, 0, 1].getD rm 2) x with
    | .val n v => if n then -((v.parts.1 / v.parts.2 : Nat) : Int) else ((v.parts.1 / v.parts.2 : Nat) : Int)
    | _ => 0

/-- FCVTI: to an integer, or from one into element b mod k of d (R187). -/
def execFcvti (f : FmtForm) (s : State) : Outcome State Fault Refusal :=
  let ty := fmtLit f % 4
  let from_ := (fmtLit f).testBit 2
  fmtLanes "FCVTI" f [f.a, f.b] f.slot.toNat false (fun _ => none) (fun _ => if from_ then 1 else 0)
    (fun g x =>
      let F := g.fmt f.slot.toNat
      let e := x.b.toNat % F.k
      if from_ then
        let code := encode1 F (exOfRat (typed ty x.a) 1 false) (x.rnd 0)
        wordOf F (fun i => if i = e then code else elemOf F.w x.d i)
      else typedResult ty (saturate ty (exToInt (fmtLit f / 8 % 4) (decodeCode F (elemOf F.w x.a e))))) s

/-- FSCL: times 2 to the power b, shared by the thread's elements (R176). -/
def execFscl (f : FmtForm) (s : State) : Outcome State Fault Refusal :=
  fmtLanes "FSCL" f [f.a, f.b] f.slot.toNat false (fun _ => none) (fun g => (g.fmt f.slot.toNat).k)
    (fun g x =>
      let F := g.fmt f.slot.toNat
      wordOf F (fun i => encode1 F (exScale (scaleCount x.b) (decodeCode F (elemOf F.w x.a i))) (x.rnd i))) s

/-- An element under a block scale byte (R51). -/
def scaledEx (scale : Nat) (x : Ex) : Ex := if scale = 0xFF then .nan else exScale ((scale : Int) - 127) x

/-- FBSCL: FCVT with block scales read from b by name (R188). A part out of range is reported before a source slot without BLK (log 95). -/
def execFbscl (f : FmtForm) (s : State) : Outcome State Fault Refusal :=
  let m := fmtLit f % 16
  fmtLanes "FBSCL" f [] m false
    (fun g => firstTrap [partTrap f g, if (g.fmt m).blk != 1 then some (trapFmt 3) else none]) (convCount f)
    (fun g x =>
      let M := g.fmt m
      convWord (g.fmt f.slot.toNat) M.k (fmtLit f / 16) x.d (fun j =>
        let q := (x.t * M.k + j) / 32
        let scale := ((g.readOpnd 0 f.b (q / 8)).toNat >>> (8 * (q % 8))) % 256
        scaledEx scale (decodeCode M (elemOf M.w x.a j))) x.rnd) s

/-- FAMAX: the largest magnitude of a's elements and b's element 0 (R189). -/
def famaxCode (F : Fmt) (codes : List Nat) : Nat :=
  let vals := codes.map (decodeCode F)
  if vals.any (fun v => v = .nan) then F.nanCode
  else
    let best := vals.foldl (fun m v => if exLt m v.abs then v.abs else m) (.zero false)
    encode1 { F with sat := true, sub := 0 } best 0

/-- FAMAX (R189). -/
def execFamax (f : FmtForm) (s : State) : Outcome State Fault Refusal :=
  fmtLanes "FAMAX" f [f.a, f.b] f.slot.toNat false (fun _ => none) (fun _ => 0)
    (fun g x =>
      let F := g.fmt f.slot.toNat
      wordOf F (fun i => if i = 0 then famaxCode F (elemsOf F.w F.k x.a ++ [elemOf F.w x.b 0]) else 0)) s

/-- FFRC (R177). -/
def execFfrc (f : FmtForm) (s : State) : Outcome State Fault Refusal :=
  unary "FFRC" f false (fun _ x => ffrcEx (fmtLit f % 4) x) s

/-- FDEF: an invalid or zero word traps FMTERR and the slot keeps its definition (R190). -/
def execFdef (f : RegForm) (s : State) : Outcome State Fault Refusal :=
  issue "FDEF" s (fun l s1 =>
    let g := s1.groupAt l.ref
    let w := g.readOpnd (l.self s1) f.a 0
    if fmtValid w then doneGroup l s1 { g with f := AMap.set g.f f.fs.toNat (fmtStored w) 0 }
    else .trap (trapFmt 1))

/-- FDRD (R191). -/
def execFdrd (f : RegForm) (s : State) : Outcome State Fault Refusal :=
  perThread "FDRD" f.mask f.d [] (fun g _ _ => g.readF f.fs.toNat) s

/-! ### FRED and FSCAN (R56, R57, R156) -/

/-- A node of a reduction: its code, and the exact sum of the last addition that formed it. -/
structure Node where
  code : Nat
  sum : Option Ex := none
  deriving DecidableEq, Repr

/-- The format in which nodes are added: RNE in place of stochastic rounding (R57). -/
def nodeFmt (F : Fmt) : Fmt := if F.rnd = 5 then { F with rnd := 0 } else F

/-- Add two nodes; an absent input passes the other (R56). -/
def addNodes (F : Fmt) (x y : Option Node) : Option Node :=
  match x, y with
  | some a, some b =>
    let e := exSum (decide (F.rnd = 3)) [decodeCode F a.code, decodeCode F b.code]
    some ⟨encode1 (nodeFmt F) e 0, some e⟩
  | some a, none => some a
  | none, y => y

/-- One level of the tree: neighbours added. -/
def treeLevel (F : Fmt) (xs : List (Option Node)) : List (Option Node) :=
  match xs with
  | x :: y :: rest => addNodes F x y :: treeLevel F rest
  | _ => xs

/-- The root over 32 threads (R56). -/
def treeRoot (F : Fmt) (xs : List (Option Node)) : Option Node :=
  ((List.range 5).foldl (fun v _ => treeLevel F v) xs).headD none

/-- The prefix network over 32 threads (R57): the place of an absent thread passes on what reaches it. -/
def scanNet (F : Fmt) (xs : List (Option Node)) : List (Option Node) :=
  (List.range 5).foldl (fun (v : List (Option Node)) L =>
    (List.range 32).map (fun t => if t < 2 ^ L then v.getD t none else addNodes F (v.getD (t - 2 ^ L) none) (v.getD t none))) xs

/-- The code written for a node: its last sum under the slot's rounding; +0 for an absent one (R57). -/
def nodeCode (F : Fmt) (n : Option Node) (r : Nat) : Nat :=
  match n with
  | none => 0
  | some x =>
    match x.sum with
    | some e => encode1 F e r
    | none => x.code

/-- The nodes of level 0 of element `i`: the active threads' codes (R56). -/
def leafNodes (F : Fmt) (act : Half) (opA : Nat → Word) (i : Nat) : List (Option Node) :=
  (List.range 32).map (fun t => if act.getLsbD t then some ⟨elemOf F.w (opA t) i, none⟩ else none)

/-- The shared start of FRED and FSCAN: expansion of A, then a group transformer with its words. -/
def reduction (name : String) (f : FmtForm) (s : State)
    (fin : Latch → State → Group → Fmt → Half → (Nat → Word) → Group) : Outcome State Fault Refusal :=
  issue name s (fun l s1 =>
    let g := s1.groupAt l.ref
    let self := l.self s1
    let core := s1.core g.core
    let act := g.active self f.mask
    let xa := fmtExpansion f f.xa f.slot.toNat
    let src := g.readOpnd self f.a
    match firstTrap [xa.bind (fun x => x.shapeTrap core g), xa.bind (fun x => x.invTrap core g (threadsOf act) src),
        xa.bind (fun x => x.uceTrap s1 g.core g (threadsOf act) src)] with
    | some t => .trap t
    | none =>
      let opA := fun t => match xa with | some x => x.word core g (src t) | none => src t
      doneGroup l s1 (fin l s1 g (g.fmt f.slot.toNat) act opA))

/-- FRED: the tree over the active threads, its root written to each (R56, R156). -/
def execFred (f : FmtForm) (s : State) : Outcome State Fault Refusal :=
  reduction "FRED" f s (fun l s1 g F act opA =>
    let low := lowBit 32 act.toNat
    let root := wordOf F (fun i => nodeCode F (treeRoot F (leafNodes F act opA i)) (if F.rnd = 5 then s1.rngWord l low (i / 4) (i % 4) else 0))
    let g1 := if F.rnd = 5 && act != 0 then g.stepRng [low] (ceilDiv F.k 4) else g
    g1.writeOpnd f.d act (fun _ => root))

/-- FSCAN: the prefix network over the active threads (R57, R156). -/
def execFscan (f : FmtForm) (s : State) : Outcome State Fault Refusal :=
  reduction "FSCAN" f s (fun l s1 g F act opA =>
    let nets := (List.range F.k).map (fun i => scanNet F (leafNodes F act opA i))
    let word := fun t => wordOf F (fun i => nodeCode F ((nets.getD i []).getD t none) (if F.rnd = 5 then s1.rngWord l t (i / 4) (i % 4) else 0))
    let g1 := if F.rnd = 5 then g.stepRng (threadsOf act) (ceilDiv F.k 4) else g
    g1.writeOpnd f.d act word)

end Sys2Proof.Machine
end

