-- ==== Sys2Proof/Machine/Race.lean ====
section
/-! DEFINITION. Race tags and the check of deterministic mode (R410 to R414, R416). -/

namespace Sys2Proof.Machine

/-- How an access meets a race tag (R413). -/
inductive RaceAcc where
  | read | write
  | atomic (opc asz : Nat)
  deriving DecidableEq, Repr

/-- What a tag check gives (R413): the new KIND, the tag unchanged, or a conflict. -/
inductive TagStep where
  | kind (k : Nat)
  | keep
  | conflict
  deriving DecidableEq, Repr

/-- The check of an access against a tag: `same` says that the tag is of the access's own party. A tag read by several parties is of no one's (R413, log 21). -/
def tagStep (x : RaceTag) (same : Bool) (a : RaceAcc) : TagStep :=
  let fresh := match a with | .read => 2 | .write => 1 | .atomic _ _ => 4
  let matchOp := match a with | .atomic o z => x.opc = o && x.asz = z | _ => false
  if x.kind = 0 then .kind fresh
  else if same && x.kind != 3 then
    match a with
    | .read => .keep
    | .write => .kind 1
    | .atomic _ _ => if x.kind = 4 && matchOp then .keep else .kind 1
  else
    match x.kind, a with
    | 2, .read => .kind 3
    | 6, .read => .kind 3
    | 3, .read => .keep
    | 4, .atomic _ _ => if matchOp then .kind 4 else .conflict
    | _, _ => .conflict

/-- The phases of an access on a die and cluster (R412). -/
structure Phases where
  pph : Nat
  dph : Nat
  cph : Nat
  /-- die·64 + cluster. -/
  place : Nat
  deriving DecidableEq, Repr

/-- A stored tag is ordered before an access (R412). -/
def RaceTag.orderedBefore (x : RaceTag) (y : Phases) : Bool :=
  let d := (y.pph + 1024 - x.pph % 1024) % 1024
  (decide (1 ≤ d) && decide (d ≤ 511)) ||
    (d = 0 && x.place / 64 = y.place / 64 && decide (x.dph < y.dph)) ||
    (d = 0 && x.place = y.place && x.dph = y.dph && decide (x.cph < y.cph))

/-- The phases at a core (R412). -/
def State.phasesAt (s : State) (core : Nat) : Phases :=
  ⟨s.pph, (s.die (dieOf core)).dph, (s.cluster (clusterOf core)).cph, clusterOf core⟩

/-- What a place of tags holds for a sector, a tag ordered before the access being empty. -/
def tagAt (m : AMap RaceTag) (k : Nat) (ordered : RaceTag → Bool) : RaceTag :=
  match AMap.find m k with
  | some x => if ordered x then {} else x
  | none => {}

/-- A conflict: its thread and address, the other party's tag, and the cause (R414). A party met in the scratchpad or interval store is of the team itself. -/
structure Conflict where
  thr : Nat
  addr : Nat
  tag : RaceTag
  cause : Nat
  deriving DecidableEq, Repr

/-- Check one access against one place of tags as they stood before the instruction (`before`), and record it in `now`. Accesses of one instruction do not conflict with one another (log 21). -/
def tagPlace (before now : AMap RaceTag) (k : Nat) (ordered same : RaceTag → Bool) (new : RaceTag) (a : RaceAcc) :
    Option (AMap RaceTag) × RaceTag :=
  let old := tagAt before k ordered
  match tagStep old (same old) a with
  | .conflict => (none, old)
  | _ =>
    let cur := tagAt now k ordered
    match tagStep cur (same cur) a with
    | .keep => (some now, old)
    | .kind n => (some (AMap.put now k { new with kind := n }), old)
    | .conflict => (some (AMap.put now k { new with kind := 1 }), old)

/-- The places a sector's tags lie in. -/
inductive TagPlace where
  | scratch (k : Nat)
  | global (k : Nat)
  deriving DecidableEq, Repr

/-- The tagged sectors of an access's cells. -/
def tagSectors (cells : List Cell) : List (TagPlace × Nat) :=
  (cells.filterMap (fun c =>
    match c.loc with
    | .sp _ side off => some (TagPlace.scratch (side * 2 ^ 27 + off / 32), c.va)
    | .mem k => if c.dtag then some (TagPlace.global (k / 32), c.va) else none
    | .host _ _ => none)).foldl (fun (acc : List (TagPlace × Nat)) x => if acc.any (fun y => y.1 = x.1) then acc else acc ++ [x]) []

/-- The three places of tags while an instruction is checked. -/
structure TagMaps where
  sp : AMap RaceTag
  iv : AMap RaceTag
  l2 : AMap RaceTag

/-- Check the sectors of one thread's access in turn: the tags, and the conflicts (R413). -/
def checkSectors (before : TagMaps) (ph : Phases) (grp team : Nat) (thr : Nat) (a : RaceAcc) (now : TagMaps)
    (xs : List (TagPlace × Nat)) : TagMaps × List Conflict :=
  match xs with
  | [] => (now, [])
  | (p, va) :: rest =>
    let mine : RaceTag :=
      { opc := (match a with | .atomic o _ => o | _ => 0), asz := (match a with | .atomic _ z => z | _ => 0), thr := thr, gidx := grp }
    let byThread := fun x : RaceTag => x.thr = thr && x.gidx = grp
    match p with
    | .scratch k =>
      match tagPlace before.sp now.sp k (fun _ => false) byThread mine a with
      | (some m, _) => checkSectors before ph grp team thr a { now with sp := m } rest
      | (none, old) =>
        let r := checkSectors before ph grp team thr a now rest
        (r.1, ⟨thr, va, { old with team := team % 2 ^ 20 }, 1⟩ :: r.2)
    | .global k =>
      match tagPlace before.iv now.iv k (fun _ => false) byThread mine a with
      | (none, old) =>
        let r := checkSectors before ph grp team thr a now rest
        (r.1, ⟨thr, va, { old with team := team % 2 ^ 20 }, 2⟩ :: r.2)
      | (some m, _) =>
        let tag := { mine with team := team % 2 ^ 20, pph := ph.pph, dph := ph.dph, cph := ph.cph, place := ph.place }
        match tagPlace before.l2 now.l2 k (fun x => x.orderedBefore ph)
            (fun x => x.kind != 5 && x.kind != 6 && x.team = team % 2 ^ 20) tag a with
        | (none, old) =>
          let r := checkSectors before ph grp team thr a now rest
          (r.1, ⟨thr, va, old, 3⟩ :: r.2)
        | (some m2, _) => checkSectors before ph grp team thr a { now with iv := m, l2 := m2 } rest

/-- Check every thread's access; all conflicts are collected. -/
def checkAccs (before : TagMaps) (ph : Phases) (grp team : Nat) (a : RaceAcc) (now : TagMaps) (accs : List Acc) : TagMaps × List Conflict :=
  match accs with
  | [] => (now, [])
  | x :: rest =>
    let r := checkSectors before ph grp team x.thr a now (tagSectors x.cells)
    let q := checkAccs before ph grp team a r.1 rest
    (q.1, r.2 ++ q.2)

/-- Pages of faulting addresses by aligned 64 KiB range, in order of the lowest thread, then of address (R317). -/
def rangePages (xs : List (Nat × Nat)) (write remote : Bool) : List FaultPage :=
  (xs.foldl (fun (acc : List FaultPage) x =>
    if acc.any (fun p => p.addr / 65536 = x.2 / 65536) then acc
    else acc ++ [{ addr := x.2, thr := x.1, write := write, remote := remote }]) [])

/-- The RACE trap of a list of conflicts (R414). -/
def raceTrap (cs : List Conflict) (write : Bool) : TrapReq :=
  match cs with
  | [] => { code := 0x0C }
  | c :: _ =>
    { code := 0x0C, aux := c.tag.team * 2 ^ 22 + c.tag.gidx * 2 ^ 16 + c.tag.thr * 2 ^ 11 + c.tag.kind * 2 ^ 8 + c.cause
      addrs := cs.foldl (fun (acc : AMap Word) x => if (AMap.find acc x.thr).isSome then acc else acc ++ [(x.thr, wd x.addr)]) [], pages := rangePages (cs.map (fun x => (x.thr, x.addr))) write false }

/-- Tags that the backing area of a die holds: 256 MiB of 8 bytes each (R411). -/
def tagRoom : Nat := 2 ^ 25

/-- Tags of a die: those of the lines whose home it is, by sector, and the interval tags of its teams (R411). -/
def State.tagsOf (s : State) (d : Nat) : Nat :=
  (s.l2tags.filter (fun x => x.1 / 2 ^ 32 = d)).length + ((s.teams.filter (fun t => dieOf t.2.core = d)).map (fun t => t.2.ivTags.length)).sum

/-- Every die's tags have room in its backing area. The spec gives the places on chip no size, so each tag takes a place in the area (R417; log 102). -/
def State.tagsFit (s : State) : Bool :=
  decide (s.l2tags.length + (s.teams.map (fun t => t.2.ivTags.length)).sum ≤ tagRoom) || (List.range 8).all (fun d => decide (s.tagsOf d ≤ tagRoom))

/-- The race check of an instruction in a DET region: the state with its tags, the RACE trap, or DETOVF where a tag finds no room (R413, R414, R417). -/
def State.raceCheck (s : State) (team grp : Nat) (a : RaceAcc) (accs : List Acc) : Except TrapReq State :=
  if !(s.launchOf team).region.det then .ok s
  else
    let t := s.team team
    let before : TagMaps := ⟨t.spTags, t.ivTags, s.l2tags⟩
    let r := checkAccs before (s.phasesAt (s.group team grp).core) (s.group team grp).gidx t.linear a before accs
    match r.2 with
    | [] =>
      let s1 : State := { s.setTeam team { t with spTags := r.1.sp, ivTags := r.1.iv } with l2tags := r.1.l2 }
      if s1.tagsFit then .ok s1 else .error { code := 0x16, deferred := true }
    | cs => .error (raceTrap cs (a != .read))

end Sys2Proof.Machine
end

