-- ==== Sys2Proof/Machine/Pager.lean ====
section
/-! DEFINITION. Pager requests: the pages an access needs, the region's pager ring, and who waits (R389, R390, R419, R430, R520). -/

namespace Sys2Proof.Machine

/-- The launch is a device pager, whose own faults are answered as fatal (R430). -/
def Launch.isPager (l : Launch) : Bool := l.origin.isPager

/-- A page that needs service: its base, log2 of its size, the level the walk stopped at, the lowest thread that touches it, and whether a write needs it (R390). -/
structure NeedPage where
  base : Nat
  log : Nat
  level : Nat
  thr : Nat
  write : Bool
  /-- The lowest address of that thread on it. -/
  addr : Nat := 0
  deriving DecidableEq, Repr

/-- Who makes a request (R390). -/
structure Requester where
  launch : Nat := 0
  team : Nat := 0
  gidx : Nat := 0
  split : Nat := 0
  event : Nat := 0
  engine : Bool := false
  remote : Bool := false
  deriving DecidableEq, Repr

/-- SIZE of a request: 0 for 64 KiB, 1 for 2 MiB, 2 for 1 GiB (R390). -/
def sizeCode (log : Nat) : Nat := if log = 16 then 0 else if log = 21 then 1 else 2

/-- A pager request record (R390). -/
def requestBits (q : Requester) (p : NeedPage) (djid reqid die count index : Nat) : Nat :=
  let who := if q.engine || q.remote then ({} : Requester) else q
  who.event % 2 ^ 16 + (index % 256) * 2 ^ 24 + (die % 8) * 2 ^ 35 + sizeCode p.log * 2 ^ 38 + natOfBool q.remote * 2 ^ 40 +
    natOfBool p.write * 2 ^ 41 + natOfBool q.engine * 2 ^ 42 + (who.split % 8) * 2 ^ 43 + (count % 128) * 2 ^ 46 +
    (if q.engine || q.remote then 0 else (p.thr % 32) * 2 ^ 53) + (who.gidx % 64) * 2 ^ 58 + (who.team % 2 ^ 32) * 2 ^ 64 +
    (p.level % 256) * 2 ^ 96 + (djid % 2 ^ 16) * 2 ^ 112 + (reqid % 2 ^ 32) * 2 ^ 128 +
    (if q.remote then 0 else (q.launch % 2 ^ 32) * 2 ^ 160) + (p.base % 2 ^ 64) * 2 ^ 192

/-- Madder's view of the pager ring of a region, by the address of its producer index. -/
def State.pagerRing (s : State) (r : Region) : Ring := (AMap.find s.rings r.pprod).getD { region := r }

/-- Append the held request records of the ring whose producer index is at `prod`, each by the region that asks, while the ring has room (R419, R427). -/
def State.drainPager (s : State) (prod : Nat) (held : List (Region × Nat)) : State :=
  match held with
  | [] => { s with rings := AMap.put s.rings prod { AMap.get s.rings prod {} with held := [] } }
  | (r, n) :: rest =>
    if (s.ringBad r.pprod r.pcons).isEmpty && decide (s.ringUsed r.pprod r.pcons < 2 ^ r.plogsz) then
      (s.ringWrite r.pring r.plogsz 32 r.pprod n).drainPager prod rest
    else { s with rings := AMap.put s.rings prod { AMap.get s.rings prod {} with held := (r, n) :: rest } }

/-- Append the request records of one event; a host pager is signalled by a notification of KIND 7 (R430, R439). -/
def State.pagerPost (s : State) (r : Region) (recs : List Nat) : State :=
  if recs.isEmpty then s
  else
    let s1 := (s.useRing r r.pprod r.pcons).drainPager r.pprod ((s.pagerRing r).held ++ recs.map (fun n => (r, n)))
    if r.pager = 1 then s1.post r { kind := 7 } else s1

/-- The outstanding request of a die for a page, if any (R389). -/
def Die.pending (d : Die) (djid base log : Nat) : Option PagerReq :=
  d.requests.find? (fun q => q.djid = djid && q.va = base && q.log = log)

/-- Add a waiter to each page's request, making the request where there is none: the new state, the record bits of the new requests without COUNT and INDEX filled, and what the waiter waits on. -/
def State.joinRequests (s : State) (die djid : Nat) (r : Region) (w : Waiter) (ps : List NeedPage) : State × List (NeedPage × Nat) × List (Nat × Nat) :=
  match ps with
  | [] => (s, [], [])
  | p :: rest =>
    let d := s.die die
    match d.pending djid p.base p.log with
    | some q =>
      let s1 := s.setDie die { d with requests := d.requests.map (fun x => if x.reqid = q.reqid then { x with waiters := x.waiters ++ [w] } else x) }
      let t := s1.joinRequests die djid r w rest
      (t.1, t.2.1, (die, q.reqid) :: t.2.2)
    | none =>
      let q : PagerReq := { reqid := d.nextReq, djid := djid, va := p.base, log := p.log, region := r, waiters := [w] }
      let s1 := s.setDie die { d with requests := d.requests ++ [q], nextReq := (d.nextReq + 1) % 2 ^ 32 }
      let t := s1.joinRequests die djid r w rest
      (t.1, (p, q.reqid) :: t.2.1, (die, q.reqid) :: t.2.2)

/-- Request pages in order, as one event or, beyond 64 new requests, as one for each 64 (R390; log 103): the state, and the requests the waiter waits on. -/
def State.requestPages (s : State) (die djid : Nat) (r : Region) (q : Requester) (w : Waiter) (ps : List NeedPage) : State × List (Nat × Nat) :=
  let j := s.joinRequests die djid r w ps
  let n := j.2.1.length
  let recs := j.2.1.zipIdx.map (fun x => requestBits q x.1.1 djid x.1.2 die (min 64 (n - x.2 / 64 * 64)) (x.2 % 64))
  (j.1.pagerPost r recs, j.2.2)

/-- Addresses of the response windows that the package knows: PRESP of the regions of its launches, and of those that asked (R391, R427, R428, log 30). -/
def State.windows (s : State) : List Nat :=
  ((s.launches.filter (fun l => l.2.region.pager != 0)).map (fun l => l.2.region.presp) ++
    s.dies.flatMap (fun (d : Nat × Die) => d.2.requests.filterMap (fun q => if q.region.pager = 0 then none else some q.region.presp))).eraseDups

/-- Pager responses that a write to response windows brings: the word of die d lies at PRESP + 8·d (R391, R428). -/
def State.responses (s : State) (cells : List Cell) : List Instr :=
  s.windows.flatMap (fun w => (List.range 8).filterMap (fun d =>
    if (List.range 8).all (fun i => cells.any (fun c => some c.loc = (physKey 0 (w + 8 * d + i)).map Loc.mem)) then
      some (.pagerResponse d (wd ((s.readPhys (w + 8 * d) 8).getD 0)))
    else none))

/-- The write covers a byte of the doorbell word of a queue (R420). -/
def Queue.rungBy (q : Queue) (cells : List Cell) : Bool :=
  q.qdoor != 0 && cells.any (fun c => (List.range 8).any (fun i => some c.loc = (physKey 0 (q.qdoor.toNat / 8 * 8 + i)).map Loc.mem))

/-- Stores have been performed at their points of coherence at cells: the dies whose windows they wrote take the response words, and the queues whose doorbell words they wrote read them again (R391, R420). -/
def State.noticeAll (s : State) (cells : List Cell) : State :=
  { s with agenda := s.agenda ++ s.responses cells, queues := s.queues.map (fun x => if x.2.rungBy cells then (x.1, { x.2 with doorDue := true }) else x) }

/-- A core's stores have been performed at cells; those that stand in its L1 have not reached a window. -/
def State.notice (s : State) (cells : List Cell) : State := s.noticeAll (cells.filter (fun c => c.path != .l1))

/-- Report a fault to the region without ending the launch: a fault record as a new event of the group, and a notification of KIND 8 (R520). -/
def State.reportFault (s : State) (team grp : Nat) (record : Nat → Nat) (status : Nat) : State :=
  let g := s.group team grp
  let s1 := match s.writeRecords (s.xctx team g.core) (s.frecBase team grp) [record g.event] with
    | some x => x
    | none => s.unsettleRecords team grp
  let s2 := s1.setGroup team grp { s1.group team grp with event := ((s1.group team grp).event + 1) % 2 ^ 16 }
  let l := s2.launchOf team
  s2.post l.region { kind := 8, status := status, launch := l.id, team := (s2.team team).linear, gidx := g.gidx, frec := s2.frecBase team grp }

/-- A walk result over a list of accesses, page by page in the order of R386: faults without service with their cause, and pages that need service (R517). -/
structure PageScan where
  faults : List (FaultPage × Nat × Nat) := []
  needs : List NeedPage := []
  deriving Repr

/-- What a chunk map gives an address. -/
def ChunkMap.result (m : ChunkMap) (va : Nat) : Option Xlate := (m.find? (fun q => q.1 = va / 65536)).map (fun q => q.2)

/-- Look at one byte's translation. -/
def PageScan.add (p : PageScan) (m : ChunkMap) (write : Bool) (thr va : Nat) : PageScan :=
  match m.result va with
  | some (.fault cause log) =>
    if p.faults.any (fun f => f.1.addr / 2 ^ log = va / 2 ^ log && f.2.2 = log) then p
    else { p with faults := p.faults ++ [({ addr := va, thr := thr, write := write }, cause, log)] }
  | some (.need level log) =>
    let base := va - va % 2 ^ log
    if p.needs.any (fun n => n.base = base && n.log = log) then p
    else { p with needs := p.needs ++ [⟨base, log, level, thr, write, va⟩] }
  | _ => p

/-- Scan the bytes of a list of (thread, address) pairs. -/
def scanPages (m : ChunkMap) (write : Bool) (xs : List (Nat × Nat)) : PageScan :=
  xs.foldl (fun p x => p.add m write x.1 x.2) {}

/-- The lowest faulting address of each thread. -/
def faultAddrs (m : ChunkMap) (xs : List (Nat × Nat)) : AMap Word :=
  (xs.filter (fun x => match m.result x.2 with | some (.fault _ _) => true | _ => false)).foldl
    (fun (acc : AMap Word) x => if (AMap.find acc x.1).isSome then acc else acc ++ [(x.1, wd x.2)]) []

/-- The lowest address of each thread that needs a page. -/
def needAddrs (m : ChunkMap) (xs : List (Nat × Nat)) : AMap Word :=
  (xs.filter (fun x => match m.result x.2 with | some (.need _ _) => true | _ => false)).foldl
    (fun (acc : AMap Word) x => if (AMap.find acc x.1).isSome then acc else acc ++ [(x.1, wd x.2)]) []

/-- The PGFAULT trap of a scan with unserviced faults (R317, R389, R517). -/
def PageScan.trap (p : PageScan) (addrs : AMap Word) : TrapReq :=
  { code := 0x09, aux := (p.faults.head?.map (·.2.1)).getD 0, addrs := addrs, pages := p.faults.map (·.1) }

end Sys2Proof.Machine
end

