-- ==== Sys2Proof/Machine/Recipe.lean ====
section
/-! DEFINITION. Mordant recipe images: cell fields, paths, and the checks of an image (R351, R353, R354). A cell is its 256 bits as a number. -/

namespace Sys2Proof.Machine

/-! ### Cell fields (R351, R353) -/

/-- KIND of a cell. -/
def cellKind (c : Nat) : Nat := c % 16
/-- SLOT, DSLOT, BANK or the target of a FORK. -/
def cellSlot (c : Nat) : Nat := bitsOf c 11 8
/-- Walk extent E`d` of a READ. -/
def cellE (c d : Nat) : Nat := bitsOf c (47 + 16 * d) (32 + 16 * d)
/-- Edge limit L`d` of a READ. -/
def cellL (c d : Nat) : Nat := bitsOf c (111 + 16 * d) (96 + 16 * d)
/-- Byte stride S`d` of a READ, d = 1 to 3. -/
def cellS (c d : Nat) : Int := sextNat 32 (bitsOf c (159 + 32 * d) (128 + 32 * d))
/-- Byte stride D`d` of a WRITE, d = 1 to 3. -/
def cellD (c d : Nat) : Int := sextNat 32 (bitsOf c (127 + 32 * d) (96 + 32 * d))
/-- DOFF of a WRITE. -/
def cellOff (c : Nat) : Int := sextNat 32 (bitsOf c 95 64)
/-- SAT of a CONVERT or QUANT. -/
def cellSat (c : Nat) : Bool := bitAt c 12
/-- SRC of a SCALE. -/
def cellSrc (c : Nat) : Nat := bitsOf c 9 8
/-- RING of a SCALE or AMAX. -/
def cellRing (c : Nat) : Nat := bitsOf c 15 10
/-- ET of a SCALE. -/
def cellEt (c : Nat) : Int := sextNat 8 (bitsOf c 23 16)
/-- MODE of an AMAX. -/
def cellMode (c : Nat) : Bool := bitAt c 8
/-- PUSH of an AMAX. -/
def cellPush (c : Nat) : Bool := bitAt c 9

/-- The bits of a cell of a kind that its table names; every other bit is reserved. -/
def cellNamed (kind : Nat) : Nat :=
  match kind with
  | 0 => 2 ^ 256 - 2 ^ 32 + 0xF0F
  | 3 => 0x1F0F
  | 4 => 0xFFFF0F
  | 5 => 0xFF0F
  | 6 => 0x1F0F
  | 7 => 0xF0F
  | 9 => 0x70F
  | 10 => 0xF0F
  | 11 => 2 ^ 224 - 2 ^ 128 + (2 ^ 96 - 2 ^ 64) + 0xC0F
  | _ => 0xF

/-- The cell sets a reserved bit. -/
def cellReserved (c : Nat) : Bool := (c &&& cellNamed (cellKind c)) != c

/-- The 256-bit numbers of a list of words, four words each. -/
def cellsOf (ws : List Word) : List Nat :=
  match ws with
  | a :: b :: c :: d :: rest => (a.toNat + b.toNat * 2 ^ 64 + c.toNat * 2 ^ 128 + d.toNat * 2 ^ 192) :: cellsOf rest
  | _ => []

/-- NCELL of a header. -/
def recipeCells (header : Nat) : Nat := header % 16

/-! ### Paths -/

/-- Index of the first FORK. -/
def forkAt (cells : List Nat) : Option Nat := (List.range cells.length).find? (fun i => cellKind (cells.getD i 0) = 10)

/-- The paths from READ to a WRITE, as cell indices; a FORK whose target is not legal has none beyond it (R353, R354). -/
def recipePaths (cells : List Nat) : List (List Nat) :=
  let n := cells.length
  match forkAt cells with
  | none => [List.range n]
  | some f =>
    let b := cellSlot (cells.getD f 0)
    if f + 1 < b && decide (b ≤ n - 1) then
      [List.range b, List.range f ++ (List.range (n - b)).map (fun i => b + i)]
    else [List.range (f + 1)]

/-- Where a WRITE must stand: the end of each path. -/
def recipeEnds (cells : List Nat) : List Nat :=
  let n := cells.length
  match forkAt cells with
  | none => [n - 1]
  | some f =>
    let b := cellSlot (cells.getD f 0)
    if f + 1 < b && decide (b ≤ n - 1) then [b - 1, n - 1] else [n - 1]

/-! ### Image checks (R354) -/

/-- A cell breaks a rule about itself and its place. -/
def cellBad (cells : List Nat) (i : Nat) : Bool :=
  let c := cells.getD i 0
  let k := cellKind c
  let next := cells[i + 1]?
  let forkBad := k = 10 &&
    (forkAt cells != some i || !(decide (i + 1 < cellSlot c) && decide (cellSlot c ≤ cells.length - 1)))
  decide (11 < k) || cellReserved c || (k = 0) != (i = 0) || (k = 11) != (recipeEnds cells).contains i || forkBad ||
    ((k = 7 || k = 9) && i != 1) || (k = 8 && (next.map cellKind) != some 11) || (k = 4 && cellSrc c = 3) ||
    (k = 0 && (List.range 4).any (fun d => cellE c d = 0))

/-- What a path's stream is, as far as the image alone fixes it: row length and rows where known, whether it holds values, whether an AMAX or a QUANT came before. -/
structure PathShape where
  e0 : Option Nat
  e1 : Option Nat
  vals : Bool := false
  amax : Bool := false
  quant : Bool := false

/-- A known pair of extents exceeds a limit. -/
def pairBeyond (x y : Option Nat) (p : Nat → Nat → Bool) : Bool :=
  match x, y with
  | some a, some b => p a b
  | _, _ => false

/-- One cell along a path: whether it fails, and what follows it. -/
def pathCell (c : Nat) (p : PathShape) : Bool × PathShape :=
  let k := cellKind c
  let late := p.quant && k != 8 && k != 10 && k != 11
  match k with
  | 2 => (late || pairBeyond p.e0 p.e1 (fun a b => decide (64 < a) || decide (64 < b)), { p with e0 := p.e1, e1 := p.e0 })
  | 3 => (late, { p with vals := false })
  | 4 => (late || (cellSrc c = 2 && !p.amax), { p with vals := true })
  | 5 => (late || (cellMode c && pairBeyond p.e0 p.e1 (fun a b => decide (4096 < a * b))), { p with amax := true })
  | 6 => (late || (match p.e0 with | some a => a % 32 != 0 | none => false), { p with e0 := p.e0.map (fun a => a / 32), vals := false, quant := true })
  | 7 => (late, { p with e0 := none, vals := false })
  | 8 => (false, { p with e0 := none, vals := false })
  | 9 => (late, { p with e0 := none, vals := false })
  | 11 => (p.vals, p)
  | _ => (late, p)

/-- Failing cells along a path. -/
def pathBad (cells : List Nat) (path : List Nat) (p : PathShape) : List Nat :=
  match path with
  | [] => []
  | i :: rest =>
    let r := pathCell (cells.getD i 0) p
    let more := pathBad cells rest r.2
    if r.1 then i :: more else more

/-- The first failing cell of an image, 0xFF for the header; none where the image is legal (R354). -/
def recipeFault (header : Nat) (cells : List Nat) : Option Nat :=
  if recipeCells header = 0 || decide (12 < recipeCells header) || (header &&& 0xFF0F) != header || bitsOf header 15 8 != 1 ||
      cells.length != recipeCells header then some 0xFF
  else
    let read := cells.headD 0
    let start : PathShape := { e0 := some (cellE read 0), e1 := some (cellE read 1) }
    let bad := (recipePaths cells).flatMap (fun p => pathBad cells (p.drop 1) start)
    (List.range cells.length).find? (fun i => cellBad cells i || bad.contains i)

end Sys2Proof.Machine
end

