-- ==== Sys2Proof/Machine/Tb.lean ====
section
/-! DEFINITION. Transaction barriers: their layout, their updates, and the waits they release (R342 to R344, R259). -/

namespace Sys2Proof.Machine

/-- A parked split goes on. -/
def Group.wake (g : Group) (i : Nat) : Group :=
  g.setSplit i { g.split i with st := (g.split i).ready, wait := .none }

/-- The fields of a TB (R342). -/
structure Tb where
  phase : Nat
  flags : Nat
  exparr : Nat
  pendarr : Int
  pendsec : Int
  posted : Nat
  waiters : Nat
  deriving DecidableEq, Repr

/-- A TB's fields from its 16 bytes. -/
def tbOf (n : Nat) : Tb :=
  ⟨bitsOf n 3 0, bitsOf n 7 4, bitsOf n 27 8, sextNat 20 (bitsOf n 47 28), sextNat 32 (bitsOf n 79 48), bitsOf n 111 80, bitsOf n 127 112⟩

/-- A TB's 16 bytes from its fields. -/
def Tb.bits (t : Tb) : Nat :=
  t.phase % 16 + t.flags % 16 * 2 ^ 4 + t.exparr % 2 ^ 20 * 2 ^ 8 + wrapNat 20 t.pendarr * 2 ^ 28 + wrapNat 32 t.pendsec * 2 ^ 48 +
    t.posted % 2 ^ 32 * 2 ^ 80 + t.waiters % 2 ^ 16 * 2 ^ 112

/-- The updates of one cycle, as one: arrivals, sectors written, expectations carried with an arrival, and those without (R344). PENDARR is tested before it wraps to 20 bits (log 95). -/
def Tb.update (t : Tb) (arr sec : Int) (withArv after : Int) : Tb :=
  let a := { t with pendarr := t.pendarr - arr, pendsec := sextNat 32 (wrapNat 32 (t.pendsec + withArv - sec)), posted := wrapNat 32 (t.posted + withArv) }
  let b := if a.pendarr ≤ 0 && a.pendsec = 0 then
      { a with phase := (a.phase + 1) % 16, pendarr := (a.exparr : Int) + a.pendarr, pendsec := 0, posted := 0 }
    else a
  { b with pendsec := sextNat 32 (wrapNat 32 (b.pendsec + after)), posted := wrapNat 32 (b.posted + after) }

/-- Read a TB at a scratchpad place. -/
def State.tb (s : State) (team side off : Nat) : Tb := tbOf (leNat ((List.range 16).map (fun i => s.readSp team side (off + i))))

/-- Write a TB at a scratchpad place. -/
def State.setTb (s : State) (team side off : Nat) (t : Tb) : State :=
  (List.range 16).foldl (fun (acc : State) i => acc.writeSp team side (off + i) (BitVec.ofNat 8 (t.bits >>> (8 * i)))) s

/-- A parked TBWAIT whose parity test now holds goes on: WAITERS falls, D receives PHASE, and it acquires at `.clu` (R259, R344). -/
def State.wakeTb (s : State) (r : SplitRef) : State :=
  match (s.splitAt r).st, (s.splitAt r).wait with
  | 5, .tb d team side off par =>
    let t := s.tb team side off
    if t.phase % 2 != par then
      let s1 := (s.setTb team side off { t with waiters := t.waiters - 1 }).acquireL1 (s.groupAt r).core none
      s1.setGroupAt r (((s1.groupAt r).writeOnce d (wd t.phase)).wake r.split)
    else s
  | _, _ => s

/-- Every split of every resident team. -/
def State.allSplits (s : State) : List SplitRef :=
  s.teams.flatMap (fun t => t.2.groups.flatMap (fun g => (List.range 8).map (fun i => ⟨t.1, g.1, i⟩)))

/-- Re-test every parked TBWAIT (R344). -/
def State.retestTbs (s : State) : State :=
  (s.allSplits.filter (fun r => match (s.splitAt r).wait with | .tb _ _ _ _ _ => true | _ => false)).foldl (fun (acc : State) r => acc.wakeTb r) s

/-- A TB receives an update in this cycle (R344). -/
def State.updateTb (s : State) (team side off : Nat) (arr sec withArv after : Int) : State :=
  { s with tbNow := s.tbNow ++ [⟨⟨team, side, off⟩, arr, sec, withArv, after⟩] }

/-- Apply the updates that a TB has received in a cycle, as one; a team that has gone has no TB. -/
def State.settleTb (s : State) (us : List TbUpdate) (r : TbRef) : State :=
  let mine := us.filter (fun u => u.tb = r)
  if (AMap.find s.teams r.team).isNone then s
  else s.setTb r.team r.side r.off ((s.tb r.team r.side r.off).update (mine.map (fun u => u.arr)).sum (mine.map (fun u => u.sec)).sum
    (mine.map (fun u => u.withArv)).sum (mine.map (fun u => u.after)).sum)

/-- The updates of the cycle are applied, each TB's in one step, and every wait is tested again (R344). -/
def State.settleTbs (s : State) : State :=
  if s.tbNow.isEmpty then s
  else (((s.tbNow.map (fun u => u.tb)).eraseDups.foldl (fun (acc : State) r => acc.settleTb s.tbNow r) { s with tbNow := [] })).retestTbs

end Sys2Proof.Machine
end

