-- ==== Sys2Proof/Machine/Memory.lean ====
section
/-! DEFINITION. One memory instruction from its addresses to its effect: checks in the order of R314, scratchpad and private resolution, range locks, translation with the operand log, race tags, transactions, and performing loads, stores and atomics (R209 to R216, R220 to R227, R235, R244 to R247, R253, R319, R320, R350). -/

namespace Sys2Proof.Machine

/-! ### Scratchpad (R212 to R214) -/

/-- Put a pair at its place in a list rising in its first component. -/
def insertPair (x : Nat × Nat) (xs : List (Nat × Nat)) : List (Nat × Nat) :=
  match xs with
  | [] => [x]
  | y :: rest => if x.1 ≤ y.1 then x :: y :: rest else y :: insertPair x rest

/-- Core `c` is one of the team's cores. -/
def Team.onCore (t : Team) (c : Nat) : Bool := t.core = c || (t.paired && t.core + 1 = c)

/-- Resident teams of a launch on a core in order of residency (R213). -/
def State.ranked (s : State) (launch c : Nat) : List Nat :=
  ((s.teams.filter (fun p => p.2.launch = launch && p.2.saved.isNone && p.2.onCore c)).foldl
    (fun (acc : List (Nat × Nat)) p => insertPair (p.2.epoch, p.1) acc) []).map (fun p => p.2)

/-- The side of a team that lies on core `c`: 0 the leader, 1 the follower. -/
def Team.sideOn (t : Team) (c : Nat) : Nat := if t.core = c then 0 else 1

/-- The allocation a scratchpad address reaches: the team, and its side for a window access; or the PROT cause (R211 to R213). -/
def State.spBase (s : State) (team core ea : Nat) : Except Nat (Nat × Option Nat) :=
  if ea / 2 ^ 36 != 0 then .error 4
  else if !bitAt ea 35 then (if bitsOf ea 34 32 != 0 then .error 4 else .ok (team, none))
  else
    let t := s.team team
    let c := core / 8 * 8 + bitsOf ea 34 32
    if t.onCore c then .ok (team, some (t.sideOn c))
    else
      let rank := (s.ranked t.launch core).idxOf team
      match (s.ranked t.launch c)[rank]? with
      | some u => .ok (u, some ((s.team u).sideOn c))
      | none => .error 3

/-- The location of an offset within an allocation reached; `none` beyond it (R214). -/
def State.spLoc (s : State) (b : Nat × Option Nat) (off : Nat) : Option Loc :=
  let size := (s.launchOf b.1).lrec.scratch
  match b.2 with
  | some side => if off < size then some (.sp b.1 side off) else none
  | none =>
    if off < size then some (.sp b.1 0 off)
    else if (s.team b.1).paired && decide (off < 2 * size) then some (.sp b.1 1 (off - size))
    else none

/-! ### Address checks (R210, R211) -/

/-- Offset of a byte of an access within a scratchpad allocation. -/
def Acc.spOff (a : Acc) (va : Nat) : Nat := va - (a.ea.toNat - a.ea.toNat % 2 ^ 32)

/-- The PROT cause of one thread's access, if its bounds fail (R211). -/
def State.boundsCause (s : State) (team core : Nat) (space : Space) (a : Acc) : Option Nat :=
  match space with
  | .scratch =>
    match s.spBase team core a.ea.toNat with
    | .error c => some c
    | .ok b => if a.va.all (fun v => (s.spLoc b (a.spOff v)).isSome) then none else some 2
  | .priv => if a.va.all (fun v => decide (v < (s.launchOf team).lrec.privSize)) then none else some 5
  | _ => if a.va.any (fun v => decide (2 ^ 57 ≤ v)) then some 1 else none

/-- The trap of a list of failing accesses on their effective addresses, with the addresses of each that fault: one record for each page, a straddle giving two (R317). On the page of the effective address that address is reported. -/
def accTrapOn (code aux : Nat) (write : Bool) (bad : List (Acc × List Nat)) : TrapReq :=
  { code := code, aux := aux, addrs := (bad.filter (fun x => x.1.ea != 0)).map (fun x => (x.1.thr, x.1.ea))
    pages := rangePages (bad.flatMap (fun x => x.2.map (fun v => (x.1.thr, if v / 65536 = x.1.ea.toNat / 65536 then x.1.ea.toNat else v)))) write false }

/-- The trap of a list of failing accesses on their effective addresses alone. -/
def accTrap (code aux : Nat) (write : Bool) (bad : List Acc) : TrapReq := accTrapOn code aux write (bad.map (fun a => (a, [a.ea.toNat])))

/-- The addresses of an access that fail the bounds of its space, beside its effective address (R211, R317). -/
def State.boundsBytes (s : State) (team core : Nat) (space : Space) (a : Acc) : List Nat :=
  a.ea.toNat :: (match space with
    | .scratch => (match s.spBase team core a.ea.toNat with
        | .error _ => a.va
        | .ok b => a.va.filter (fun v => (s.spLoc b (a.spOff v)).isNone))
    | .priv => a.va.filter (fun v => decide ((s.launchOf team).lrec.privSize ≤ v))
    | _ => a.va.filter (fun v => decide (2 ^ 57 ≤ v)))

/-- A descriptor of a ranged access is well formed (R243). -/
def rangeOk (c : Word) : Bool :=
  fld c 63 57 = 0 && !c.getLsbD 6 && decide (7 ≤ fld c 5 0) && decide (fld c 5 0 ≤ 47) && (fld c 56 7 * 128) % 2 ^ fld c 5 0 = 0

/-- ALIGN, then PROT of the range descriptor, then the bounds of each thread (R211, R243). TRAPADDR of ALIGN names the misaligned threads alone (log 95). -/
def State.addressTrap (s : State) (team core : Nat) (req : MemReq) (desc : Option Word) : Option TrapReq :=
  let write := req.op != .load
  match req.accs.filter (fun a => a.ea.toNat % req.align != 0) with
  | x :: rest => some (accTrap 0x07 0 write (x :: rest))
  | [] =>
    if !req.accs.isEmpty && (match desc with | some c => !rangeOk c | none => false) then some (accTrap 0x08 7 write req.accs)
    else
      match req.accs.filter (fun a => (s.boundsCause team core req.space a).isSome) with
      | [] => none
      | x :: rest => some (accTrapOn 0x08 ((s.boundsCause team core req.space x).getD 0) write ((x :: rest).map (fun a => (a, s.boundsBytes team core req.space a))))

/-! ### Resolution -/

/-- Global address of byte `o` of a thread's private memory (R215). -/
def privVa (base thr o : Nat) : Nat := base + o / 8 * 256 + thr * 8 + o % 8

/-- Map an access to the bytes that translation sees: private offsets to global addresses (R215). -/
def State.mapped (s : State) (team : Nat) (grp : Group) (space : Space) (a : Acc) : List Nat :=
  match space with
  | .priv => a.va.map (privVa ((s.launchOf team).lrec.privBase (s.team team).linear grp.gidx) a.thr)
  | _ => a.va

/-- The cells of a scratchpad access. -/
def State.spCells (s : State) (team core : Nat) (a : Acc) : List Cell :=
  match s.spBase team core a.ea.toNat with
  | .ok b => a.va.map (fun v => { loc := (s.spLoc b (a.spOff v)).getD (.sp team 0 0), path := .home, va := v })
  | .error _ => []

/-- A range-lock entry covers a byte: of a scratchpad cell, or of a global address of the context (R348, R350). -/
def RangeLock.covers (k : RangeLock) (djid : Nat) (cell : Option Cell) (va : Nat) : Bool :=
  match cell with
  | some ⟨.sp t side off, _, _, _, _, _⟩ => k.sp = some (t, side) && decide (k.lo ≤ off) && decide (off < k.hi)
  | _ => k.sp.isNone && k.djid = djid && decide (k.lo ≤ va) && decide (va < k.hi)

/-- The lock entries that trap an access: mode W always, mode R for a store or an atomic (R350). -/
def State.lockHit (s : State) (cluster djid : Nat) (write : Bool) (cells : List Cell) (vas : List Nat) : Option RangeLock :=
  (s.cluster cluster).locks.find? (fun k => (k.write || write) &&
    (if cells.isEmpty then vas.any (fun v => k.covers djid none v) else cells.any (fun c => k.covers djid (some c) c.va)))

/-- The addresses of an access that lie in a locked range (R317, R350). -/
def State.lockedBytes (s : State) (cluster djid : Nat) (write : Bool) (a : Acc) (vas : List Nat) : List Nat :=
  if a.cells.isEmpty then vas.filter (fun v => (s.lockHit cluster djid write [] [v]).isSome)
  else (a.cells.filter (fun c => (s.lockHit cluster djid write [c] []).isSome)).map (fun c => c.va)

/-- The RANGELOCK trap of an instruction's accesses (R350). -/
def State.lockTrap (s : State) (core djid : Nat) (write : Bool) (xs : List (Acc × List Nat)) : Option TrapReq :=
  match xs.filter (fun x => (s.lockHit (clusterOf core) djid write x.1.cells x.2).isSome) with
  | [] => none
  | x :: rest =>
    let tag := ((s.lockHit (clusterOf core) djid write x.1.cells x.2).map (fun k => k.tag)).getD 0
    some (accTrapOn 0x0B (tag % 2 ^ 32) write ((x :: rest).map (fun y => (y.1, s.lockedBytes (clusterOf core) djid write y.1 y.2))))

/-! ### Values -/

/-- The new value of an atomic word of `n` bytes (R245 to R247). -/
def atomVal (op : AtomOp) (n old val cmp : Nat) : Nat :=
  let m := 2 ^ (8 * n)
  match op with
  | .int 0 => (old + val) % m
  | .int 1 => old &&& val
  | .int 2 => old ||| val
  | .int 3 => old ^^^ val
  | .int 4 => if sextNat (8 * n) old ≤ sextNat (8 * n) val then old else val
  | .int 5 => if sextNat (8 * n) old ≤ sextNat (8 * n) val then val else old
  | .int 6 => min old val
  | .int _ => max old val
  | .cas => if old = cmp then val else old
  | .bits => (old ^^^ (old &&& cmp)) ||| (val &&& cmp)
  | .flt opc d =>
    let F := fmtOf d
    let k := 8 * n / F.w
    (List.range k).foldl (fun acc i =>
      let x := elemOf F.w (wd old) i
      let y := elemOf F.w (wd val) i
      putBits acc (i * F.w) F.w (match opc with | 0 => faddCode F x y 0 | 1 => fminCode F x y | _ => fmaxCode F x y)) old

/-- A register's word from the bytes of an access: the pieces it receives, each at its bit (R236, R237, R239). -/
def recvWord (recvs : List Recv) (reg : Nat) (data : Nat) : Word :=
  wd ((recvs.filter (fun r => r.reg = reg)).foldl (fun acc r =>
    let x := (data >>> r.lo) % 2 ^ r.len
    acc + (if r.sx then wrapNat 64 (sextNat r.len x) else x) * 2 ^ r.dst) 0)

/-- The values of the registers an instruction loads, from each thread's bytes. -/
def loadedVals (req : MemReq) (data : List (Nat × Nat)) : List (Nat × AMap Word) :=
  req.dests.map (fun reg => (reg, (req.accs.filterMap (fun a =>
    (data.find? (fun d => d.1 = a.thr)).map (fun d => (if req.uniform then 0 else a.thr, recvWord a.recvs reg d.2))))))

/-! ### Performing -/

/-- The UCE of accesses that read: the words they consume are uncorrectable where they find them; the first failing thread gives the cause (R235, R399). -/
def State.readUce (s : State) (core : Nat) (accs : List Acc) : Option TrapReq :=
  if s.bad.isEmpty then none
  else
    let hits := accs.filterMap (fun a => (a.cells.findSome? (fun c => (s.badCell core c).map (fun k => (k, badWordAt core c k)))).map (fun c => (a.thr, a.ea, c)))
    match hits with
    | [] => none
    | h :: _ => some { trapUce h.2.2.1 ((hits.filter (fun x => x.2.2.1 = h.2.2.1)).map (fun x => (x.1, x.2.1))) with word := h.2.2.2 }

/-- Write the bytes of an access; words written whole are protected anew (R399). -/
def State.writeAcc (s : State) (core : Nat) (cs : List Cell) (v : Nat) : State :=
  (s.freshCells (some core) cs).writeCells core cs (leBytes cs.length v)

/-- Perform one access: its old bytes as a number, and the new state (R235, R245). A failed compare writes nothing (R246). -/
def State.performAcc (s : State) (core : Nat) (op : MemOp) (a : Acc) : Nat × State :=
  match op with
  | .load =>
    let r := (s.pinCells a.cells).readCells core a.cells
    (leNat r.1, r.2)
  | .store => (0, (s.pinCells a.cells).writeAcc core a.cells a.val)
  | .atomic o =>
    let r := (s.pinCells a.cells).readCells core a.cells
    let old := leNat r.1
    let new := atomVal o a.cells.length old a.val a.cmp
    (old, if o = .cas && old != a.cmp then r.2 else r.2.writeAcc core a.cells new)

/-- Perform the accesses of an instruction in ascending thread order (R236, R245): each thread's old bytes, and the state. -/
def State.performAccs (s : State) (core : Nat) (op : MemOp) (accs : List Acc) : List (Nat × Nat) × State :=
  match accs with
  | [] => ([], s)
  | a :: rest =>
    let r := s.performAcc core op a
    let q := r.2.performAccs core op rest
    ((a.thr, r.1) :: q.1, q.2)

/-- The 128-byte line of a location. -/
def locLine (l : Loc) : Nat × Nat :=
  match l with
  | .mem k => (0, k / 128)
  | .host d a => (1 + d, a / 128)
  | .sp t side off => (2 ^ 20 + t * 2 + side, off / 128)

/-- Lines that a transaction's buffered accesses name at this package (R254). -/
def Tx.keys (t : Tx) : List (Nat × Nat) := t.accs.flatMap (fun a => a.acc.cells.map (fun c => locLine c.loc))

/-- Lines that committing transactions hold locked (R254). -/
def State.lockedLines (s : State) : List (Nat × Nat) :=
  s.teams.flatMap (fun t => t.2.groups.flatMap (fun g =>
    match g.2.tx with
    | some x => if x.locked then x.keys else []
    | none => []))

/-- An access touches a locked line (R254). -/
def cellsLocked (lines : List (Nat × Nat)) (cells : List Cell) : Bool := cells.any (fun c => lines.contains (locLine c.loc))

/-- Two lists of cells share a location. -/
def cellsOverlap (xs ys : List Cell) : Bool := xs.any (fun x => ys.any (fun y => x.loc = y.loc))

/-- The cells of a stored instruction. -/
def PStore.cells (p : PStore) : List Cell := p.accs.flatMap (fun a => a.cells)

/-- A waiting store keeps its place before later accesses: one thread of both touches one location, or both are strong in one thread. Different threads of a group are not ordered (R220, R225, R231). -/
def PStore.precedes (p : PStore) (accs : List Acc) (synced : Bool) : Bool :=
  p.accs.any (fun a => accs.any (fun b => a.thr = b.thr && (cellsOverlap a.cells b.cells || (synced && p.strong))))

/-- An issued store or atomic that must be performed before a later one of its group (R220, R225, R235). -/
def PStore.before (p q : PStore) : Bool :=
  p.id != q.id && p.team = q.team && p.grp = q.grp && p.precedes q.accs q.strong

/-- The stores of a list that satisfy `sel`, with those before them that must be performed before one of these. -/
def closeBefore (sel : PStore → Bool) (xs : List PStore) : List PStore :=
  xs.foldr (fun x acc => if sel x || acc.any (fun y => x.before y) then x :: acc else acc) []

/-- An access without its bytes in some sectors. -/
def Acc.without (a : Acc) (secs : List Nat) : Acc :=
  let n := a.cells.length
  let keep := (a.cells.zip ((leBytes n a.val).zip (leBytes n a.cmp))).filter (fun x => !x.1.loc.inSectors secs)
  { a with cells := keep.map (fun x => x.1), val := leNat (keep.map (fun x => x.2.1)), cmp := leNat (keep.map (fun x => x.2.2)) }

/-- The store is plain data, which carries check codes; an atomic is performed at its home (R379, R395). -/
def PStore.coded (p : PStore) : Bool := p.op = .store || p.op = .atomic .bits

/-- A store without the sectors that are not committed (R397). -/
def PStore.without (p : PStore) (secs : List Nat) : PStore :=
  if p.coded && !secs.isEmpty then { p with accs := p.accs.map (fun a => a.without secs) } else p

/-- The tests that stores to cells by a core meet and fail, at the home of their sectors (R397). -/
def State.testsOf (s : State) (core : Nat) (cs : List Cell) : List SectorFail :=
  s.tests.filter (fun f => SectorFail.failed f && cs.any (fun c => match c.loc with
    | .mem k => k / 32 = f.sector && s.pathAt core k c.path != .l1
    | _ => false))

/-- The first failing sector among the locations that a write names gives E2E: LAUNCH is the writer's unless the old code of the sector it merged into failed (R397). -/
def State.failTests (s : State) (p : PStore) (fs : List SectorFail) : State :=
  match firstFail fs (p.cells.map (fun c => c.loc)) with
  | some x => s.failStore p.team p.grp (if 2 ≤ x.2.old then 0 else (s.team p.team).launch) x.1 ⟨{ code := 0x10 }, p.pc, p.w0, p.w1, 0⟩ p.split p.inst
  | none => s

/-- Perform the accesses of a store: sectors that fail the tests of the store are not committed, and E2E stands to be presented (R397). -/
def State.performTested (s : State) (p : PStore) : List (Nat × Nat) × State :=
  match (if p.coded then s.testsOf p.core p.cells else []) with
  | [] => s.performAccs p.core p.op p.accs
  | f :: fs =>
    let r := ({ s with tests := s.tests.filter (fun x => !(f :: fs).contains x) } : State).performAccs p.core p.op (p.without (failedSectors (f :: fs))).accs
    (r.1, r.2.failTests p (f :: fs))

/-- A write has touched scratchpad: TBs there are tested again (R344). -/
def State.retestCells (s : State) (cs : List Cell) : State :=
  if cs.any (fun c => match c.loc with | .sp _ _ _ => true | _ => false) then s.retestTbs else s

/-- Perform a waiting store or atomic; an atomic's results become ready (R235). -/
def State.performStore (s : State) (p : PStore) : State :=
  let s0 := { s with stores := s.stores.filter (fun q => q.id != p.id) }
  let r0 := s0.performTested p
  let r := (r0.1, r0.2.notice p.cells)
  let g := r.2.group p.team p.grp
  let regs := (g.pends.filter (fun q => q.inst = p.inst && q.src = .memory)).map (fun q => q.reg)
  let req : MemReq := { op := p.op, space := .glob, align := 1, cache := 0, order := .plain, scope := 0, accs := p.accs, dests := regs }
  let g' := (loadedVals req r.1).foldl (fun (acc : Group) v =>
    acc.fill p.inst v.1 (if 192 ≤ v.1 then v.2.map (fun x => (0, x.2)) else v.2)) g
  (if regs.isEmpty then r.2 else r.2.setGroup p.team p.grp g').retestCells p.cells

/-- A scratchpad store waits for an earlier matrix instruction of its group that has still to read bytes it writes (R310). -/
def State.matrixReads (s : State) (p : PStore) : Bool :=
  s.cores.any (fun c => c.2.order.any (fun o => o.team = p.team && o.grp = p.grp && !o.started && decide (o.inst < p.inst) &&
    p.cells.any (fun x => match x.loc with
      | .sp t side off =>
        let a := off + side * (s.launchOf t).lrec.scratch
        t = o.team && o.reads.any (fun r => decide (r.1 ≤ a) && decide (a < r.2))
      | _ => false)))

/-- Perform a list of stores in order; `none` when one touches a locked line, or must wait for a matrix read. -/
def State.performStores (s : State) (ps : List PStore) : Option State :=
  match ps with
  | [] => some s
  | p :: rest => if cellsLocked s.lockedLines p.cells || s.matrixReads p then none else (s.performStore p).performStores rest

/-- The waiting stores of a group, in order of issue. -/
def State.groupStores (s : State) (team grp : Nat) : List PStore := s.stores.filter (fun p => p.team = team && p.grp = grp)

/-- Perform the group's waiting stores that satisfy `sel`, in order of issue. -/
def State.drain (s : State) (team grp : Nat) (sel : PStore → Bool) : Option State :=
  s.performStores (closeBefore sel (s.groupStores team grp))

/-- Perform the group's waiting stores that accesses must come after: in each thread those it overlaps and, for strong accesses, the strong ones (R220, R225). -/
def State.drainFor (s : State) (team grp : Nat) (accs : List Acc) (synced : Bool) : Option State :=
  s.drain team grp (fun p => p.precedes accs synced)

/-- The accesses of every thread of a mask to the same cells. -/
def sharedAccs (m : Half) (cs : List Cell) : List Acc := (threadsOf m).map (fun t => { thr := t, ea := 0, cells := cs })

/-- A waiting store of a thread of `m` that a release waits for: a ranged one waits only for global locations of its range (R227, R244). -/
def PStore.releasedBy (p : PStore) (m : Half) (range : Option (Nat × Nat)) : Bool :=
  p.accs.any (fun a => m.getLsbD a.thr && (match range with
    | none => true
    | some r => a.cells.any (fun c => (match c.loc with | .sp _ _ _ => false | _ => c.priv.isNone) && decide (r.1 ≤ c.va) && decide (c.va < r.1 + 2 ^ r.2))))

/-- A scope reaches beyond the core (R221, R227). -/
def wide (paired : Bool) (scope : Nat) : Bool := decide (2 ≤ scope) || (scope = 1 && paired)

/-- Dirty bytes of a core's L1 that are to be written back lie in a line that a commit holds locked: the write-back waits (R254). -/
def State.writeBackHeld (s : State) (core : Nat) (p : Nat → L1Byte → Bool) : Bool :=
  match s.lockedLines with
  | [] => false
  | lines => (s.core core).l1.any (fun e => e.2.dirty && p e.1 e.2 && lines.contains (locLine (.mem e.1)))

/-- The write-back of the L1s of some cores waits for a line that a commit holds locked (R254). -/
def State.releaseHeld (s : State) (cores : List Nat) : Bool := cores.any (fun c => s.writeBackHeld c (fun _ _ => true))

/-- A remote access of one of some threads of a group is not answered, so not performed (R227, R472). -/
def State.remoteOf (s : State) (team grp : Nat) (m : Half) : Bool :=
  (s.fab.reqs ++ s.fab.queue).any (fun r => (match r.owner with
    | .thread t g _ _ => t = team && g = grp
    | _ => false) && r.parts.any (fun p => m.getLsbD p.1))

/-- What a release by threads of a group at a scope does to their local accesses: their stores are performed; a wide one writes the L1 back, and a core-scope one covers its dirty bytes (R227, R228, R244). A remote release does this alone (R481). -/
def State.releaseLocal (s : State) (team grp : Nat) (m : Half) (scope : Nat) (range : Option (Nat × Nat)) : Option State :=
  (s.drain team grp (fun p => p.releasedBy m range)).bind (fun s1 =>
    if wide (s1.team team).paired scope && s1.writeBackHeld (s1.group team grp).core (fun _ b => b.priv.isNone && inRange range b) then none else some <|
    if wide (s1.team team).paired scope then s1.releaseL1 (s1.group team grp).core range else s1.coverL1 (s1.group team grp).core range)

/-- A release by threads of a group at a scope: a wide one, unless it names a range, also waits for their remote accesses (R227, R244). -/
def State.release (s : State) (team grp : Nat) (m : Half) (scope : Nat) (range : Option (Nat × Nat)) : Option State :=
  if wide (s.team team).paired scope && range.isNone && s.remoteOf team grp m then none else s.releaseLocal team grp m scope range

/-- An acquire by a group at a scope (R227, R244). -/
def State.acquire (s : State) (team grp scope : Nat) (range : Option (Nat × Nat)) : State :=
  if wide (s.team team).paired scope then s.acquireL1 (s.group team grp).core range else s

/-! ### Transactions (R252, R253) -/

/-- The bytes a transaction's buffered accesses give, applied in order to the values at home. -/
def State.overlay (s : State) (core : Nat) (accs : List TxAcc) (m : List (Loc × Byte)) : List (Loc × Byte) :=
  match accs with
  | [] => m
  | x :: rest =>
    let old := x.acc.cells.map (fun c => match m.find? (fun e => e.1 = c.loc) with | some e => e.2 | none => (s.readCell core (c.via .home)).1)
    let n := x.acc.cells.length
    let new := match x.op with
      | .load => leNat old
      | .store => x.acc.val
      | .atomic o => atomVal o n (leNat old) x.acc.val x.acc.cmp
    let put := (x.acc.cells.zip (leBytes n new)).foldl (fun (acc : List (Loc × Byte)) e =>
      (e.1.loc, e.2) :: acc.filter (fun y => y.1 != e.1.loc)) m
    s.overlay core rest put

/-- A load's bytes inside a transaction (R253). -/
def State.txView (s : State) (core : Nat) (tx : Tx) (cells : List Cell) (plain : Nat) : Nat :=
  let m := s.overlay core (tx.accs.filter (fun x => x.remote.isNone)) []
  leNat (cells.zipIdx.map (fun c => match m.find? (fun e => e.1 = c.1.loc) with
    | some e => e.2
    | none => BitVec.ofNat 8 (plain >>> (8 * c.2))))

/-- Home die of a location, for R253: scratchpad on its core's die, host memory apart. -/
def State.locHome (s : State) (l : Loc) : Nat :=
  match l with
  | .mem k => homeDie k
  | .sp t _ _ => dieOf (s.team t).core
  | .host _ _ => 2000

/-- Distinct lines of a transaction. -/
def Tx.lines (t : Tx) : List (Nat × Nat) :=
  ((t.accs.flatMap (fun x => match x.remote with
    | some (p, va) => [(2 ^ 40 + p, va / 128)]
    | none => x.acc.cells.map (fun c => locLine c.loc)))).eraseDups

/-- Buffer a local access; mixed homes abort with code 2, a seventeenth line with code 1, a host page with code 2 (R253, R380). -/
def State.txBuffer (s : State) (t : Tx) (op : MemOp) (a : Acc) (djid : Nat) : Tx :=
  if t.abort.isSome then t
  else
    let homes := (a.cells.map (fun c => s.locHome c.loc)).eraseDups
    let home := t.home.getD (homes.headD 0)
    let t' := { t with accs := t.accs ++ [{ op := op, acc := a, djid := djid }], home := some home }
    if homes.any (fun h => h != home || h = 2000) then { t with abort := some (2, 0) }
    else if 16 < t'.lines.length then { t with abort := some (1, 0) }
    else t'

/-! ### The request -/

/-- Identity of the instruction that makes a request. -/
structure MemWho where
  team : Nat
  grp : Nat
  split : Nat
  inst : Nat
  pc : Word
  w0 : Word
  w1 : Word
  deriving DecidableEq, Repr

/-- How a request ends: done with loaded registers, queued to be performed later, held for another try, a trap, or pages to be serviced. -/
inductive MemRes where
  | done (s : State) (vals : List (Nat × AMap Word))
  | queued (s : State)
  | hold (s : State)
  | trap (t : TrapReq)
  | need (s : State) (ps : List NeedPage) (addrs : AMap Word)

/-- The request is an atomic; a packed store is none (R222). -/
def MemReq.isAtomic (r : MemReq) : Bool :=
  match r.op with
  | .atomic .bits => false
  | .atomic _ => true
  | _ => false

/-- The request is performed at its point of coherence: relaxed, an atomic, or an acquire or release at a wide scope (R222, R227). -/
def MemReq.strong (r : MemReq) (paired : Bool) : Bool :=
  r.order = .relaxed || ((r.order = .acquire || r.order = .release) && wide paired r.scope) || r.isAtomic

/-- The request's accesses are strong at some scope: they keep program order among one thread's (R222, R225). -/
def MemReq.synced (r : MemReq) : Bool := r.order != .plain || r.isAtomic

/-- How the race check sees a request (R413, R261). -/
def MemReq.raceAcc (r : MemReq) : RaceAcc :=
  match r.op with
  | .load => .read
  | .atomic (.int o) => .atomic o (if (r.accs.head?.map (fun a => a.va.length)).getD 8 = 8 then 1 else 0)
  | _ => .write

/-- The request must be performed before its split goes on: loads, and atomics and stores with an order (R227). -/
def MemReq.now (r : MemReq) : Bool := r.op = .load || r.order = .acquire || r.order = .release

/-- An atomic that a host page does not support (R380). -/
def MemReq.hostBad (r : MemReq) : Bool :=
  match r.op with
  | .atomic .cas => false
  | .atomic (.int 0) => false
  | .atomic .bits => false
  | .atomic _ => true
  | _ => false

/-- The cells of the accesses once translated. -/
def placeCells (m : ChunkMap) (cache : Nat) (strong : Bool) (priv : Option (Nat × Nat)) (det : Bool) (vas : List Nat) : List Cell :=
  vas.map (fun va => match m.leaf va with
    | some l =>
      let c := l.cell va cache strong priv
      if det && c.dtag then { c with path := match c.path with | .l1 => .through | .pinned _ _ => .through | p => p } else c
    | none => { loc := .mem 0, path := .home, va := va })

/-- The check codes of a store, made at issue, by the sectors of package memory and of host memory it writes; those of host memory stand above 2^55 (R395). -/
def MemReq.codes (r : MemReq) : AMap Nat :=
  if r.op = .store || r.op = .atomic .bits then
    checkCodes (r.accs.flatMap (fun a => (a.cells.zip (leBytes a.cells.length a.val)).filterMap (fun x => match x.1.loc with
      | .mem k => some (k, x.2)
      | .host d a => some (2 ^ 60 + d * 2 ^ 52 + a, x.2)
      | .sp _ _ _ => none)))
  else []

/-- Perform or queue a request whose cells are known; one that reads an uncorrectable word traps (R227, R235, R253). -/
def State.performReq (s : State) (w : MemWho) (req : MemReq) : MemRes :=
  let g := s.group w.team w.grp
  let paired := (s.team w.team).paired
  let cells := req.accs.flatMap (fun a => a.cells)
  let p : PStore :=
    { id := s.nextStore, team := w.team, grp := w.grp, split := w.split, inst := w.inst, launch := (s.team w.team).launch
      core := g.core, op := req.op, accs := req.accs, strong := req.synced, la := req.la, pc := w.pc, w0 := w.w0, w1 := w.w1
      codes := req.codes }
  match (if req.op = .store || (req.op != .load && req.seen.isSome && g.tx.isSome) then none else s.readUce g.core req.accs) with
  | some t => .trap t
  | none =>
  match req.seen, g.tx with
  | some n, some t =>
    if req.op = .load then
      if cellsLocked s.lockedLines cells then .hold s
      else
        match s.drainFor w.team w.grp req.accs req.synced with
        | none => .hold s
        | some s1 =>
          let r := s1.performAccs g.core .load req.accs
          .done r.2 (loadedVals req (req.accs.zip r.1 |>.map (fun x => (x.1.thr, r.2.txView g.core { t with accs := t.accs.take n } x.1.cells x.2.2))))
    else
      let djid := (s.launchOf w.team).region.djid
      .done (s.setGroup w.team w.grp { g with tx := some (req.accs.foldl (fun x a => s.txBuffer x req.op a djid) t) }) []
  | _, _ =>
    if req.now then
      if req.accs.isEmpty then .done s (loadedVals req [])
      else if cellsLocked s.lockedLines cells || (req.op != .load && s.matrixReads p) then .hold s
      else
        let m := maskOf (fun t => req.accs.any (fun a => a.thr = t)) ||| req.party
        match (s.drainFor w.team w.grp req.accs req.synced).bind (fun s0 => if req.order = .release then s0.release w.team w.grp m req.scope req.range else some s0) with
        | none => .hold s
        | some s1 =>
          let r0 := if req.op = .load then s1.performAccs g.core .load req.accs else s1.performTested p
          let r := if req.op = .load then r0 else (r0.1, (r0.2.notice cells).retestCells cells)
          let s2 := if req.order = .acquire then r.2.acquire w.team w.grp req.scope req.range
            else if req.order = .release && !wide paired req.scope then r.2.coverCells g.core cells else r.2
          .done s2 (loadedVals req r.1)
    else if req.accs.isEmpty then .done s []
    else .queued { s with stores := s.stores ++ [p], nextStore := s.nextStore + 1 }

/-- The first byte of the recipe image at an address, which counts its cells, once its page can be read (R354, R368). -/
def State.recipeHead (s : State) (w : MemWho) (a : Acc) (space : Space) : List Cell :=
  let g := s.group w.team w.grp
  if space = .scratch then s.spCells w.team g.core { a with va := [a.ea.toNat] }
  else
    match s.xlate (some g.core) (dieOf g.core) (s.launchOf w.team).region.djid (s.launchOf w.team).region.root false (a.ea.toNat / 65536 * 65536) .read with
    | .ok l => [l.cell a.ea.toNat 0 false none]
    | _ => []

/-- Bytes of the recipe image at an address: the header, and the cells it counts (R368). -/
def State.recipeSize (s : State) (w : MemWho) (a : Acc) (space : Space) : Nat :=
  match s.recipeHead w a space with
  | c :: _ =>
    let n := (s.readCell (s.group w.team w.grp).core c).1.toNat % 16
    32 + 32 * (if 12 < n then 0 else n)
  | [] => 32

/-- The stores of the reading thread to the head of a recipe image are performed before its size is read (R220, R368). -/
def State.settleHead (s : State) (w : MemWho) (req : MemReq) : Option State :=
  match req.book with
  | some ⟨_, _, .recipe⟩ => s.drainFor w.team w.grp (req.accs.map (fun a => { a with cells := s.recipeHead w a req.space })) false
  | _ => some s

/-- An RCPL asks for as many bytes as its image has. -/
def State.sized (s : State) (w : MemWho) (req : MemReq) : MemReq :=
  match req.book with
  | some ⟨_, _, .recipe⟩ =>
    let accs := req.accs.map (fun a =>
      let n := s.recipeSize w a req.space
      { a with va := (List.range n).map (fun i => a.ea.toNat + i)
               recvs := (List.range (n / 8)).map (fun j => { reg := 1000 + j, lo := 64 * j, len := 64 }) })
    { req with accs := accs, dests := ((accs.head?.map (fun a => a.recvs.map (fun r => r.reg))).getD []) }
  | _ => req

/-- Check and resolve a request against range locks, translation, race tags; then perform it (R314, R319, R517). -/
def State.memRunSized (s : State) (w : MemWho) (req : MemReq) : MemRes :=
  let g := s.group w.team w.grp
  let l := s.launchOf w.team
  let write := req.op != .load
  let strong := req.strong (s.team w.team).paired
  if req.space = .scratch then
    let accs := req.accs.map (fun a => { a with cells := s.spCells w.team g.core a })
    match s.lockTrap g.core l.region.djid write (accs.map (fun a => (a, []))) with
    | some t => .trap t
    | none =>
      match (if req.untagged then .ok s else s.raceCheck w.team w.grp req.raceAcc accs) with
      | .error t => .trap t
      | .ok s1 => s1.performReq w { req with accs := accs }
  else
    let xs := req.accs.map (fun a => (a, s.mapped w.team g req.space a))
    let x := s.xctx w.team g.core
    let bytes := xs.flatMap (fun p => p.2.map (fun v => (p.1.thr, v)))
    let m := s.xlateChunks x (if write then .write else .read) (chunksOf (bytes.map (fun b => b.2)))
    let onHost := xs.filter (fun p => req.hostBad && p.2.any (fun v => match m.leaf v with | some l => l.place = 2 | none => false))
    if !onHost.isEmpty then .trap (accTrap 0x08 0x0F write (onHost.map (fun p => p.1)))
    else
    match s.lockTrap g.core l.region.djid write xs with
    | some t => .trap t
    | none =>
      let scan := scanPages m write bytes
      if !scan.faults.isEmpty then .trap (scan.trap (faultAddrs m bytes))
      else if !scan.needs.isEmpty then .need s scan.needs (needAddrs m bytes)
      else
        let s1 := s.fillChunks x m
        let accs := xs.map (fun p => { p.1 with cells := placeCells m req.cache strong (if req.space = .priv then some (w.team, w.grp) else none) l.region.det p.2 })
        match s1.atsMissing (accs.flatMap (fun a => a.cells)) with
        | p :: rest => .hold { s1 with atsWaits := (s1.atsWaits ++ (p :: rest)).eraseDups }
        | [] =>
          match (if req.untagged then .ok s1 else s1.raceCheck w.team w.grp req.raceAcc accs) with
          | .error t => .trap t
          | .ok s2 => s2.performReq w { req with accs := accs }

/-- Run a request: an RCPL first learns the size of its image. -/
def State.memRun (s : State) (w : MemWho) (req : MemReq) : MemRes :=
  match s.settleHead w req with
  | none => .hold s
  | some s1 => s1.memRunSized w (s1.sized w req)

/-! ### Issue of a memory instruction -/

/-- A logged instruction faulted on the page of an address (R320). -/
def LogEntry.faultedOn (e : LogEntry) (va : Nat) : Bool := e.pages.any (fun p => decide (p.1 ≤ va) && decide (va < p.1 + 2 ^ p.2))

/-- An access must come after a logged one of its thread: it touches a location of it and one of the two writes, or both are strong (R220, R225). -/
def State.afterLogged (s : State) (team : Nat) (g : Group) (e : LogEntry) (req : MemReq) (a : Acc) : Bool :=
  e.req.accs.any (fun b => b.thr = a.thr &&
    ((e.req.synced && req.synced) ||
     (e.req.space = req.space && (e.req.op != .load || req.op != .load) && (s.mapped team g e.req.space b).any (s.mapped team g req.space a).contains)))

/-- The instruction waits for the operand log: all entries in use; a page that one of its threads' logged instructions faulted on; an order behind a logged instruction of its split (R320); and, so that R220, R224 and R225 hold across the replay, an access behind a logged one that it must come after, or behind a logged acquire of its split (log 107). -/
def State.logHolds (s : State) (w : MemWho) (self : Half) (req : MemReq) : Bool :=
  let g := s.group w.team w.grp
  decide (4 ≤ g.oplog.length) ||
    g.oplog.any (fun e => req.accs.any (fun a => (e.active.getLsbD a.thr && (s.mapped w.team g req.space a).any e.faultedOn) || s.afterLogged w.team g e req a)) ||
    g.oplog.any (fun e => (req.order = .acquire || req.order = .release || e.req.order = .acquire) && e.active &&& self != 0)

/-- The class of a request inside a transaction: disallowed requests abort it (R253). -/
def MemReq.disallowed (r : MemReq) : Bool :=
  r.order = .acquire || r.order = .release ||
    (match r.op with
     | .load => false
     | .store => false
     | .atomic .bits => false
     | .atomic (.int _) => !r.dests.isEmpty
     | .atomic _ => true)

/-- DETOP of a memory access in a DET region: a thread that has arrived with BARARV and not waited, or a window access to another core (R409). -/
def State.detAccess (s : State) (team : Nat) (g : Group) (act : Half) (req : MemReq) : Bool :=
  (s.launchOf team).region.det && !req.untagged &&
    (g.arrived.any (fun a => act.getLsbD (a % 32)) ||
     (req.space = .scratch && req.accs.any (fun a => bitAt a.ea.toNat 35 && a.ea.toNat / 2 ^ 36 = 0 && !(s.team team).onCore (g.core / 8 * 8 + bitsOf a.ea.toNat 34 32))))

/-- The words of an operand field in every thread, for the operand log (R319). -/
def slotWords (g : Group) (self : Half) (o : Opnd) : Option (List Word) :=
  match o with
  | .lit _ => none
  | .vz => none
  | _ => some ((List.range 32).map (g.readOpnd self o))

/-- The group with pending writes for the registers of a request (R201). Pseudo-registers of a codebook load are none. -/
def pendRegs (g : Group) (w : MemWho) (m : Half) (la : Nat) (vals : List (Nat × AMap Word)) (src : PendSrc) : Group :=
  (vals.filter (fun v => v.1 < 240)).foldl (fun (acc : Group) v => acc.addPend w.inst w.pc v.1 m la v.2 src) g

/-- The pending writes of an instruction hold words read from memory, at the addresses of its threads (R398). -/
def Group.fromMemory (g : Group) (inst : Nat) (addrs : AMap Word) : Group :=
  { g with pends := g.pends.map (fun p => if p.inst = inst then { p with addrs := some addrs } else p) }

/-- The address of each thread's access. -/
def MemReq.addrs (r : MemReq) : AMap Word := r.accs.map (fun a => (a.thr, a.ea))

/-- Enter a request in the operand log (R319): its pages are requested, its destinations stay pending. -/
def State.logRequest (s : State) (w : MemWho) (w1 : Word) (act : Half) (slots : List (Option (List Word))) (req : MemReq) (ps : List NeedPage) : State :=
  let g := s.group w.team w.grp
  let l := s.launchOf w.team
  let q : Requester := { launch := l.id, team := (s.team w.team).linear, gidx := g.gidx, split := w.split, event := g.event }
  let r := s.requestPages (dieOf g.core) l.region.djid l.region q (.inst w.team w.grp w.inst) ps
  let e : LogEntry :=
    { inst := w.inst, pc := w.pc, w0 := w.w0, w1 := w1, split := w.split, active := act, slots := slots, rngc := g.rngc, event := g.event, req := req, waits := r.2
      pages := ps.map (fun p => (p.base, p.log)) }
  let g1 := (pendRegs (r.1.group w.team w.grp) w act req.la (req.dests.map (fun d => (d, []))) .logged).fromMemory w.inst req.addrs
  r.1.setGroup w.team w.grp { g1 with oplog := g1.oplog ++ [e], event := (g1.event + 1) % 2 ^ 16 }

/-- The words a codebook or recipe load has read. -/
def bookWords (req : MemReq) (vals : List (Nat × AMap Word)) : List Word :=
  vals.map (fun v => AMap.get v.2 (if req.uniform then 0 else (req.accs.head?.map (fun a => a.thr)).getD 0) 0)

/-- The FMTERR of a recipe image that RCPL has read, in bits [15:8] the cell (R354). -/
def bookTrap (req : MemReq) (vals : List (Nat × AMap Word)) : Option TrapReq :=
  match req.book with
  | some ⟨_, _, .recipe⟩ =>
    let cells := cellsOf (bookWords req vals)
    (recipeFault (cells.headD 0) (cells.drop 1)).map (fun i => trapFmt (0x0A + 256 * i))
  | _ => none

/-- The words of a codebook load go to its bank: a copy in flight, or a whole image at once; those of RCPL go to its slot (R273, R276, R281, R368). -/
def State.takeBook (s : State) (w : MemWho) (req : MemReq) (vals : List (Nat × AMap Word)) : State :=
  match req.book with
  | none => s
  | some b =>
    let core := (s.group w.team w.grp).core
    let c := s.core core
    let words := bookWords req vals
    let bank := c.bank b.bank
    match b.kind with
    | .recipe =>
      let k := clusterOf core
      s.setCluster k { s.cluster k with recipes := AMap.put (s.cluster k).recipes b.bank (cellsOf (words.drop 4)) }
    | .image => (s.setCore core (c.setBank b.bank (bankOfWords words))).freshBank core b.bank
    | kind =>
      let copy : BankLoad :=
        { id := c.loads.foldl (fun n x => max n (x.id + 1)) 0, team := w.team, grp := w.grp, bank := b.bank, first := b.first, vals := words
          plane := !bank.active, back := match kind with | .bind _ a => some a | _ => none }
      let c1 := match kind with
        | .bind config _ => c.setBank b.bank (bank.setPlane (!bank.active) { bank.shadow with config := config, back := 0 })
        | _ => c
      ((match kind with
        | .bind _ _ => if s.bad.isEmpty then s else s.clearBad (fun p => p = .book core b.bank (!bank.active) 256)
        | _ => s) : State).setCore core { c1 with loads := c1.loads ++ [copy] }

/-- A codebook load of a bank is under way on a core: a copy in flight, or a logged instruction (R273, R275, R281). -/
def State.bookBusy (s : State) (core bank : Nat) : Bool :=
  (s.core core).loads.any (fun x => x.bank = bank) ||
    s.teams.any (fun t => t.2.saved.isNone && t.2.groups.any (fun g => g.2.core = core && g.2.oplog.any (fun e => match e.req.book with | some b => b.bank = bank && b.kind != .recipe | none => false)))

/-- An instruction in flight on a core reads a plane of a bank: a matrix instruction, an engine operation of a CBDEC, or one that issues in the cycle of a swap (R269, R278). -/
def State.bookRead (s : State) (core bank : Nat) (side : Bool) : Bool :=
  (s.core core).order.any (fun o => !o.copy && o.plane.isSome && fld o.b 45 43 = bank && o.side = side) ||
    (s.cluster (clusterOf core)).ops.any (fun o => o.core = core && o.sides.contains (2 * bank + natOfBool side)) || ((s.core core).bank bank).before = some side

/-- A write to the shadow plane of a bank waits: for the loads of the bank, and for what still reads the plane (R275, R278). -/
def State.shadowBusy (s : State) (core bank : Nat) : Bool :=
  s.bookBusy core bank || s.bookRead core bank (!((s.core core).bank bank).active)

/-- A logged RCPL of a slot of a cluster has not been replayed: a CPY or RCPL of the slot comes after it (R365, R368). -/
def State.recipeBusy (s : State) (cluster slot : Nat) : Bool :=
  s.teams.any (fun t => t.2.saved.isNone && t.2.groups.any (fun g => clusterOf g.2.core = cluster && g.2.oplog.any (fun e => match e.req.book with
    | some b => b.bank = slot && b.kind = .recipe
    | none => false)))

/-- An access of a pager launch itself that needs the pager is answered as fatal: PGFAULT with cause 2 stands to be presented before its split's next issue (R393, R430). -/
def State.fatalOwn (s : State) (w : MemWho) (ps : List NeedPage) (addrs : AMap Word) : State :=
  let g := s.group w.team w.grp
  let t : TrapReq :=
    { code := 0x09, aux := 2, deferred := true, addrs := addrs, pages := ps.map (fun p => { addr := p.addr, thr := p.thr, write := p.write }) }
  s.setGroup w.team w.grp { g with deferred := g.deferred ++ [{ split := w.split, inst := w.inst, trap := ⟨t, w.pc, w.w0, w.w1, (g.split w.split).pc⟩ }] }

/-- A memory instruction at issue. `fmt` is the trap that comes before DETOP, `det` the DETOP of R261, `prot` a PROT trap before the bounds, `desc` a range descriptor, `slots` the operand words for the log, `act` the threads whose registers are written. RANGELOCK and RACE of a transactional store leave its transaction open (log 95); every trap of the checks before them aborts it with code 4, FMTERR of STBK too (log 106). -/
def memIssue (l : Latch) (s : State) (act : Half) (fmt : Option TrapReq) (det : Bool) (prot : Option TrapReq) (desc : Option Word) (slots : List (Option (List Word))) (req : MemReq) : Res :=
  let g := s.groupAt l.ref
  let self := l.self s
  let team := l.ref.team
  let w : MemWho := ⟨team, l.ref.grp, l.ref.split, g.nextInst, l.pc, l.w0, l.w1⟩
  let isStore := req.op != .load
  let tx := g.openTx
  let req := { req with seen := tx.map (fun t => t.accs.length) }
  if tx.isSome && req.disallowed then doneGroup l s (g.abortTx 7 0)
  else if tx.isSome && isStore && (tx.bind (fun t => t.abort)).isSome then .done s
  else
    match firstTrap [fmt, if det || s.detAccess team g act req then some trapDetOp else none, prot, s.addressTrap team g.core req desc] with
    | some t => .trap { t with txAbort := tx.isSome && isStore }
    | none =>
      if s.logHolds w self req then .hold s
      else
        match s.memRun w req with
        | .hold s1 => .hold s1
        | .trap t =>
          if tx.isSome && isStore && t.code = 0x09 then doneGroup l s (g.abortTx 4 0) else .trap { t with txAbort := tx.isSome && isStore && t.code = 0x08 }
        | .done s1 vals =>
          if let some t := bookTrap req vals then .trap t
          else
          let s2 := s1.takeBook w req vals
          doneGroup l s2 ((pendRegs (s2.groupAt l.ref) w act req.la vals .ready).fromMemory w.inst req.addrs)
        | .queued s1 => doneGroup l s1 ((pendRegs (s1.groupAt l.ref) w act req.la (req.dests.map (fun d => (d, []))) .memory).fromMemory w.inst req.addrs)
        | .need s1 ps addrs =>
          if tx.isSome && isStore then doneGroup l s (g.abortTx 4 0)
          else if (s.launchOf team).isPager then .done (s1.fatalOwn w ps addrs)
          else .done (s1.logRequest w l.w1 act slots req ps)

/-! ### Replay (R319, R392, R393) -/

/-- A logged instruction leaves the log with a trap on it, presented before its split's next issue. Of PGFAULT only cause 0x02 is presented as a deferred trap (R393); another trap is deferred if its split has issued later instructions (R313, R315; log 108). -/
def State.failEntry (s : State) (team grp : Nat) (e : LogEntry) (t : TrapReq) : State :=
  let g := s.group team grp
  let d : Deferred := { split := e.split, inst := e.inst, trap := ⟨{ t with deferred := if t.code = 0x09 then t.aux = 2 else t.deferred || g.passed e.split e.pc e.w0 }, e.pc, e.w0, e.w1, (g.split e.split).pc⟩ }
  s.setGroup team grp { g with oplog := g.oplog.filter (fun x => x.inst != e.inst), deferred := g.deferred ++ [d] }

/-- Re-issue a logged instruction from the log: it completes as if it had arrived late, asks for further pages, waits on, or traps (R319, R392). -/
def State.replayEntry (s : State) (team grp : Nat) (e : LogEntry) : State :=
  let w : MemWho := ⟨team, grp, e.split, e.inst, e.pc, e.w0, e.w1⟩
  let leave := fun (g : Group) => { g with oplog := g.oplog.filter (fun x => x.inst != e.inst) }
  match s.memRun w e.req with
  | .hold s1 => s1
  | .trap t => s.failEntry team grp e t
  | .done s1 vals =>
    if let some t := bookTrap e.req vals then s.failEntry team grp e t
    else
    let s2 := s1.takeBook w e.req vals
    let g := vals.foldl (fun (acc : Group) v =>
      acc.fill e.inst v.1 (if 192 ≤ v.1 then v.2.map (fun x => (0, x.2)) else v.2)) (s2.group team grp)
    s2.setGroup team grp (leave g)
  | .queued s1 =>
    let g := s1.group team grp
    s1.setGroup team grp (leave { g with pends := g.pends.map (fun p => if p.inst = e.inst then { p with src := .memory } else p) })
  | .need s1 ps _ =>
    let g := s1.group team grp
    let l := s1.launchOf team
    let q : Requester := { launch := l.id, team := (s1.team team).linear, gidx := g.gidx, split := e.split, event := e.event }
    let r := s1.requestPages (dieOf g.core) l.region.djid l.region q (.inst team grp e.inst) ps
    let g1 := r.1.group team grp
    r.1.setGroup team grp { g1 with oplog := g1.oplog.map (fun x => if x.inst = e.inst then { x with waits := r.2, pages := (x.pages ++ ps.map (fun p => (p.base, p.log))).eraseDups } else x) }

/-- Re-issue a logged instruction if it awaits no page; one of a saved team waits for its restore, and for the reload of its banks (R283, R329). -/
def State.replayInst (s : State) (team grp inst : Nat) : State :=
  match (if (s.team team).saved.isSome || (s.team team).restoring then none else (s.group team grp).oplog.find? (fun e => e.inst = inst)) with
  | some e => if e.waits.isEmpty then s.replayEntry team grp e else s
  | none => s

/-- Re-issue every logged instruction that awaits no page: one whose replay was held before. -/
def State.replayAll (s : State) : State :=
  let xs := s.teams.flatMap (fun t => t.2.groups.flatMap (fun g => g.2.oplog.map (fun e => (t.1, g.1, e.inst))))
  xs.foldl (fun (acc : State) x => acc.replayInst x.1 x.2.1 x.2.2) s

end Sys2Proof.Machine
end

