-- ==== Sys2Proof/Machine/LoadStore.lean ====
section
/-! DEFINITION. The memory-form instructions: LD to STU, PRF, CMNT, ATOM, ACAS, FATOM, LDACQ, STREL (R67, R233 to R248, R261). -/

namespace Sys2Proof.Machine

open Host

/-! ### Addresses and registers (R67) -/

/-- The effective address of a memory form in thread `t` (R67), but for the packed one. -/
def memEa (g : Group) (self : Half) (f : MemForm) (t : Nat) : Word :=
  let scale := if f.size.val = 7 then 1 + 4 * fmtWidth (g.readF f.fs.toNat) else 2 ^ f.size.val
  g.readOpnd self f.a t + g.readOpnd self f.b t * wd scale + f.disp.getD 0

/-- The stream bit at which a packed run begins (R67, R237): the byte address is taken modulo 2^64 (log 22). -/
def packedStart (g : Group) (self : Half) (f : MemForm) : Nat :=
  let w := fmtWidth (g.readF f.fs.toNat)
  let base : Int := 8 * (((g.readOpnd self f.a 0 + f.disp.getD 0).toNat : Nat) : Int) + sgn (g.readOpnd self f.b 0) * (w : Int)
  wrapNat 67 (base + ((g.readOpnd self f.c 0).toNat : Int))

/-- The register field of an operand that a load writes. -/
def destField (o : Opnd) : Option Nat :=
  match o with
  | .v n => some n.val
  | .g n => some (192 + n.val)
  | _ => none

/-- Register `j` of a tuple (R68). -/
def tupleAt (o : Opnd) (j : Nat) : Opnd :=
  match o with
  | .v n => if h : n.val + j < 192 then .v ⟨n.val + j, h⟩ else .vz
  | .g n => if h : n.val + j < 48 then .g ⟨n.val + j, h⟩ else .vz
  | x => x

/-- The value of `n` bytes of a register or tuple (R236). -/
def storeVal (g : Group) (self : Half) (o : Opnd) (t n : Nat) : Nat :=
  if n ≤ 8 then (g.readOpnd self o t).toNat % 2 ^ (8 * n)
  else (List.range (n / 8)).foldl (fun acc j => acc + (g.readOpnd self (tupleAt o j) t).toNat * 2 ^ (64 * j)) 0

/-- The bytes from an effective address on. -/
def spanFrom (ea : Word) (n : Nat) : List Nat := (List.range n).map (fun i => ea.toNat + i)

/-- The pieces that a load of `n` bytes gives the registers of D (R236). -/
def loadRecvs (o : Opnd) (n : Nat) (sx : Bool) : List Recv :=
  if n ≤ 8 then (match destField o with | some r => [{ reg := r, lo := 0, len := 8 * n, sx := sx }] | none => [])
  else (List.range (n / 8)).filterMap (fun j => (destField (tupleAt o j)).map (fun r => { reg := r, lo := 64 * j, len := 64 }))

/-- The registers of D for `n` bytes. -/
def loadDests (o : Opnd) (n : Nat) : List Nat := ((loadRecvs o n false).map (fun r => r.reg))

/-- Operand words of a memory form for the log: A, B, C, and the `k` registers from D on that it reads (R319). -/
def memSlots (g : Group) (self : Half) (f : MemForm) (k : Nat) : List (Option (List Word)) :=
  [slotWords g self f.a, slotWords g self f.b, slotWords g self f.c] ++
    (List.range 4).map (fun j => if j < k then slotWords g self (tupleAt f.d j) else none)

/-- Registers that `n` bytes of D stand in (R236). -/
def regsOf (n : Nat) : Nat := max 1 (n / 8)

/-- The thread a uniform access belongs to: the lowest live one of the split, else its lowest (R240). -/
def eventThread (g : Group) (self : Half) : Nat :=
  let live := self &&& g.live
  lowBit 32 (if live = 0 then self.toNat else live.toNat)

/-- The region is deterministic. -/
def State.det (s : State) (team : Nat) : Bool := (s.launchOf team).region.det

/-- The fixed parts of a memory form's request. -/
def baseReq (f : MemForm) (op : MemOp) : MemReq :=
  { op := op, space := f.space, align := 2 ^ f.size.val, cache := f.cache.toNat, order := f.order, scope := f.fs.toNat, la := f.la.toNat }

/-! ### Loads and stores (R236, R240) -/

/-- A load of SIZE bytes per active thread, or once (R236, R240). -/
def loadBody (f : MemForm) (uniform : Bool) (order : Order) (scope : Nat) (range : Option (Nat × Nat)) (desc : Option Word) (det : Bool)
    (l : Latch) (s1 : State) : Res :=
  let g := s1.groupAt l.ref
  let self := l.self s1
  let act := g.active self f.mask
  let n := 2 ^ f.size.val
  let ts := if uniform then [eventThread g self] else threadsOf act
  let accs := ts.map (fun t =>
    let ea := memEa g self f t
    { thr := t, ea := ea, va := spanFrom ea n, recvs := loadRecvs f.d n f.sx : Acc })
  memIssue l s1 act none (det && s1.det l.ref.team) none desc (memSlots g self f 0)
    { baseReq f .load with order := order, scope := scope, range := range, accs := accs, dests := loadDests f.d n, uniform := uniform, party := if uniform then self else 0 }

/-- A store of SIZE bytes per active live thread, or once (R18, R236, R240). -/
def storeBody (f : MemForm) (uniform : Bool) (order : Order) (scope : Nat) (range : Option (Nat × Nat)) (desc : Option Word) (det : Bool)
    (l : Latch) (s1 : State) : Res :=
  let g := s1.groupAt l.ref
  let self := l.self s1
  let act := g.active self f.mask &&& g.live
  let n := 2 ^ f.size.val
  let ts := if uniform then (if self &&& g.live = 0 then [] else [eventThread g self]) else threadsOf act
  let accs := ts.map (fun t =>
    let ea := memEa g self f t
    { thr := t, ea := ea, va := spanFrom ea n, val := storeVal g self f.d t n : Acc })
  memIssue l s1 act none (det && s1.det l.ref.team) none desc (memSlots g self f (regsOf n))
    { baseReq f .store with order := order, scope := scope, range := range, accs := accs, party := if uniform then self else 0 }

/-- LD (R236). -/
def execLd (f : MemForm) (s : State) : Outcome State Fault Refusal :=
  issue "LD" s (loadBody f false f.order f.fs.toNat none none (f.order = .acquire))
/-- ST (R236). -/
def execSt (f : MemForm) (s : State) : Outcome State Fault Refusal :=
  issue "ST" s (storeBody f false f.order f.fs.toNat none none (f.order = .release))
/-- LDU, once on the uniform unit (R240). -/
def execLdu (f : MemForm) (s : State) : Outcome State Fault Refusal :=
  issue "LDU" s (loadBody f true f.order f.fs.toNat none none (f.order = .acquire))
/-- STU, once on the uniform unit (R240). -/
def execStu (f : MemForm) (s : State) : Outcome State Fault Refusal :=
  issue "STU" s (storeBody f true f.order f.fs.toNat none none (f.order = .release))

/-- The range descriptor of LDACQ and STREL (R243). -/
def rangeWord (g : Group) (self : Half) (f : MemForm) : Option Word :=
  match f.c with
  | .g _ => some (g.readOpnd self f.c 0)
  | _ => none

/-- First address and log2 size of a descriptor. -/
def rangeOf (c : Option Word) : Option (Nat × Nat) := c.map (fun w => (fld w 56 7 * 128, fld w 5 0))

/-- LDACQ (R243). -/
def execLdacq (f : MemForm) (s : State) : Outcome State Fault Refusal :=
  issue "LDACQ" s (fun l s1 =>
    if uniformBad f.d [f.a, f.b] then .trap trapUniform
    else
      let c := rangeWord (s1.groupAt l.ref) (l.self s1) f
      loadBody f (isUni f.d) .acquire f.fs.toNat (rangeOf c) c true l s1)
/-- STREL (R243). -/
def execStrel (f : MemForm) (s : State) : Outcome State Fault Refusal :=
  issue "STREL" s (fun l s1 =>
    let c := rangeWord (s1.groupAt l.ref) (l.self s1) f
    storeBody f false .release f.fs.toNat (rangeOf c) c true l s1)

/-! ### Packed runs, vectors and block records (R237 to R239) -/

/-- A piece of a bit run: its first stream bit, its length, and the register bits it matches. -/
structure Piece where
  bit : Nat
  len : Nat
  reg : Nat
  dst : Nat
  deriving DecidableEq, Repr

/-- The bytes that pieces touch, ascending. -/
def pieceBytes (ps : List Piece) : List Nat :=
  ascending (ps.flatMap (fun p => (List.range ((p.bit + p.len - 1) / 8 - p.bit / 8 + 1)).map (fun i => p.bit / 8 + i)))

/-- The place of a piece within the bytes touched. -/
def pieceLo (bytes : List Nat) (p : Piece) : Nat := 8 * bytes.idxOf (p.bit / 8) + p.bit % 8

/-- A thread's load of pieces. -/
def loadPieces (t : Nat) (ea : Word) (ps : List Piece) : Acc :=
  let bytes := pieceBytes ps
  { thr := t, ea := ea, va := bytes, recvs := ps.map (fun p => { reg := p.reg, lo := pieceLo bytes p, len := p.len, dst := p.dst }) }

/-- A thread's store of pieces from register words. -/
def storePieces (t : Nat) (ea : Word) (ps : List Piece) (word : Nat → Word) : Acc :=
  let bytes := pieceBytes ps
  { thr := t, ea := ea, va := bytes
    val := ps.foldl (fun acc p => acc + (((word p.reg).toNat >>> p.dst) % 2 ^ p.len) * 2 ^ pieceLo bytes p) 0
    cmp := ps.foldl (fun acc p => acc + (2 ^ p.len - 1) * 2 ^ pieceLo bytes p) 0 }

/-- The elements of thread `t` in a packed run (R237). -/
def packedPieces (start w t reg : Nat) : List Piece := [⟨start + t * (lanesOf w * w), lanesOf w * w, reg, 0⟩]

/-- LDP (R237). -/
def execLdp (f : MemForm) (s : State) : Outcome State Fault Refusal :=
  issue "LDP" s (fun l s1 =>
    let g := s1.groupAt l.ref
    let self := l.self s1
    let act := g.active self f.mask
    let w := fmtWidth (g.readF f.fs.toNat)
    let start := packedStart g self f
    let reg := (destField f.d).getD 0
    let accs := (threadsOf act).map (fun t => let ps := packedPieces start w t reg; loadPieces t (wd ((start + t * (lanesOf w * w)) / 8)) ps)
    memIssue l s1 act none false none none (memSlots g self f 0)
      { baseReq f .load with align := 1, accs := accs, dests := [reg] })

/-- STP (R237). -/
def execStp (f : MemForm) (s : State) : Outcome State Fault Refusal :=
  issue "STP" s (fun l s1 =>
    let g := s1.groupAt l.ref
    let self := l.self s1
    let act := g.active self f.mask &&& g.live
    let w := fmtWidth (g.readF f.fs.toNat)
    let start := packedStart g self f
    let accs := (threadsOf act).map (fun t => storePieces t (wd ((start + t * (lanesOf w * w)) / 8)) (packedPieces start w t 0) (fun _ => g.readOpnd self f.d t))
    memIssue l s1 act none false none none (memSlots g self f 1)
      { baseReq f (.atomic .bits) with align := 1, accs := accs })

/-- The bytes of thread `t` in a block of `r` registers (R238). -/
def vecBytes (ea : Word) (r t : Nat) : List Nat :=
  (List.range r).flatMap (fun j => (List.range 8).map (fun i => ea.toNat + 256 * j + 8 * t + i))

/-- LDV (R238). -/
def execLdv (f : MemForm) (s : State) : Outcome State Fault Refusal :=
  issue "LDV" s (fun l s1 =>
    let g := s1.groupAt l.ref
    let self := l.self s1
    let act := g.active self f.mask
    let n := 2 ^ f.size.val
    let accs := (threadsOf act).map (fun t =>
      let ea := memEa g self f t
      { thr := t, ea := ea, va := vecBytes ea (n / 8) t, recvs := loadRecvs f.d n false : Acc })
    memIssue l s1 act none false none none (memSlots g self f 0) { baseReq f .load with accs := accs, dests := loadDests f.d n })

/-- STV (R238). -/
def execStv (f : MemForm) (s : State) : Outcome State Fault Refusal :=
  issue "STV" s (fun l s1 =>
    let g := s1.groupAt l.ref
    let self := l.self s1
    let act := g.active self f.mask &&& g.live
    let n := 2 ^ f.size.val
    let accs := (threadsOf act).map (fun t =>
      let ea := memEa g self f t
      { thr := t, ea := ea, va := vecBytes ea (n / 8) t, val := storeVal g self f.d t n : Acc })
    memIssue l s1 act none false none none (memSlots g self f (regsOf n)) { baseReq f .store with accs := accs })

/-- The pieces of thread `t` in a run of block records (R50, R239): elements in register 0, scale bytes in register 1. -/
def blockPieces (base w t : Nat) : List Piece :=
  let k := lanesOf w
  let size := 1 + 4 * w
  (List.range k).map (fun i =>
    let e := t * k + i
    ⟨8 * (base + e / 32 * size + 1) + e % 32 * w, w, 0, i * w⟩) ++
  ((List.range 8).filter (fun m => decide (8 * t + m < k))).map (fun m => ⟨8 * (base + (8 * t + m) * size), 8, 1, 8 * m⟩)

/-- A slot that LDBK or STBK names must have BLK = 1 (R239). -/
def blockFmt (g : Group) (f : MemForm) : Option TrapReq :=
  if (g.fmt f.fs.toNat).blk = 1 then none else some (trapFmt 3)

/-- The run must be one for all active threads, and within its space (R239). -/
def blockProt (s : State) (team : Nat) (g : Group) (f : MemForm) (ea : Nat → Word) (ts : List Nat) (write : Bool) : Option TrapReq :=
  let low := ea (ts.headD 0)
  match ts.filter (fun t => ea t != low) with
  | x :: rest => some (accTrap 0x08 6 write ((x :: rest).map (fun t => { thr := t, ea := ea t : Acc })))
  | [] =>
    let w := fmtWidth (g.readF f.fs.toNat)
    let run : Acc := { thr := 0, ea := low, va := spanFrom low (lanesOf w * (1 + 4 * w)) }
    match s.boundsCause team g.core f.space run with
    | some c => if ts.isEmpty then none else some (accTrap 0x08 c write (ts.map (fun t => { thr := t, ea := ea t : Acc })))
    | none => none

/-- LDBK (R239). -/
def execLdbk (f : MemForm) (s : State) : Outcome State Fault Refusal :=
  issue "LDBK" s (fun l s1 =>
    let g := s1.groupAt l.ref
    let self := l.self s1
    let act := g.active self f.mask
    let ts := threadsOf act
    let reg := (destField f.d).getD 0
    let accs := ts.map (fun t =>
      let ea := memEa g self f t
      loadPieces t ea ((blockPieces ea.toNat (fmtWidth (g.readF f.fs.toNat)) t).map (fun p => { p with reg := reg + p.reg })))
    memIssue l s1 act (blockFmt g f) false (blockProt s1 l.ref.team g f (memEa g self f) ts false) none (memSlots g self f 0)
      { baseReq f .load with align := 1, accs := accs, dests := [reg, reg + 1] })

/-- STBK (R239). -/
def execStbk (f : MemForm) (s : State) : Outcome State Fault Refusal :=
  issue "STBK" s (fun l s1 =>
    let g := s1.groupAt l.ref
    let self := l.self s1
    let act := g.active self f.mask &&& g.live
    let ts := threadsOf act
    let accs := ts.map (fun t =>
      let ea := memEa g self f t
      storePieces t ea (blockPieces ea.toNat (fmtWidth (g.readF f.fs.toNat)) t) (fun r => g.readOpnd self (tupleAt f.d r) t))
    memIssue l s1 act (blockFmt g f) false (blockProt s1 l.ref.team g f (memEa g self f) ts true) none (memSlots g self f 2)
      { baseReq f (.atomic .bits) with align := 1, accs := accs })

/-! ### PRF and CMNT (R241, R242) -/

/-- The leaves and addresses that the active threads of PRF or CMNT reach, one that no translation reaches left out. -/
def hintCells (s : State) (l : Latch) (g : Group) (self : Half) (f : MemForm) (ts : List Nat) : List (Leaf × Nat) :=
  let x := s.xctx l.ref.team g.core
  ts.filterMap (fun t =>
    let a : Acc := { thr := t, ea := memEa g self f t, va := [(memEa g self f t).toNat] }
    let va := (s.mapped l.ref.team g f.space a).headD 0
    if (s.boundsCause l.ref.team g.core f.space a).isSome then none
    else
      match s.xlate x.core x.die x.djid x.root x.pager (va / 65536 * 65536) .read with
      | .ok leaf => some (leaf, va)
      | _ => none)

/-- A load of SIZE bytes by thread `t` at its address would trap ALIGN, PROT or RANGELOCK (R241). -/
def prefetchFaults (s : State) (l : Latch) (g : Group) (self : Half) (f : MemForm) (t : Nat) : Bool :=
  let a : Acc := { thr := t, ea := memEa g self f t, va := spanFrom (memEa g self f t) (2 ^ f.size.val) }
  (s.addressTrap l.ref.team g.core { baseReq f .load with accs := [a] } none).isSome ||
    (s.lockTrap g.core (s.launchOf l.ref.team).region.djid false [(a, s.mapped l.ref.team g f.space a)]).isSome

/-- Fill the L1 line of each address reached, where its page is cached in this L1. -/
def prefetch (s : State) (core : Nat) (priv : Option (Nat × Nat)) (xs : List (Leaf × Nat)) : State :=
  match xs with
  | [] => s
  | (leaf, va) :: rest =>
    prefetch (if leaf.place < 2 && (leaf.home = 0 || leaf.home = 2) then
        s.fillLine core ((physKey leaf.place (leaf.pa + (va - leaf.base))).getD 0) va priv
      else s) core priv rest

/-- PRF: performed with CACHE 0 as a line fill of the addresses that would not fault; with CACHE 2 only the L2 would hold it, which nothing can tell (R241, log 5). -/
def execPrf (f : MemForm) (s : State) : Outcome State Fault Refusal :=
  issue "PRF" s (fun l s1 =>
    let g := s1.groupAt l.ref
    let self := l.self s1
    if f.cache = 0 then .done (prefetch s1 g.core (if f.space = .priv then some (l.ref.team, l.ref.grp) else none) (hintCells s1 l g self f ((threadsOf (g.active self f.mask)).filter (fun t => !prefetchFaults s1 l g self f t))))
    else .done s1)

/-- CMNT: maintenance of the issuing core's L1; it waits for no store (R242). -/
def execCmnt (f : MemForm) (s : State) : Outcome State Fault Refusal :=
  issue "CMNT" s (fun l s1 =>
    let g := s1.groupAt l.ref
    let self := l.self s1
    if g.openTx.isSome then doneGroup l s1 (g.abortTx 7 0)
    else
      let lines := ((hintCells s1 l g self f (threadsOf (g.active self f.mask))).filter (fun x => decide (x.1.place < 2))).map (fun x =>
        ((physKey x.1.place (x.1.pa + (x.2 - x.1.base))).getD 0) / 128)
      let mine := fun (k : Nat) (_ : L1Byte) => lines.contains (k / 128)
      if f.fs.toNat % 3 != 1 && s1.writeBackHeld g.core (fun k b => decide (3 ≤ f.fs.toNat) || mine k b) then .hold s1
      else
      .done (match f.fs.toNat with
        | 0 => s1.writeBack g.core mine
        | 1 => s1.invalidate g.core mine
        | 2 => (s1.writeBack g.core mine).invalidate g.core mine
        | 3 => s1.writeBack g.core (fun _ _ => true)
        | 4 => s1.invalidate g.core (fun _ b => b.priv.isNone)
        | _ => (s1.writeBack g.core (fun _ _ => true)).invalidate g.core (fun _ b => b.priv.isNone)))

/-! ### Atomics (R245 to R248) -/

/-- OPC of an atomic: MOD[6], MOD[5], MOD[1] (R233). -/
def atomOpc (f : MemForm) : Nat := f.cache.toNat * 2 + natOfBool f.sx

/-- An atomic of 4 or 8 bytes per active live thread, or once (R240, R245, R248). -/
def atomBody (f : MemForm) (op : AtomOp) (fmt : Option TrapReq) (det : Bool) (signed : Bool) (l : Latch) (s1 : State) : Res :=
  let g := s1.groupAt l.ref
  let self := l.self s1
  let uniform := isUni f.d
  let act := g.active self f.mask &&& g.live
  let n := 2 ^ f.size.val
  let ts := if uniform then (if self &&& g.live = 0 then [] else [eventThread g self]) else threadsOf act
  let accs := ts.map (fun t =>
    let ea := memEa g self f t
    { thr := t, ea := ea, va := spanFrom ea n, val := (g.readOpnd self f.c t).toNat % 2 ^ (8 * n)
      cmp := (g.readOpnd self f.d t).toNat % 2 ^ (8 * n)
      recvs := loadRecvs f.d n (signed && n = 4) : Acc })
  if uniformBad f.d [f.a, f.b, f.c] then .trap trapUniform
  else
    memIssue l s1 (if uniform then (if ts.isEmpty then 0 else self) else act) fmt (det && s1.det l.ref.team) none none (memSlots g self f (if op = .cas then 1 else 0))
      { baseReq f (.atomic op) with cache := 0, accs := accs, dests := loadDests f.d n, uniform := uniform, party := if uniform then self else 0 }

/-- ATOM (R245). -/
def execAtom (f : MemForm) (s : State) : Outcome State Fault Refusal :=
  issue "ATOM" s (atomBody f (.int (atomOpc f)) none (f.d != .vz) (atomOpc f = 4 || atomOpc f = 5))
/-- ACAS (R246). -/
def execAcas (f : MemForm) (s : State) : Outcome State Fault Refusal :=
  issue "ACAS" s (atomBody f .cas none true false)
/-- FATOM: a slot of the float kind, with RND ≠ 5 and BLK = 0 (R247). -/
def execFatom (f : MemForm) (s : State) : Outcome State Fault Refusal :=
  issue "FATOM" s (fun l s1 =>
    let d := (s1.groupAt l.ref).readF f.fs.toNat
    let F := fmtOf d
    atomBody f (.flt (atomOpc f) d) (if F.kind = 0 ∧ F.rnd ≠ 5 ∧ F.blk = 0 then none else some (trapFmt 5)) true false l s1)

end Sys2Proof.Machine
end

