-- ==== Sys2Proof/Machine/Packets.lean ====
section
/-! DEFINITION. Packets at their source and their answers at the destination: sending, the window of handled requests, what is still unanswered (R464, R472, R473, R477, R479). -/

namespace Sys2Proof.Machine

/-! ### Sending (R464, R472) -/

/-- The RTAG of a group's requests: die, cluster, core, residency number and slot (R464). -/
def rtagOf (g : Group) (slot : Nat) : Nat :=
  (dieOf g.core % 8) * 2 ^ 25 + (clusterOf g.core % 64) * 2 ^ 19 + (g.core % 8) * 2 ^ 16 + (g.resid % 32) * 2 ^ 11 + slot % 2 ^ 11

/-- Send a request: it takes the next ESEQ of its destination and class, and waits to be routed (R464, R472). -/
def State.sendRequest (s : State) (r : RemoteReq) : State :=
  let k := r.pkt.dest * 2
  let n := AMap.get s.fab.eseq k 0
  let pkt := { r.pkt with eseq := n }
  { s with fab := { s.fab with
      eseq := AMap.set s.fab.eseq k ((n + 1) % 2 ^ 32) 0, reqs := s.fab.reqs ++ [{ r with pkt := pkt }], net := s.fab.net ++ [{ pkt := pkt, hop := 0 }] } }

/-- Requests to a destination that are unanswered (R472). -/
def State.unanswered (s : State) (dest : Nat) : Nat := (s.fab.reqs.filter (fun r => r.pkt.dest = dest)).length

/-- Two requests of one instruction that write touch one byte of one peer (R471). -/
def RemoteReq.overlaps (a b : RemoteReq) : Bool :=
  (a.pkt.op = 0x02 || a.pkt.op = 0x03 || a.pkt.op = 0x04) && a.owner = b.owner && a.pkt.dest = b.pkt.dest &&
    decide (a.pkt.va < b.pkt.va + max b.pkt.len 1) && decide (b.pkt.va < a.pkt.va + max a.pkt.len 1)

/-- Send the waiting requests that can be sent, in order: one follows an earlier one of its instruction to its bytes, and a destination has at most 4,096 unanswered (R471, R472). -/
def State.sendQueued (s : State) (waiting held : List RemoteReq) : State :=
  match waiting with
  | [] => { s with fab := { s.fab with queue := held } }
  | r :: rest =>
    if 4096 ≤ s.unanswered r.pkt.dest || s.fab.reqs.any r.overlaps || held.any r.overlaps then s.sendQueued rest (held ++ [r])
    else (s.sendRequest r).sendQueued rest held

/-- Send what can be sent. -/
def State.pump (s : State) : State := s.sendQueued s.fab.queue []

/-- Send requests in order, as far as their destination has room for them; the others follow its answers (R472). -/
def State.sendAll (s : State) (rs : List RemoteReq) : State := ({ s with fab := { s.fab with queue := s.fab.queue ++ rs } } : State).pump

/-! ### The lines of a transaction (R473) -/

/-- One buffered access on its line: offset, bytes, and 0 for a store or 1 + OPC for an atomic. -/
structure LineRec where
  off : Nat
  bytes : List Byte
  code : Nat := 0
  deriving DecidableEq, Repr

/-- Put bytes over the stores of a run: the run is a map from offset to byte. -/
def layBytes (m : AMap Byte) (off : Nat) (bs : List Byte) : AMap Byte :=
  bs.zipIdx.foldl (fun acc b => AMap.put acc (off + b.2) b.1) m

/-- The contiguous pieces of a map from offset to byte, each of at most 64 bytes. -/
def runsOf (m : AMap Byte) : List LineRec :=
  (m.foldl (fun (acc : List LineRec) e => match acc with
    | r :: rest => if r.off + r.bytes.length = e.1 && decide (r.bytes.length < 64) then { r with bytes := r.bytes ++ [e.2] } :: rest else { off := e.1, bytes := [e.2] } :: r :: rest
    | [] => [{ off := e.1, bytes := [e.2] }]) []).reverse

/-- The records of a line's accesses in program order: consecutive stores are merged byte by byte. -/
def lineRecs (accs : List TxAcc) (m : AMap Byte) : List LineRec :=
  match accs with
  | [] => runsOf m
  | x :: rest =>
    let off := ((x.remote.map (fun p => p.2)).getD 0) % 128
    let bs := leBytes (max x.acc.va.length 1) x.acc.val
    match x.op with
    | .atomic (.int o) => runsOf m ++ { off := off, bytes := bs, code := 1 + o } :: lineRecs rest []
    | _ => lineRecs rest (layBytes m off bs)

/-- The bytes of a record: offset, length, code, and the data. -/
def LineRec.data (r : LineRec) : List Byte := [BitVec.ofNat 8 r.off, BitVec.ofNat 8 r.bytes.length, BitVec.ofNat 8 r.code] ++ r.bytes

/-- The records that a TXLINE's data holds. -/
def readRecs (fuel : Nat) (bs : List Byte) : List LineRec :=
  match fuel, bs with
  | n + 1, o :: k :: c :: rest => { off := o.toNat, bytes := rest.take k.toNat, code := c.toNat } :: readRecs n (rest.drop k.toNat)
  | _, _ => []

/-- Pack records into payloads of at most 128 bytes, in order: none crosses a block of 256 bytes (R464). -/
def packRecs (rs : List LineRec) (cur : List Byte) : List (List Byte) :=
  match rs with
  | [] => if cur.isEmpty then [] else [cur]
  | r :: rest => if cur.length + r.data.length ≤ 128 then packRecs rest (cur ++ r.data) else cur :: packRecs rest r.data

/-- The packets of a remote commit: a TXLINE for each line, then the TXCOMMIT, whose COUNT is the number of TXLINEs; all of a remote release (R473, R481). A TXLINE names its line, its COUNT is its place among them, and its data holds the line's accesses as records; a line whose records pass 128 bytes takes further TXLINEs (log 23). -/
def txPackets (dest src djid rtag : Nat) (accs : List TxAcc) : List Packet :=
  let base : Packet := ⟨0, djid, dest, src, 0, 0, 0x09, false, true, false, false, rtag, false, 0, 0, 0, 0, 0, []⟩
  let lineOf := fun (x : TxAcc) => ((x.remote.map (fun p => p.2)).getD 0) / 128
  let lines := ((accs.map lineOf).eraseDups).flatMap (fun l =>
    (packRecs (lineRecs (accs.filter (fun x => lineOf x = l)) []) []).map (fun d => { base with va := 128 * l, len := d.length, data := d }))
  lines.zipIdx.map (fun y => { y.1 with count := y.2 }) ++ [{ base with va := (lines.head?.map (fun p => p.va)).getD 0, op := 0x0A, count := lines.length }]

/-! ### What is unanswered (R472, R481, R483) -/

/-- A request is of a group. -/
def State.ofGroup (s : State) (team grp : Nat) (r : RemoteReq) : Bool :=
  match r.owner with
  | .thread t g _ _ => t = team && g = grp
  | .tx t g => t = team && g = grp
  | .engine c tag => (s.cluster c).ops.any (fun o => o.tag = tag && o.team = team && o.grp = grp)
  | .drain core id => (s.core core).order.any (fun o => o.id = id && !o.copy && o.team = team && o.grp = grp)
  | .reduce _ _ _ => false

/-- Requests of this package issued and not answered: those sent, and those that still wait at the endpoint. -/
def State.outstanding (s : State) : List RemoteReq := s.fab.reqs ++ s.fab.queue

/-- The operation is an RGET or RPUT with requests still to send (R475). -/
def EngineOp.owes (o : EngineOp) : Bool := (o.kind = .rget || o.kind = .rput) && (!o.started || !o.unsent.isEmpty)

/-- An operation of a group, of those that satisfy `p`, has remote requests still to send. -/
def State.owed (s : State) (team grp : Nat) (p : EngineOp → Bool) : Bool :=
  s.clusters.any (fun c => c.2.ops.any (fun o => o.team = team && o.grp = grp && o.owes && p o))

/-- The group has an MDRAIN `.peer` that is not complete (R307, R483). -/
def State.drainOwed (s : State) (team grp : Nat) : Bool :=
  s.cores.any (fun c => c.2.order.any (fun o => o.kind = .mdrain && o.mod / 8 % 4 = 2 && !o.copy && o.team = team && o.grp = grp))

/-- The group has an unanswered remote request, sent or still to be sent (R483). -/
def State.remotePending (s : State) (team grp : Nat) : Bool :=
  s.outstanding.any (s.ofGroup team grp) || s.owed team grp (fun _ => true) || s.drainOwed team grp

/-- The operation has still to send a request to a 256-byte block of a peer. -/
def EngineOp.owesBlock (o : EngineOp) (dest block : Nat) : Bool :=
  o.peer = dest && (if o.started then o.unsent.any (fun u => u.1.va / 256 = block) else decide (o.raddr / 256 ≤ block) && decide (block * 256 < o.raddr + o.count))

/-- An earlier remote access of the group to the same 256-byte block of a peer is unanswered (R472); `seq` is the registration of an operation, before which others are earlier. Requests whose VA is no address of the peer, or that a commit sends, are left out. -/
def State.blockBusy (s : State) (team grp dest block : Nat) (seq : Option Nat) : Bool :=
  s.outstanding.any (fun r => s.ofGroup team grp r && r.pkt.dest = dest && r.pkt.va / 256 = block && (decide (r.pkt.op < 0x05) || r.pkt.op = 0x06 || r.pkt.op = 0x07 || r.pkt.op = 0x09)) ||
    s.owed team grp (fun o => (match seq with | some n => decide (o.seq < n) | none => true) && o.owesBlock dest block)

/-- A request is a thread's, and its parts name one of some threads. -/
def RemoteReq.ofThreads (r : RemoteReq) (ts : List Nat) : Bool := r.parts.any (fun p => ts.contains p.1)

/-- An unanswered remote acquire of one of some threads holds their next remote request (R482). -/
def State.acquirePending (s : State) (team grp : Nat) (ts : List Nat) : Bool :=
  (s.fab.reqs ++ s.fab.queue).any (fun r => r.pkt.acq && s.ofGroup team grp r && r.ofThreads ts)

/-- A remote load or atomic of one of some threads is unanswered: a fence that acquires comes after it (R224, R250). -/
def State.readPending (s : State) (team grp : Nat) (ts : List Nat) : Bool :=
  (s.fab.reqs ++ s.fab.queue).any (fun r => (r.pkt.op = 0x01 || r.pkt.op = 0x03 || r.pkt.op = 0x04) && s.ofGroup team grp r && r.ofThreads ts)

/-- What a remote release to a peer waits for: the group's RSTs, RATOMs without reply, PUTWRITEs and RSIGs to it, and the threads' own RLDs, RATOMs and RCASs (R481). -/
def State.releasePending (s : State) (team grp peer : Nat) (ts : List Nat) : Bool :=
  s.outstanding.any (fun r => s.ofGroup team grp r && r.pkt.dest = peer &&
    (r.pkt.op = 0x02 || r.pkt.op = 0x05 || r.pkt.op = 0x07 || (r.pkt.op = 0x03 && r.reg.isNone) ||
     ((r.pkt.op = 0x01 || r.pkt.op = 0x03 || r.pkt.op = 0x04) && r.ofThreads ts))) ||
    s.owed team grp (fun o => o.kind = .rput && o.peer = peer)

/-! ### Answering (R477, R479) -/

/-- The response to a request: its status, and its data if it has any (R464). -/
def responseTo (p : Packet) (status : Nat) (data : List Byte) : Packet :=
  { p with dest := p.src, src := p.dest, resp := true, rel := false, acq := false, sub := status, count := 0, len := data.length, data := data }

/-- A packet of this package waits to be routed. -/
def State.emit (s : State) (p : Packet) : State :=
  { s with fab := { s.fab with net := s.fab.net ++ [{ pkt := p, hop := 0 }] } }

/-- The entry is that of a request. -/
def Handled.isOf (h : Handled) (p : Packet) : Bool := h.src = p.src && h.eseq = p.eseq

/-- Send an answer to each of a list of copies, under the copy's own RESENT bit (R464, R479). -/
def State.emitAll (s : State) (r : Packet) (copies : List Packet) : State :=
  copies.foldl (fun (acc : State) c => acc.emit { r with resent := c.resent }) s

/-- Answer a request: its first copy, and every copy held for the answer (R479). -/
def State.answerRequest (s : State) (p r : Packet) : State :=
  let held := ((s.fab.handled.find? (fun h => h.isOf p)).map (fun h => h.copies)).getD []
  let s1 := { s with fab := { s.fab with handled := s.fab.handled.map (fun (h : Handled) =>
    if h.isOf p then { h with answer := some r, copies := [], parked := false } else h) } }
  s1.emitAll r (p :: held)

/-- Remember at most 4,096 handled requests of a source, the oldest first (R479). -/
def trimHandled (src : Nat) (hs : List Handled) : List Handled :=
  if 4096 < (hs.filter (fun h => h.src = src)).length then
    match hs.findIdx? (fun h => h.src = src) with
    | some i => hs.eraseIdx i
    | none => hs
  else hs

/-- Take a request that is not performed again when it is repeated: `none` when it is a copy, which is answered at once or held (R479). A request that waits for no pager is taken again after its page came. -/
def State.takeRequest (s : State) (p : Packet) : State × Bool :=
  match s.fab.handled.find? (fun h => h.isOf p) with
  | some h =>
    match h.answer with
    | some r => (s.emit { r with resent := p.resent }, false)
    | none =>
      if h.parked || p.op = 0x08 || p.op = 0x0B then
        ({ s with fab := { s.fab with handled := s.fab.handled.map (fun (x : Handled) => if x.isOf p then { x with copies := x.copies ++ [p] } else x) } }, false)
      else (s, true)
  | none =>
    ({ s with fab := { s.fab with handled := trimHandled p.src (s.fab.handled ++ [{ src := p.src, cls := 0, eseq := p.eseq }]) } }, true)

end Sys2Proof.Machine
end

