-- ==== Sys2Proof/Machine/Links.lean ====
section
/-! DEFINITION. The fabric links: ports, their lock states and sessions, route tables, flits, and the routing of packets (R491 to R511). -/

namespace Sys2Proof.Machine

open Host

/-! ### Ports (R493, R506, R507, R511) -/

/-- Port `p`. -/
def State.port (s : State) (p : Nat) : Port := (AMap.find s.fab.ports p).getD {}
/-- Replace a port. -/
def State.setPort (s : State) (p : Nat) (x : Port) : State := { s with fab := { s.fab with ports := AMap.put s.fab.ports p x } }

/-- Set FEVT bit `p`; a bit that becomes 1 raises FVEC (R511). -/
def State.portEvent (s : State) (p : Nat) : State :=
  if bitAt s.fab.fevt p then s
  else ({ s with fab := { s.fab with fevt := s.fab.fevt ||| 2 ^ p } } : State).raiseMsix s.fab.fvec

/-- A port sends a control message (R500). -/
def Port.say (x : Port) (kind arg : Nat) : Port := { x with control := some (kind, arg), sent := x.sent + natOfBool x.session }

/-- A port asks for the flits from the expected sequence on, at most once per microsecond for one expected value (R501). -/
def Port.askReplay (x : Port) (now : Nat) : Port :=
  match x.asked with
  | some (n, t) => if n = x.expected && decide (now < t + 1000) then x else { x.say 2 x.expected with asked := some (x.expected, now) }
  | none => { x.say 2 x.expected with asked := some (x.expected, now) }

/-- A port takes a lock state and says so; a port in CONFIG_UNLOCKED or ERROR holds no PEERRUN (R507). -/
def Port.enter (x : Port) (l : Nat) : Port :=
  let y := { x with lstate := l, peerRun := x.peerRun && l != 0 && l != 3 }
  if x.lstate = l then y else y.say 6 l

/-- A port in ERROR is quarantined: what it retained is discarded, and it says nothing more (R506, R508). -/
def State.portError (s : State) (p : Nat) : State :=
  let x := { (s.port p).enter 3 with retained := [], waiting := [], owed := [], rx := [], broken := [], stopping := false, retraining := false, resuming := false }
  (s.setPort p x).portEvent p

/-- A port goes down: the session ends and the retained flits are discarded; ERROR is kept (R503). -/
def State.portFall (s : State) (p : Nat) : State :=
  let x := s.port p
  let y := { x with width := 0, session := false, retained := [], waiting := [], owed := [], rx := [], broken := [], retraining := false, resuming := false, stopping := false, peerRun := false }
  (s.setPort p (if x.lstate = 3 then y else y.enter 0)).portEvent p

/-- Lanes of a set that may be used: permitted, and not failed. -/
def lanesIn (good : BitVec 16) (lo n : Nat) : Bool := (List.range n).all (fun i => good.getLsbD (lo + i))

/-- WIDTH and PART of every usable width, the preferred first (R502). -/
def widthsOf (good : BitVec 16) : List (Nat × Nat) :=
  ([(3, 0, 0, 16), (2, 0, 0, 8), (2, 1, 8, 8)] ++ (List.range 4).map (fun i => (1, i, 4 * i, 4))).filterMap (fun (c : Nat × Nat × Nat × Nat) => if lanesIn good c.2.2.1 c.2.2.2 then some (c.1, c.2.1) else none)

/-- WIDTH and PART of the widest usable width (R502). -/
def widthOf (good : BitVec 16) : Option (Nat × Nat) := (widthsOf good).head?

/-- Lanes that are good and permitted. -/
def Port.goodLanes (x : Port) : BitVec 16 := ~~~x.laneFail &&& x.laneMask

/-- The width that a retrain takes: it never rises (R502). -/
def Port.retrainWidth (x : Port) : Option (Nat × Nat) := (widthsOf x.goodLanes).find? (fun w => decide (w.1 ≤ x.width))

/-- Healthy banks of the receive buffer (R498). -/
def Port.healthy (x : Port) : Nat := ((List.range 16).filter (fun i => x.banks.getLsbD i)).length

/-- The bank that holds a stream (R498). -/
def Port.bank (x : Port) (key : Nat) : Nat := AMap.get x.bankOf key key

/-- The streams that a port advertises, up to its highest VC. -/
def Port.streams (top : Nat) : List Nat := (List.range 12).filter (fun k => decide (k % 6 ≤ top))

/-- The lowest healthy bank that holds no advertised stream. -/
def Port.spareBank (x : Port) (top : Nat) : Option Nat :=
  (List.range 16).find? (fun b => x.banks.getLsbD b && !(Port.streams top).any (fun k => x.bank k = b))

/-- The streams bound anew to the healthy banks, in order (R498). -/
def Port.rebind (x : Port) (top : Nat) : Port :=
  { x with bankOf := (Port.streams top).zip ((List.range 16).filter (fun i => x.banks.getLsbD i)) }

/-- The highest VC that a number of healthy banks lets a port advertise (R498). -/
def vcTopOf (healthy : Nat) : Nat := min 5 (healthy / 2 - 1)

/-! ### Sending flits (R497, R501) -/

/-- A port may carry transaction flits (R506). -/
def Port.running (x : Port) : Bool := x.lstate = 2 && x.peerRun && decide (0 < x.width)

/-- The first `n` bytes of a stream, and the rest. -/
def takeBytes (n : Nat) (cs : List Chunk) : List Byte × List Chunk :=
  match cs with
  | [] => ([], [])
  | c :: rest =>
    if n < c.bytes.length then (c.bytes.take n, { c with bytes := c.bytes.drop n } :: rest)
    else (c.bytes ++ (takeBytes (n - c.bytes.length) rest).1, (takeBytes (n - c.bytes.length) rest).2)

/-- Bytes that wait in a stream. -/
def streamLen (cs : List Chunk) : Nat := (cs.map (fun c => c.bytes.length)).sum

/-- The stream whose flit a port begins next: the peer has not stopped its class and VC, and it fills a flit, or no more is to come (R496, R497, R500). -/
def Port.nextStream (x : Port) (flush : Bool) : Option Nat :=
  (List.range 12).find? (fun k => !x.stopBits.getLsbD k &&
    (decide (232 ≤ streamLen (AMap.get x.waiting k [])) || (flush && decide (0 < streamLen (AMap.get x.waiting k [])))))

/-- The payload of a stream's next flit: its next 232 bytes, with fill in units of 32 bytes after the last; and the stream then (R500; log 29). -/
def Port.takeFlit (x : Port) (k : Nat) : List Byte × Port :=
  let r := takeBytes 232 (AMap.get x.waiting k [])
  let n := 232 - r.1.length
  (r.1 ++ List.replicate n 0, { x with waiting := AMap.set x.waiting k r.2 [], owed := AMap.set x.owed k ((32 - n % 32) % 32) 0 })

/-- Send flits while the replay buffer has room: one stopped class and VC holds up no other (R496, R497, R501). -/
def Port.sendFlits (x : Port) (flush : Bool) (fuel : Nat) : Port :=
  match fuel with
  | 0 => x
  | n + 1 =>
    if !x.running || x.retraining || x.resuming || decide (1024 ≤ x.retained.length) then x
    else
      match x.nextStream flush with
      | none => x
      | some k =>
        let r := x.takeFlit k
        let f : Flit := ⟨x.ownStop, x.kph, false, decide (6 ≤ k), k % 6, (x.expected + 4095) % 4096, x.txSeq, r.1⟩
        ({ r.2 with retained := x.retained ++ [f], txSeq := (x.txSeq + 1) % 4096, sent := x.sent + 1 } : Port).sendFlits flush n

/-- Send what a port can send: full flits, and the last one of a stream where nothing more is to come. -/
def Port.send (x : Port) (flush : Bool) : Port := x.sendFlits flush ((x.waiting.map (fun w => streamLen w.2 / 232 + 1)).sum)

/-- Bytes enter a stream, after the fill that it owes. -/
def Port.append (x : Port) (k : Nat) (c : Chunk) : Port :=
  { x with waiting := AMap.put x.waiting k (AMap.get x.waiting k [] ++ (if AMap.get x.owed k 0 = 0 then [] else [{ bytes := List.replicate (AMap.get x.owed k 0) 0 }]) ++ [c]), owed := AMap.erase x.owed k }

/-- The flits up to a sequence are acknowledged (R501). -/
def Port.acked (x : Port) (ack : Nat) : Port :=
  let n := (x.retained.findIdx? (fun f => f.seq = ack)).map (· + 1)
  match n with
  | some k => { x with retained := x.retained.drop k, ackSeq := ack }
  | none => x

/-- The retained flits from a sequence on are sent again (R501, R502). -/
def Port.resend (x : Port) (seq : Nat) : Port :=
  let k := (x.retained.dropWhile (fun f => f.seq != seq)).length
  { x with replays := (x.replays + k) % 2 ^ 32, sent := x.sent + k }

/-! ### Packets as bytes (R395, R464, R500) -/

/-- The transaction header (R464). -/
def packetHeader (p : Packet) : Nat :=
  (p.count % 2 ^ 20) * 2 ^ 28 + (p.core % 2 ^ 13) * 2 ^ 48 + (p.tile % 4) * 2 ^ 61 + (p.index % 2 ^ 16) * 2 ^ 64 + (p.sub % 8) * 2 ^ 80 +
    natOfBool p.asz * 2 ^ 83 + (p.rtag % 2 ^ 28) * 2 ^ 84 + natOfBool p.resent * 2 ^ 112 + natOfBool p.acq * 2 ^ 113 + natOfBool p.rel * 2 ^ 114 +
    natOfBool p.resp * 2 ^ 115 + (p.op % 64) * 2 ^ 116 + (p.len % 512) * 2 ^ 122 + (p.va % 2 ^ 57) * 2 ^ 131 + (p.src % 1024) * 2 ^ 188 +
    (p.dest % 1024) * 2 ^ 198 + (p.djid % 2 ^ 16) * 2 ^ 208 + (p.eseq % 2 ^ 32) * 2 ^ 224

/-- A packet from its header and data (R464). -/
def packetOf (h : Nat) (data : List Byte) : Packet where
  eseq := bitsOf h 255 224
  djid := bitsOf h 223 208
  dest := bitsOf h 207 198
  src := bitsOf h 197 188
  va := bitsOf h 187 131
  len := bitsOf h 130 122
  op := bitsOf h 121 116
  resp := bitAt h 115
  rel := bitAt h 114
  acq := bitAt h 113
  resent := bitAt h 112
  rtag := bitsOf h 111 84
  asz := bitAt h 83
  sub := bitsOf h 82 80
  index := bitsOf h 79 64
  tile := bitsOf h 62 61
  core := bitsOf h 60 48
  count := bitsOf h 47 28
  data := data

/-- Offset of a payload's first byte in its first sector: sectors are those of memory, but for a reduction (log 29). -/
def packetLead (p : Packet) : Nat := if p.op = 0x0B then 0 else p.va % 32

/-- Bytes of a STORE's mask (log 27). -/
def packetMask (p : Packet) : Nat := if p.op = 0x02 && !p.resp && p.count = 1 then (p.len + 7) / 8 else 0

/-- The packet's LEN counts bytes that it carries: a LOAD or GETREAD request, and a signal, carry none. -/
def packetCarries (p : Packet) : Nat := if !p.resp && (p.op = 0x01 || p.op = 0x06) then 0 else p.len

/-- Sectors of 32 bytes, each with its check code, from bytes from the first sector's start on and the bytes that are meant (R395). -/
def sectorsFrom (n : Nat) (bs : List Byte) (used : Nat → Bool) : List Byte :=
  (List.range n).flatMap (fun i =>
    let sec := (List.range 32).map (fun j => bs.getD (32 * i + j) 0)
    sec ++ leBytes 4 (crc32c (sec ++ leBytes 4 (natOfBits 32 (fun j => used (32 * i + j))))))

/-- A packet as it travels (R464, R500). -/
def packetBytes (p : Packet) : List Byte :=
  let n := (packetCarries p)
  let mask := leNat ((p.data.drop p.len).take (packetMask p))
  let body := List.replicate (packetLead p) (0 : Byte) ++ p.data.take n
  let used := fun i => decide ((packetLead p) ≤ i) && decide (i < (packetLead p) + n) && ((packetMask p) = 0 || bitAt mask (i - (packetLead p)))
  leBytes 32 (packetHeader p) ++ (if n = 0 then [] else sectorsFrom (((packetLead p) + n + 31) / 32) body used) ++
    (if (packetMask p) = 0 then [] else sectorsFrom 1 (p.data.drop p.len) (fun i => decide (i < (packetMask p))))

/-- The bytes of sectors without their check codes. -/
def sectorBytes (n : Nat) (bs : List Byte) : List Byte := (List.range n).flatMap (fun i => (bs.drop (36 * i)).take 32)

/-- Sectors of a packet on a link: those of its bytes, and that of its mask. -/
def packetSectors (p : Packet) : Nat :=
  (if packetCarries p = 0 then 0 else (packetLead p + packetCarries p + 31) / 32) + (if packetMask p = 0 then 0 else 1)

/-- Whole packets at the start of a stream, and the rest. A unit of 32 bytes whose OP is zero is fill (log 29). -/
def takePackets (fuel : Nat) (bs : List Byte) (got : List Packet) : List Packet × List Byte :=
  match fuel with
  | 0 => (got, bs)
  | k + 1 =>
    if bs.length < 32 then (got, bs)
    else
      let p := packetOf (leNat (bs.take 32)) []
      if p.op = 0 then takePackets k (bs.drop 32) got
      else if bs.length < 32 + 36 * packetSectors p then (got, bs)
      else
        let m := if packetMask p = 0 then 0 else 1
        let n := packetSectors p - m
        let body := ((sectorBytes n (bs.drop 32)).drop (packetLead p)).take (packetCarries p)
        let mask := (sectorBytes m (bs.drop (32 + 36 * n))).take (packetMask p)
        takePackets k (bs.drop (32 + 36 * packetSectors p)) (got ++ [{ p with data := body ++ mask }])

/-! ### Receive buffers (R497, R498) -/

/-- Bytes that a receive buffer holds: those of a packet not complete, of packets to be routed, and of packets that no flit carries on yet. -/
def State.bufferHeld (s : State) (p key : Nat) : Nat :=
  let here := fun (b : Option (Nat × Nat)) => b = some (p, key)
  (AMap.get (s.port p).rx key []).length + ((s.fab.net.filter (fun n => here n.buf)).map (fun n => 32 + 36 * packetSectors n.pkt)).sum +
    (s.fab.ports.map (fun x => (x.2.waiting.map (fun w => streamLen (w.2.filter (fun c => here c.buf)))).sum)).sum

/-- STOP of a buffer: set when 8 KiB or less are free, cleared when more than 12 KiB are (R497). -/
def stopFor (held : Nat) (old : Bool) : Bool := decide (16384 ≤ held + 8192) || (old && decide (16384 ≤ held + 12288))

/-- Look at a port's buffers again. -/
def State.restop (s : State) (p : Nat) : State :=
  let x := s.port p
  s.setPort p { x with ownStop := BitVec.ofNat 12 (natOfBits 12 (fun k => stopFor (s.bufferHeld p k) (x.ownStop.getLsbD k))) }

/-- The ports whose buffers the chunks of a port's streams occupy. -/
def Port.fedBy (x : Port) : List Nat := ascending (x.waiting.flatMap (fun w => w.2.filterMap (fun c => c.buf.map (fun b => b.1))))

/-- A port sends what it can: a last flit is filled up only when no packet waits to be routed (log 29). The buffers that it empties are looked at again. -/
def State.sendPort (s : State) (p : Nat) : State :=
  let x := s.port p
  x.fedBy.foldl (fun (acc : State) q => acc.restop q) (s.setPort p (x.send s.fab.net.isEmpty))

/-- Every port sends what it can. -/
def State.sendPorts (s : State) : State := (s.fab.ports.map (fun x => x.1)).foldl (fun (acc : State) p => acc.sendPort p) s

/-- A port has a flit to send once no packet waits to be routed. -/
def Port.owesFlit (x : Port) : Bool :=
  x.running && !x.retraining && !x.resuming && decide (x.retained.length < 1024) && (x.nextStream true).isSome

/-! ### Routing (R494, R495) -/

/-- A route column is used for a packet whose next hop has index `h` (R495). -/
def State.columnUsable (s : State) (h c : Nat) : Bool :=
  let x := s.port (bitsOf c 4 0)
  bitAt c 15 && x.running && !x.stopping && x.peerVc != 7 && decide (h ≤ x.peerVc) && decide (h + bitsOf c 10 8 ≤ 6)

/-- PACKET_ROUTE: the next packet is delivered here, leaves on a port, or is dropped (R491, R495). Its receive buffer is free of it once it is delivered or a flit carries it (R497). With none left the ports fill up their last flits (log 29). -/
def execPacketRoute (s : State) : Outcome State Fault Refusal :=
  match s.fab.net with
  | [] => .next s.sendPorts
  | n :: rest =>
    let s1 := { s with fab := { s.fab with net := rest } }
    let left := fun (t : State) => match n.buf with
      | some b => t.restop b.1
      | none => t
    if n.pkt.dest = s.ctl.self then .next (left { s1 with fab := { s1.fab with inbox := s1.fab.inbox ++ [n.pkt] } })
    else
      let e := AMap.get s.fab.routes n.pkt.dest (0, 0)
      match (if n.pkt.resent then [e.2, e.1] else [e.1, e.2]).find? (s.columnUsable n.hop) with
      | some c =>
        let p := bitsOf c 4 0
        .next ((s1.setPort p ((s1.port p).append (6 * natOfBool n.pkt.resp + n.hop) { bytes := packetBytes n.pkt, buf := n.buf })).sendPort p)
      | none => .next (left { s1 with fab := { s1.fab with drops := min (s1.fab.drops + 1) (2 ^ 32 - 1) } })

/-- A route column of the image as it is taken: 0 where invalid (R494). -/
def columnOf (c : Nat) : Nat :=
  if bitAt c 15 && bitsOf c 14 11 = 0 && bitsOf c 7 5 = 0 && bitsOf c 10 8 != 0 && bitsOf c 10 8 != 7 && decide (bitsOf c 4 0 ≤ 17) then c else 0

/-- A column names a route and breaks the rules (R494). -/
def columnBad (c : Nat) : Bool := bitAt c 15 && columnOf c = 0

/-- A combining tree entry that is to be counted and left out (R510). -/
def treeBad (self e : Nat) : Bool :=
  let n := bitsOf e 33 29
  bitAt e 27 && (bitsOf e 511 224 != 0 || bitAt e 26 || n = 0 || decide (19 < n) ||
    !((List.range n).any (fun i => bitsOf e (43 + 10 * i) (34 + 10 * i) = self)))

/-- RTLOAD: a write of 1 starts a load (R494). -/
def execRtload (s : State) : Outcome State Fault Refusal := .next { s with fab := { s.fab with loading := true } }

/-- ROUTE_TABLE_LOADED: both link dies hold the images of the tables (R494, R510). -/
def execRouteTableLoaded (s : State) : Outcome State Fault Refusal :=
  if !s.fab.loading then .next s
  else
    let entry := fun n => (s.readPhys (s.fab.rtBase.toNat + 4 * n) 4).getD 0
    let es := ((List.range 1024).filter (fun n => n != s.ctl.self)).map (fun n => (n, entry n))
    let ts := (List.range 256).map (fun n => (n, (s.readPhys (s.fab.ctBase.toNat + 64 * n) 64).getD 0))
    let bad := (es.map (fun e => natOfBool (columnBad (bitsOf e.2 15 0)) + natOfBool (columnBad (bitsOf e.2 31 16)))).sum +
      (ts.filter (fun t => treeBad s.ctl.self t.2)).length
    let routes := (es.map (fun e => (e.1, columnOf (bitsOf e.2 15 0), columnOf (bitsOf e.2 31 16)))).filter (fun e => e.2 != (0, 0))
    let trees := ts.filter (fun t => bitAt t.2 27 && !treeBad s.ctl.self t.2)
    .next { s with fab := { s.fab with loading := false, routes := routes, trees := trees, rtErr := bad % 2 ^ 16, rtGen := (s.fab.rtGen + 1) % 2 ^ 32 } }

/-! ### Configuration (R492, R493, R506) -/

/-- FABRIC_CONFIG_WRITE: SELF or RCTBASE; with a locked or running port it is not performed, and those ports go to ERROR (R492). -/
def execFabricConfigWrite (off : Nat) (v : Word) (s : State) : Outcome State Fault Refusal :=
  if off != 0xA40 && off != 0xA50 then .next s
  else
    let locked := (s.fab.ports.filter (fun p => p.2.lstate = 1 || p.2.lstate = 2)).map (fun p => p.1)
    if !locked.isEmpty then .next (locked.foldl (fun (acc : State) p => acc.portError p) s)
    else if off = 0xA40 then .next { s with ctl := { s.ctl with self := v.toNat % 1024 } }
    else .next { s with fab := { s.fab with rctBase := v } }

/-- PCFG_WRITE (R493, R503, R508). -/
def execPcfgWrite (p : Nat) (v : Word) (s : State) : Outcome State Fault Refusal :=
  let x := s.port p
  if 18 ≤ p || x.lstate = 3 then .next s
  else if x.lstate != 0 then .next (s.portError p)
  else
    let on := v.getLsbD 15
    .next (s.setPort p { x with
      laneMask := BitVec.ofNat 16 (fld v 31 16), enable := on, peerPort := fld v 14 10, peerPkg := fld v 9 0
      train := if x.width = 0 then on else x.train })

/-- PCMD LOCK (R506). -/
def execLockPort (p : Nat) (s : State) : Outcome State Fault Refusal :=
  let x := s.port p
  if x.lstate = 0 && x.session && decide (p < 18) then .next (s.setPort p (x.enter 1)) else .next s

/-- PCMD START (R506). -/
def execStartPort (p : Nat) (s : State) : Outcome State Fault Refusal :=
  let x := s.port p
  if x.lstate = 1 && !x.stopping && decide (p < 18) then .next (s.setPort p (x.enter 2)) else .next s

/-- PCMD STOP: the port takes no new packet (R506). -/
def execStopPort (p : Nat) (s : State) : Outcome State Fault Refusal :=
  let x := s.port p
  if (x.lstate = 1 || x.lstate = 2) && decide (p < 18) then .next (s.setPort p { x with stopping := true }) else .next s

/-- PORT_STOP_DRAINED: the retained flits are acknowledged, or 10 µs have passed; the session ends (R506). -/
def execPortStopDrained (p : Nat) (s : State) : Outcome State Fault Refusal :=
  let x := s.port p
  if x.stopping then .next (s.setPort p { x.enter 0 with stopping := false, session := false, retained := [], waiting := [], owed := [], rx := [], broken := [] }) else .next s

/-! ### Training, lanes, banks (R498, R499, R502, R503) -/

/-- LINK_TRAINED: the lanes found good make the width; the port advertises its VCs (R498, R499). -/
def execLinkTrained (p : Nat) (good : BitVec 16) (s : State) : Outcome State Fault Refusal :=
  let x := s.port p
  if !x.enable || !x.train || x.lstate = 3 || x.width != 0 || decide (x.healthy < 2) then .next s
  else
    match widthOf (good &&& x.laneMask) with
    | none => .next (s.setPort p { x with laneFail := ~~~good, train := false })
    | some w =>
      let top := vcTopOf x.healthy
      let y := { x with
        width := w.1, part := w.2, laneFail := ~~~good, train := false, vcTop := top, short := decide (top < 5), retrains := (x.retrains + 1) % 2 ^ 16
        txSeq := 0, ackSeq := 0xFFF, expected := 0, asked := none, retained := [], waiting := [], owed := [], rx := [], broken := [], peerVc := 7, stopBits := 0, ownStop := 0, resuming := false }
      let s1 := s.setPort p ((y.rebind top).say 3 top)
      .next (if y.short = x.short then s1 else s1.portEvent p)

/-- LANE_FAIL: the port stops sending and retrains (R502). -/
def execLaneFail (p lane : Nat) (s : State) : Outcome State Fault Refusal :=
  let x := s.port p
  if x.width = 0 || decide (16 ≤ lane) then .next s
  else .next (s.setPort p { x with laneFail := x.laneFail ||| BitVec.ofNat 16 (2 ^ lane), retraining := x.lstate != 3 })

/-- RETRAIN_COMPLETE: a width no wider than before, or the port goes down. No new flit is sent before the peer's RESUME (R502, R503). -/
def execRetrainComplete (p : Nat) (inTime : Bool) (s : State) : Outcome State Fault Refusal :=
  let x := s.port p
  if !x.retraining then .next s
  else
    match (if inTime then x.retrainWidth else none) with
    | none => .next (s.portFall p)
    | some w =>
      let y := { x with width := w.1, part := w.2, retraining := false, resuming := true, retrains := (x.retrains + 1) % 2 ^ 16 }
      .next ((s.setPort p (y.say 5 x.expected)).portEvent p)

/-- PORT_DOWN: no width qualifies, a retrain is late, or too few banks are healthy (R503). -/
def execPortDown (p : Nat) (s : State) : Outcome State Fault Refusal :=
  let x := s.port p
  if x.width != 0 && (x.retraining || decide (x.healthy < 2) || x.retrainWidth.isNone) then .next (s.portFall p) else .next s

/-- What a bank held is lost: the packets of its stream that wait here, and the one under reception, whose remaining bytes are discarded as they come (R498, R509). -/
def State.loseBuffer (s : State) (p key : Nat) : State :=
  let x := s.port p
  ({ s with fab := { s.fab with net := s.fab.net.filter (fun n => n.buf != some (p, key)) } } : State).setPort p
    { x with broken := if (AMap.get x.rx key []).isEmpty then x.broken else key :: x.broken }

/-- RX_BANK_ERROR: a bank is mapped out with what it held, and a spare takes its place; without a spare the port advertises fewer VCs (R498, R503). -/
def execRxBankError (p bank : Nat) (s : State) : Outcome State Fault Refusal :=
  let x := s.port p
  if 16 ≤ bank || 18 ≤ p || !x.banks.getLsbD bank then .next s
  else
    let lost := (Port.streams x.vcTop).filter (fun k => x.bank k = bank)
    let y := { x with banks := x.banks &&& ~~~(BitVec.ofNat 16 (2 ^ bank)) }
    let s1 := lost.foldl (fun (acc : State) k => acc.loseBuffer p k) (s.setPort p y)
    if y.healthy < 2 then .next (s1.portFall p)
    else
      let top := min x.vcTop (vcTopOf y.healthy)
      let z := lost.foldl (fun (a : Port) k => if top < k % 6 then a else match a.spareBank top with
        | some b => { a with bankOf := AMap.put a.bankOf k b }
        | none => a) { s1.port p with vcTop := top }
      if top < x.vcTop then .next ((s1.setPort p (({ z with short := true } : Port).say 3 top)).portEvent p)
      else .next (s1.setPort p z)

/-! ### Sessions and keys (R504, R505) -/

/-- SESSION_ATTEMPT: accepted when the peer's certificate chain verifies and its number and port are those expected; the package with the lower SELF was the requester, and Smalt holds the peer's measurements from then on (R504). -/
def execSessionAttempt (p : Nat) (verified : Bool) (peerPkg peerPort : Nat) (s : State) : Outcome State Fault Refusal :=
  let x := s.port p
  if !x.enable || x.session || x.width = 0 || x.lstate != 0 then .next s
  else if verified && peerPkg = x.peerPkg && peerPort = x.peerPort then
    .next (s.setPort p { x with session := true, sessions := x.sessions + 1, sent := 0, kph := false, requester := decide (s.ctl.self < peerPkg), measured := some peerPkg })
  else .next (s.portEvent p)

/-- KEY_UPDATE: after 2^36 flits the key changes at a flit boundary; a failure moves a locked or running port to ERROR (R505). -/
def execKeyUpdate (p : Nat) (ok : Bool) (s : State) : Outcome State Fault Refusal :=
  let x := s.port p
  if !x.session || x.sent < 2 ^ 36 then .next s
  else if ok then .next (s.setPort p { x with kph := !x.kph, sent := 0 })
  else if x.lstate = 1 || x.lstate = 2 then .next (s.portError p)
  else .next s

/-! ### Receiving (R500, R501, R507) -/

/-- A flit that fails authentication is counted; the sixty-fourth within a millisecond moves the port to ERROR (R505). -/
def State.tagFailed (s : State) (p : Nat) : State :=
  let x := s.port p
  let now := s.ctl.time
  let times := (x.tagTimes.filter (fun t => decide (now < t + 1000000))) ++ [now]
  let y := { x with tagFail := min (x.tagFail + 1) (2 ^ 16 - 1), tagTimes := times.drop (times.length - 64) }
  if 64 ≤ times.length && (x.lstate = 1 || x.lstate = 2) then (s.setPort p y).portError p else s.setPort p y

/-- The flit repeats one that was accepted: its SEQ lies within 1,024 below the expected value (R501). -/
def Port.repeats (x : Port) (f : Flit) : Bool :=
  decide (1 ≤ (x.expected + 4096 - f.seq % 4096) % 4096) && decide ((x.expected + 4096 - f.seq % 4096) % 4096 ≤ 1024)

/-- A port in RUN discards a flit: a transaction flit that is no duplicate asks for a replay (R501). -/
def State.discardFlit (s : State) (p : Nat) (f : Flit) : State :=
  let x := s.port p
  if f.ctrl || x.lstate != 2 || x.repeats f then s else s.setPort p (x.askReplay s.ctl.time)

/-- The payload of a flit in sequence: the stream's packets wait to be routed, in the buffer that holds them. One that lost bytes with its bank is discarded (R495, R498, R509). -/
def State.takePayload (s : State) (p : Nat) (f : Flit) : State :=
  let x := s.port p
  let key := 6 * natOfBool f.cls + f.vc
  let bs := AMap.get x.rx key [] ++ f.payload
  let r := takePackets (bs.length / 32 + 1) bs []
  let drop := x.broken.contains key && !r.1.isEmpty
  let y := { x with expected := (x.expected + 1) % 4096, rx := AMap.set x.rx key r.2 [], broken := if drop then x.broken.filter (fun k => k != key) else x.broken }
  let got := (if drop then r.1.drop 1 else r.1).map (fun q => ({ pkt := q, hop := f.vc + 1, buf := some (p, key) } : NetPkt))
  let s1 := s.setPort p y
  ({ s1 with fab := { s1.fab with net := s1.fab.net ++ got } } : State).restop p

/-- FLIT_RECEIVE: the next flit in sequence is accepted and its packets are taken; a duplicate is discarded; any other asks for a replay. Before a session the check is a CRC, whose failures are not counted (R495, R500, R501, R505). -/
def execFlitReceive (p : Nat) (f : Flit) (fecOk tagOk : Bool) (s : State) : Outcome State Fault Refusal :=
  let x := s.port p
  if x.lstate = 3 || x.width = 0 || x.retraining then .next s
  else if !fecOk then .next (s.discardFlit p f)
  else if !tagOk then .next ((if x.session then s.tagFailed p else s).discardFlit p f)
  else
    let s1 := (s.setPort p (({ x with stopBits := f.stopBits } : Port).acked f.ack)).sendPort p
    if f.ctrl || x.lstate != 2 then .next s1
    else if f.seq = x.expected then .next (s1.takePayload p f)
    else .next (s1.discardFlit p f)

/-- IDLE: sent after 100 ns of silence, but not while the port retrains; it changes only the count of flits (R501, R502). -/
def execIdleMsg (p : Nat) (s : State) : Outcome State Fault Refusal :=
  let x := s.port p
  if x.width = 0 || x.lstate = 3 || x.retraining then .next s else .next (s.setPort p (x.say 1 0))

/-- REPLAY: every retained flit from the one named is sent again, while both ends are in RUN (R501, R506). -/
def execReplayMsg (p seq : Nat) (s : State) : Outcome State Fault Refusal :=
  let x := s.port p
  if !x.running || x.retraining then .next s else .next (s.setPort p (x.resend seq))

/-- VCADV: the peer's highest VC; the first one after a training is no change of it (R498, R511, log 32). -/
def execVcadvMsg (p top : Nat) (s : State) : Outcome State Fault Refusal :=
  let x := s.port p
  if x.width = 0 || x.lstate = 3 || top = x.peerVc || decide (5 < top) then .next s
  else
    let s1 := s.setPort p { x with peerVc := top }
    .next (if x.peerVc = 7 then s1 else s1.portEvent p)

/-- SPDM: a handshake message is received and answered by Smalt; the session's outcome is SESSION_ATTEMPT's (R504, log 12). -/
def execSpdmMsg (p : Nat) (bytes : List Byte) (s : State) : Outcome State Fault Refusal :=
  let x := s.port p
  if x.width = 0 || x.lstate = 3 || x.retraining then .next s else .next (s.setPort p (x.say 4 bytes.length))

/-- RESUME: what the peer has received is acknowledged; the rest is sent again from there while both ends are in RUN, and new flits follow (R502, R506). -/
def execResumeMsg (p seq : Nat) (s : State) : Outcome State Fault Refusal :=
  let x := s.port p
  if x.width = 0 || x.lstate = 3 || x.retraining then .next s
  else
    let y := { x.acked ((seq + 4095) % 4096) with resuming := false }
    .next ((s.setPort p (if x.running then y.resend seq else y)).sendPort p)

/-- STATE: PEERRUN is 1 exactly while the last message names RUN (R507). -/
def execStateMsg (p lstate : Nat) (s : State) : Outcome State Fault Refusal :=
  let x := s.port p
  if x.width = 0 || x.lstate = 3 then .next s
  else .next ((s.setPort p { x with peerRun := lstate = 2 }).sendPort p)

/-- PEER_SILENCE_TIMEOUT: no flit for 10 µs clears PEERRUN (R507). -/
def execPeerSilenceTimeout (p : Nat) (s : State) : Outcome State Fault Refusal :=
  .next (s.setPort p { s.port p with peerRun := false })

end Sys2Proof.Machine
end

