-- ==== Sys2Proof/Machine/Fetch.lean ====
section
/-! DEFINITION. Fetching the words of an instruction through translation (R59, R60, R321, R394). -/

namespace Sys2Proof.Machine

/-- How a fetch ends. -/
inductive Fetch where
  | words (s : State) (w0 w1 : Word)
  /-- A page the host must supply: its base, the state, and the address that missed. -/
  | page (va : Word)
  | host (s : State)
  | trap (cause : Nat) (w0 addr : Word)
  deriving DecidableEq

/-- Read the 8 bytes of one instruction word. -/
def State.fetchWord (s : State) (team core : Nat) (pc : Word) : Fetch :=
  if fld pc 63 57 != 0 then .trap 1 0 pc
  else
    let x := s.xctx team core
    let chunk := pc.toNat / 65536 * 65536
    match s.xlate x.core x.die x.djid x.root x.pager chunk .fetch with
    | .fault cause _ => .trap (if cause = 3 then 3 else 4) 0 pc
    | .need _ _ => .page pc
    | .ok leaf =>
      let s1 := s.fillChunks x [(chunk / 65536, .ok leaf)]
      let cells := (List.range 8).map (fun i => leaf.cell (pc.toNat + i) 0 true none)
      match s1.atsMissing cells with
      | [] => .words s1 (wd (leNat (cells.map s1.peek))) 0
      | ps => .host { s1 with atsWaits := (s1.atsWaits ++ ps).eraseDups }

/-- Fetch the base word and, when X = 1, the extension word, of the instruction at an address (R59, R79). -/
def State.fetch (s : State) (team core : Nat) (pc : Word) : Fetch :=
  match s.fetchWord team core pc with
  | .words s1 w0 _ =>
    if w0.getLsbD 0 then
      match s1.fetchWord team core (pc + 8) with
      | .words s2 w1 _ => .words s2 w0 w1
      | .trap c _ a => .trap c w0 a
      | r => r
    else .words s1 w0 0
  | r => r

/-- The words of an instruction, read again for a trap on it. -/
def State.wordsAt (s : State) (team grp : Nat) (pc : Word) : Word × Word :=
  match s.fetch team (s.group team grp).core pc with
  | .words _ w0 w1 => (w0, w1)
  | _ => (0, 0)

end Sys2Proof.Machine
end

