-- ==== Sys2Proof/Machine/Tree.lean ====
section
/-! DEFINITION. Combining trees: phases of domain reductions and of HBAR `.dom`, their contributions and results (R404, R486, R487, R510; log 26). -/

namespace Sys2Proof.Machine

/-! ### Folding (R155, R286, R486, R487) -/

/-- Binary32 as accumulators hold it (R286). -/
def accFmt : Fmt := fmtOf 0x000002000A0FF744

/-- One rounded addition into an accumulator (R286, R298). -/
def accAdd (x y : Nat) : Nat := encode1 accFmt (exSum false [decodeCode accFmt x, decodeCode accFmt y]) 0

/-- One fold step on an element of `n` bytes (R486). -/
def treeElem (op n a b : Nat) : Nat :=
  match op with
  | 0 => atomVal (.int 0) n a b 0
  | 1 => accAdd a b
  | 2 => atomVal (.int 4) n a b 0
  | 3 => atomVal (.int 5) n a b 0
  | 4 => atomVal (.int 6) n a b 0
  | 5 => atomVal (.int 7) n a b 0
  | 6 => atomVal (.int 1) n a b 0
  | _ => atomVal (.int 2) n a b 0

/-- The identity of an operation on elements of `n` bytes (R155, R487). -/
def treeIdentity (op n : Nat) : Nat :=
  match op with
  | 1 => 2 ^ 31
  | 2 => 2 ^ (8 * n - 1) - 1
  | 3 => 2 ^ (8 * n - 1)
  | 4 => 2 ^ (8 * n) - 1
  | 6 => 2 ^ (8 * n) - 1
  | _ => 0

/-- One fold step on a word, element by element (R486). -/
def treeWord (op size : Nat) (a b : Word) : Word :=
  let n := 2 ^ size
  wordOfElems (8 * n) ((List.range (8 / n)).map (fun i => treeElem op n (elemOf (8 * n) a i) (elemOf (8 * n) b i)))

/-- A word of identities. -/
def identityWord (op size : Nat) : Word := wordOfElems (8 * 2 ^ size) (List.replicate (8 / 2 ^ size) (treeIdentity op (2 ^ size)))

/-- Fold the contributions of a node's list from left to right; a member that contributes no more gives the identity. Contributions that differ in operation, SIZE or n fail with status 6 (R487). -/
def foldVals (vs : List (Option TreeVal)) : TreeVal :=
  match vs.filterMap id with
  | [] => {}
  | v :: rest =>
    if v.status != 0 || rest.any (fun w => w.status != 0 || w.op != v.op || w.size != v.size || w.n != v.n) then { v with status := 6, words := [] }
    else
      let words := fun (w : Option TreeVal) => match w with
        | some x => x.words
        | none => List.replicate v.words.length (identityWord v.op v.size)
      match vs with
      | [] => v
      | w :: more => { v with words := more.foldl (fun acc x => List.zipWith (treeWord v.op v.size) acc (words x)) (words w) }

/-! ### The tree (R510) -/

/-- A node of a combining tree. -/
structure TreeNode where
  root : Bool
  parent : Nat
  list : List Nat
  deriving DecidableEq, Repr

/-- The entry of a domain barrier group, if the tables hold one (R510). -/
def State.treeNode (s : State) (g : Nat) : Option TreeNode :=
  let e := AMap.get s.fab.trees (g % 256) 0
  if bitAt e 27 && bitsOf e 15 0 = g then
    some ⟨bitAt e 28, bitsOf e 25 16, (List.range (bitsOf e 33 29)).map (fun i => bitsOf e (43 + 10 * i) (34 + 10 * i))⟩
  else none

/-! ### Phases -/

/-- The phase is that of a group, number and kind. -/
def TreePhase.isOf (p : TreePhase) (g k : Nat) (h : Bool) : Bool := p.dbgrp = g && p.phase = k && p.hbar = h

/-- A phase of a group, new if there is none yet. -/
def State.treePhase (s : State) (g k : Nat) (h : Bool) : TreePhase :=
  (s.fab.phases.find? (fun p => p.isOf g k h)).getD { dbgrp := g, phase := k, hbar := h }

/-- Leave a phase out. -/
def State.dropPhase (s : State) (g k : Nat) (h : Bool) : State :=
  { s with fab := { s.fab with phases := s.fab.phases.filter (fun p => !p.isOf g k h) } }

/-- Replace a phase. -/
def State.setPhase (s : State) (p : TreePhase) : State :=
  let s1 := s.dropPhase p.dbgrp p.phase p.hbar
  { s1 with fab := { s1.fab with phases := s1.fab.phases ++ [p] } }

/-- Key of a member of a tree in `Fabric.closed`. -/
def memberKey (g pkg : Nat) : Nat := g * 1024 + pkg

/-- What a member of the list has contributed: `none` while it is awaited, `some none` when it contributes no more. -/
def State.memberVal (s : State) (p : TreePhase) (pkg : Nat) : Option (Option TreeVal) :=
  let given := if pkg = s.ctl.self then p.own else (p.kids.find? (fun k => k.1.src = pkg)).map (fun k => k.2)
  match given with
  | some v => some (some v)
  | none => if s.fab.closed.contains (memberKey p.dbgrp pkg) then some none else none

/-- A REDUCE packet: VA the group, INDEX the phase, SUB the operation, ASZ for SIZE 3; COUNT 0 for words, 1 for an HBAR arrival, 2 for a member that contributes no more, 3 for a failed phase (log 26). -/
def reducePacket (src dest g k kind : Nat) (v : TreeVal) : Packet :=
  { eseq := 0, djid := 0, dest := dest, src := src, va := g, len := 8 * v.words.length, op := 0x0B, resp := false, rel := false, acq := false, resent := false
    rtag := 0, asz := v.size = 3, sub := v.op, index := k, tile := 0, core := 0, count := kind, data := v.words.flatMap (fun w => leBytes 8 w.toNat) }

/-- The result of a phase reaches a node: its children are answered, and the phase stays only while this package's own launch waits for it (R487). -/
def State.finishPhase (s : State) (p : TreePhase) (v : TreeVal) : State :=
  let s1 := p.kids.foldl (fun (acc : State) k =>
    acc.answerRequest k.1 (responseTo k.1 v.status (v.words.flatMap (fun w => leBytes 8 w.toNat)))) s
  if p.waiting || (p.hbar && p.own.isSome) then s1.setPhase { p with kids := [], result := some v } else s1.dropPhase p.dbgrp p.phase p.hbar

/-- Fold a phase whose members have all contributed, and send it on: to the parent, or back as the result (R487, R510). Without an entry a reduction fails with status 6, and an HBAR stays pending. -/
def State.stepPhase (s : State) (g k : Nat) (h : Bool) : State :=
  let p := s.treePhase g k h
  if p.sent || p.result.isSome || (p.own.isNone && p.kids.isEmpty) then s
  else
    match s.treeNode g with
    | none => if h then s else s.finishPhase p { status := 6 }
    | some n =>
      let vals := n.list.map (s.memberVal p)
      if vals.contains none then s
      else
        let v := foldVals (vals.filterMap id)
        if n.root then s.finishPhase p v
        else
          (s.setPhase { p with sent := true }).sendAll
            [{ pkt := reducePacket s.ctl.self n.parent g k (if h then 1 else if v.status != 0 then 3 else 0) v, owner := .reduce g k h }]

/-- This package's launch contributes to its next phase of a kind (R404, R487). -/
def State.contribute (s : State) (launch g : Nat) (h : Bool) (v : TreeVal) (f : TreePhase → TreePhase) : State :=
  let i := 2 * launch + natOfBool h
  let k := AMap.get s.fab.begun i 0 % 65536
  let s1 := { s with fab := { s.fab with begun := AMap.put s.fab.begun i (AMap.get s.fab.begun i 0 + 1) } }
  (s1.setPhase (f { s1.treePhase g k h with launch := launch, own := some v })).stepPhase g k h

/-- A member of a tree contributes no more: phases that awaited it go on, and the parent is told once no member does (R404, R487). -/
def State.closeMember (s : State) (g pkg : Nat) : State :=
  let s1 := { s with fab := { s.fab with closed := (s.fab.closed ++ [memberKey g pkg]).eraseDups } }
  let s2 := (s1.fab.phases.filter (fun p => p.dbgrp = g)).foldl (fun (acc : State) p => acc.stepPhase g p.phase p.hbar) s1
  match s2.treeNode g with
  | some n =>
    if !n.root && n.list.all (fun m => s2.fab.closed.contains (memberKey g m)) then
      s2.sendAll [{ pkt := reducePacket s2.ctl.self n.parent g 0 2 {}, owner := .reduce g 65536 false }]
    else s2
  | none => s2

/-- A child's contribution arrives (R487). -/
def State.takeReduce (s : State) (p : Packet) : State :=
  if p.count = 2 then (s.closeMember p.va p.src).answerRequest p (responseTo p 0 [])
  else
    let h := p.count = 1
    let words := (List.range (p.data.length / 8)).map (fun i => wd (leNat ((p.data.drop (8 * i)).take 8)))
    let v : TreeVal := { op := p.sub, size := if p.asz then 3 else 2, n := words.length, status := if p.count = 3 then 6 else 0, words := words }
    let s1 := { s with fab := { s.fab with closed := s.fab.closed.filter (· != memberKey p.va p.src) } }
    let ph := s1.treePhase p.va p.index h
    (s1.setPhase { ph with kids := ph.kids ++ [(p, v)] }).stepPhase p.va p.index h

/-- The result of a phase comes down to this node (R487). -/
def State.takeResult (s : State) (g k : Nat) (h : Bool) (r : Packet) : State :=
  match s.fab.phases.find? (fun p => p.isOf g k h) with
  | some p =>
    let words := (List.range (r.data.length / 8)).map (fun i => wd (leNat ((r.data.drop (8 * i)).take 8)))
    s.finishPhase p { status := r.sub, n := words.length, words := words }
  | none => s

/-- The result that a launch's own contribution to an HBAR `.dom` waits for has come (R404). -/
def State.hbarResult (s : State) (launch : Nat) : Option TreePhase :=
  s.fab.phases.find? (fun p => p.hbar && p.launch = launch && p.own.isSome && p.result.isSome)

end Sys2Proof.Machine
end

