-- ==== Sys2Proof/Machine/Sync.lean ====
section
/-! DEFINITION. Ordering and waiting: FENCE, PROMO, the transaction instructions, team barriers, counted waits, transaction barriers, HBAR, EXIT, SYSC, IDEM, and the events that complete them (R126, R228, R250 to R260, R325, R327, R344, R401 to R404, R412). -/

namespace Sys2Proof.Machine

open Host

/-! ### Parking and waking (R98, R110, R115) -/

/-- Park split `i` at barrier, its PC at the next instruction. -/
def Group.park (g : Group) (i : Nat) (w : Wait) (pc : Word) : Group :=
  ((g.setSplit i { g.split i with st := 5, wait := w, parkPc := pc }).loosen i).recheck

/-- Park the issuing split. -/
def State.parkAt (s : State) (l : Latch) (w : Wait) : State :=
  s.setGroupAt l.ref ((s.groupAt l.ref).park l.ref.split w l.pc)

/-- Wake the splits of a group whose wait satisfies `p`. -/
def Group.wakeIf (g : Group) (p : Wait → Bool) : Group :=
  (List.range 8).foldl (fun (acc : Group) i => if (acc.split i).st = 5 && p (acc.split i).wait then acc.wake i else acc) g

/-- Apply a function to every group of a team. -/
def Team.mapGroups (t : Team) (f : Group → Group) : Team := { t with groups := t.groups.map (fun g => (g.1, f g.2)) }

/-- An instruction that a transaction disallows, after an ILLOP of an operand value, which has the effect of one raised at decode (R77): it aborts the transaction and is discarded (R253). -/
def checkedTx (name : String) (s : State) (illop : Latch → State → Bool) (body : Latch → State → Res) : Outcome State Fault Refusal :=
  issue name s (fun l s1 =>
    let g := s1.groupAt l.ref
    if illop l s1 then .trap trapOperand
    else if g.openTx.isSome then doneGroup l s1 (g.abortTx 7 0)
    else body l s1)

/-- A memory, ordering or wait instruction that a transaction disallows: it aborts the transaction and is discarded (R253). -/
def outsideTx (name : String) (s : State) (body : Latch → State → Res) : Outcome State Fault Refusal :=
  checkedTx name s (fun _ _ => false) body

/-- A logged instruction of the split is still to be replayed (R320). -/
def logWaits (g : Group) (self : Half) : Bool := g.oplog.any (fun e => e.active &&& self != 0)

/-! ### FENCE and PROMO (R228, R250, R251, R483) -/

/-- An issued atomic of a thread of `m`, whose read an acquiring fence comes after (R224, R250). -/
def PStore.readsStrong (p : PStore) (m : Half) : Bool :=
  (match p.op with | .atomic .bits => false | .atomic _ => true | _ => false) && p.accs.any (fun a => m.getLsbD a.thr)

/-- FENCE: kind 0 full, 1 release, 2 acquire. A release waits for the stores and remote accesses of the split's threads, an acquire for their strong reads; at `.dom` and `.sys` a release also waits for every remote request of the group (R227, R250, R483). -/
def execFence (f : RegForm) (s : State) : Outcome State Fault Refusal :=
  outsideTx "FENCE" s (fun l s1 =>
    let g := s1.groupAt l.ref
    let kind := f.mod.toNat % 4
    let scope := f.fs.toNat
    if s1.det l.ref.team then .trap trapDetOp
    else if logWaits g (l.self s1) then .hold s1
    else if kind != 2 && decide (5 ≤ scope) && s1.remotePending l.ref.team l.ref.grp then .hold s1
    else if kind != 1 && s1.readPending l.ref.team l.ref.grp (threadsOf (l.self s1)) then .hold s1
    else if kind = 2 then
      match s1.drain l.ref.team l.ref.grp (fun p => p.readsStrong (l.self s1)) with
      | none => .hold s1
      | some s2 => .done (s2.acquire l.ref.team l.ref.grp scope none)
    else
      match s1.release l.ref.team l.ref.grp (l.self s1) scope none with
      | none => .hold s1
      | some s2 => .done (if kind = 0 then s2.acquire l.ref.team l.ref.grp scope none else s2))

/-- PROMO: the split waits for the named core's write-back; where no release is to be promoted it completes at once (R251). -/
def execPromo (f : RegForm) (s : State) : Outcome State Fault Refusal :=
  outsideTx "PROMO" s (fun l s1 =>
    let g := s1.groupAt l.ref
    let a := g.readOpnd (l.self s1) f.a 0
    if s1.det l.ref.team then .trap trapDetOp
    else if a.toNat / 4096 != 0 then .trap (trapUniformAddr 0x08 8 a (l.self s1) false)
    else if logWaits g (l.self s1) then .hold s1
    else if (s1.core a.toNat).l1.any (fun e => e.2.covered) then .done (s1.parkAt l (.promo a.toNat))
    else .done (s1.acquire l.ref.team l.ref.grp 4 none))

/-- PROMO_WRITEBACK_DONE: the dirty bytes that core-scope releases of the named core cover go back, and the waiting split acquires at `.pkg`. The moment Q at which PROMO reaches the core is that of the write-back (R228; log 95). -/
def execPromoWritebackDone (r : SplitRef) (s : State) : Outcome State Fault Refusal :=
  match (s.splitAt r).st, (s.splitAt r).wait with
  | 5, .promo c =>
    if s.writeBackHeld c (fun _ b => b.covered) then .next s else
    let s1 := s.writeBack c (fun _ b => b.covered)
    let s2 := s1.acquire r.team r.grp 4 none
    .next (s2.setGroupAt r ((s2.groupAt r).wake r.split))
  | _, _ => .next s

/-! ### Transactions (R252, R254, R255) -/

/-- TBEGIN (R252). It waits while an earlier commit of the group has no answer (log 98). -/
def execTbegin (_f : RegForm) (s : State) : Outcome State Fault Refusal :=
  issue "TBEGIN" s (fun l s1 =>
    let g := s1.groupAt l.ref
    if g.live &&& ~~~(l.self s1) != 0 then .trap trapMaskPart
    else if s1.det l.ref.team then .trap trapDetOp
    else if g.openTx.isSome then doneGroup l s1 (g.abortTx 7 0)
    else if g.tx.isSome then .hold s1
    else doneGroup l s1 { g with tx := some {} })

/-- The status word of an abort (R254). -/
def txStatus (a : Nat × Nat) : Word := wd (a.1 + (if a.1 = 6 then a.2 * 256 else 0))

/-- Close the group's transaction with a status: its loads that wait in the operand log see memory alone from now on (R253, R254). -/
def Group.closeTx (g : Group) (d : Opnd) (status : Word) : Group :=
  ({ g with tx := none, oplog := g.oplog.map (fun e => { e with req := { e.req with seen := none } }) } : Group).writeOnce d status

/-- TCOMMIT: the release, then an immediate status, or the lines go to their home and the split waits (R254). -/
def execTcommit (f : RegForm) (s : State) : Outcome State Fault Refusal :=
  issue "TCOMMIT" s (fun l s1 =>
    let g := s1.groupAt l.ref
    let team := l.ref.team
    match g.openTx with
    | none => doneGroup l s1 (g.writeOnce f.d 8)
    | some t =>
      let dest := t.accs.findSome? (fun x => x.remote.map (fun p => p.1))
      if logWaits g (l.self s1) then .hold s1
      else if (match dest with
          | some d => s1.releasePending team l.ref.grp d (threadsOf g.present) || s1.acquirePending team l.ref.grp (threadsOf g.present) ||
              t.accs.any (fun x => match x.remote with | some p => s1.blockBusy team l.ref.grp d (p.2 / 256) none | none => false)
          | none => false) then .hold s1
      else
        match (if dest.isSome then s1.releaseLocal team l.ref.grp g.present (max 2 f.fs.toNat) none else s1.release team l.ref.grp g.present f.fs.toNat none) with
        | none => .hold s1
        | some s2 =>
          let g2 := s2.groupAt l.ref
          match t.abort with
          | some a => doneGroup l s2 (g2.closeTx f.d (txStatus a))
          | none =>
            if t.accs.isEmpty then doneGroup l s2 (g2.closeTx f.d 0)
            else
              let s3 := s2.setGroupAt l.ref { g2 with tx := some { t with sent := true } }
              let s4 := match dest with
                | some d => s3.sendAll ((txPackets d s3.ctl.self (s3.launchOf team).region.djid (rtagOf g l.ref.grp) t.accs).map (fun p =>
                    { pkt := p, owner := .tx team l.ref.grp, pc := l.pc, w0 := l.w0 }))
                | none => s3
              .done (s4.parkAt l (.commit f.d f.fs.toNat)))

/-- COMMIT_ARRIVAL: a local commit takes all its locks, or aborts when one is held (R254). -/
def execCommitArrival (team grp : Nat) (s : State) : Outcome State Fault Refusal :=
  let g := s.group team grp
  match g.tx with
  | some t =>
    if t.sent && t.answer.isNone && (t.accs.all (fun x => x.remote.isNone)) then
      let t' := if t.keys.any (fun k => s.lockedLines.contains k) then { t with answer := some 3 } else { t with answer := some 0, locked := true }
      .next (s.setGroup team grp { g with tx := some t' })
    else .next s
  | none => .next s

/-- The splits of a group that wait for a commit's answer. -/
def Group.committing (g : Group) : Option (Nat × Opnd) :=
  (List.range 8).findSome? (fun i => match (g.split i).st, (g.split i).wait with
    | 5, .commit d _ => some (i, d)
    | _, _ => none)

/-- A commit cannot be applied: an atomic of it would consume an uncorrectable word, or a store of it fails its test. It aborts with code 4 (R262, R397, R399). -/
def State.txFails (s : State) (core : Nat) (accs : List TxAcc) : Bool :=
  (s.readUce core ((accs.filter (fun x => match x.op with | .atomic .bits => false | .atomic _ => true | _ => false)).map (fun x => x.acc))).isSome ||
    !(s.testsOf core (accs.flatMap (fun x => x.acc.cells))).isEmpty

/-- The failing tests of stores to some cells have been met (R397). -/
def State.dropTests (s : State) (cs : List Cell) : State := { s with tests := s.tests.filter (fun f => !cs.any (fun c => c.loc.inSectors [f.sector])) }

/-- The buffered accesses of a commit are applied together at their home (R254). -/
def State.applyTx (s : State) (core : Nat) (accs : List TxAcc) : State :=
  let cells := accs.flatMap (fun x => x.acc.cells)
  ((accs.foldl (fun (acc : State) x => (acc.performAcc core x.op x.acc).2) s).noticeAll cells).retestCells cells

/-- TCOMMIT_ANSWER: the buffered accesses are applied together, the status is written and the transaction closes (R254). -/
def execTcommitAnswer (team grp : Nat) (s : State) : Outcome State Fault Refusal :=
  let g := s.group team grp
  match g.tx, g.committing with
  | some t, some (i, d) =>
    match t.answer with
    | none => .next s
    | some a =>
      let home := t.accs.map (fun x => { x with acc := { x.acc with cells := x.acc.cells.map (fun c => c.via .home) } })
      if t.locked && s.txFails g.core home then
        let s1 := s.dropTests (home.flatMap (fun x => x.acc.cells))
        .next (s1.setGroup team grp (((s1.group team grp).closeTx d 4).wake i)).replayAll
      else
      let s1 := if t.locked then s.applyTx g.core home else s
      .next (s1.setGroup team grp (((s1.group team grp).closeTx d (wd a)).wake i)).replayAll
  | _, _ => .next s

/-- TABORT (R255). -/
def execTabort (f : RegForm) (s : State) : Outcome State Fault Refusal :=
  issue "TABORT" s (fun l s1 =>
    let g := s1.groupAt l.ref
    doneGroup l s1 (g.abortTx 6 ((g.readOpnd (l.self s1) f.a 0).toNat % 256)))

/-! ### Team barriers (R256, R257) -/

/-- Barrier `n` of a team. -/
def Team.bar (t : Team) (n : Nat) : Barrier := (AMap.find t.bars n).getD {}

/-- Exited threads of the team that are not among those arrived. -/
def Team.exitedOutside (t : Team) (who : List Nat) : Nat :=
  (t.groups.map (fun g => ((List.range 32).filter (fun i => !g.2.present.getLsbD i && !who.contains (g.1 * 32 + i))).length)).sum

/-- A barrier's phase is complete (R256). -/
def Team.barComplete (t : Team) (b : Barrier) : Bool := decide (0 < b.arrivals) && decide (b.e ≤ b.arrivals + t.exitedOutside b.who)

/-- Phase `q` lies behind the completed count (R257). -/
def phaseDone (now q : Nat) : Bool := decide ((now + 2 ^ 16 - q % 2 ^ 16 + 2 ^ 16 - 1) % 2 ^ 16 < 2 ^ 15)

/-- Complete the phases that are due; a completed phase clears the team's tag stores (R256, R411). -/
def Team.settleBars (t : Team) : Team :=
  let done := t.bars.filter (fun b => t.barComplete b.2)
  if done.isEmpty then t
  else
    { t with bars := t.bars.map (fun b => if t.barComplete b.2 then (b.1, { q := (b.2.q + 1) % 2 ^ 16 }) else b)
             spTags := [], ivTags := [] }

/-- Complete a team's barriers, wake the splits they held, and acquire at `.team` (R257). -/
def State.settleBars (s : State) (team : Nat) : State :=
  let t := (s.team team).settleBars
  let s1 := s.setTeam team (t.mapGroups (fun g => g.wakeIf (fun w => match w with | .bar n q => phaseDone (t.bar n).q q | _ => false)))
  if t.paired then (s1.acquireL1 t.core none).acquireL1 (t.core + 1) none else s1

/-- Threads of a split as the barrier counts them. -/
def whoOf (gidx : Nat) (self : Half) : List Nat := (threadsOf self).map (fun i => gidx * 32 + i)

/-- The threads of a split arrive at barrier `n` (R256). -/
def State.arriveBar (s : State) (team gidx n : Nat) (self : Half) (count : Option Nat) : State :=
  let t := s.team team
  let b := t.bar n
  let full := (s.launchOf team).lrec.ngrp * 32
  let b1 := if b.arrivals = 0 then { b with e := count.getD full } else b
  s.setTeam team { t with bars := AMap.put t.bars n { b1 with arrivals := b1.arrivals + (threadsOf self).length, who := b1.who ++ whoOf gidx self } }

/-- The matrix work of a group that a barrier waits for: scratchpad operands not yet read, scratchpad drains not yet performed (R229). -/
def State.matrixHolds (s : State) (team grp : Nat) : Bool :=
  s.cores.any (fun c => c.2.order.any (fun o => o.team = team && o.grp = grp && !o.started &&
    (!o.reads.isEmpty || (o.kind = .mdrain && o.mod / 8 % 4 = 0))))

/-- The barrier count operand: none for vz (R256). -/
def countOf (g : Group) (self : Half) (o : Opnd) : Option Nat :=
  match o with
  | .g _ => some (g.readOpnd self o 0).toNat
  | _ => none

/-- A count of zero, or above the threads of the team: ILLOP 0x09 (R256). All 64 bits of the operand are tested (log 95). -/
def barIllop (f : RegForm) (l : Latch) (s1 : State) : Bool :=
  match countOf (s1.groupAt l.ref) (l.self s1) f.b with
  | some c => c = 0 || decide ((s1.launchOf l.ref.team).lrec.ngrp * 32 < c)
  | none => false

/-- BAR and BARARV: the release at `.team`, and the arrival; `fin` then parks or goes on. -/
def barBody (f : RegForm) (fin : Latch → State → Nat → State) (l : Latch) (s1 : State) : Res :=
  let g := s1.groupAt l.ref
  let self := l.self s1
  let n := f.mod.toNat % 128
  let team := l.ref.team
  let count := countOf g self f.b
  if s1.det team && count.isSome then .trap trapDetOp
  else if logWaits g self || s1.matrixHolds team l.ref.grp then .hold s1
  else
    match s1.release team l.ref.grp self 1 none with
    | none => .hold s1
    | some s2 =>
      let q := ((s2.team team).bar n).q
      .done ((fin l (s2.arriveBar team l.ref.grp n self (count.map (fun c => c % 2 ^ 32))) q).settleBars team)

/-- BAR (R257). -/
def execBar (f : RegForm) (s : State) : Outcome State Fault Refusal :=
  checkedTx "BAR" s (barIllop f) (barBody f (fun l s1 q => s1.parkAt l (.bar (f.mod.toNat % 128) q)))

/-- BARARV: the phase number goes to D; in a DET region the threads are marked until their BARWT (R257, R409). -/
def execBararv (f : RegForm) (s : State) : Outcome State Fault Refusal :=
  checkedTx "BARARV" s (barIllop f) (barBody f (fun l s1 q =>
    let g := (s1.groupAt l.ref).writeOnce f.d (wd q)
    s1.setGroupAt l.ref { g with arrived := (g.arrived ++ (threadsOf (l.self s1)).map (fun i => q * 4096 + f.mod.toNat % 128 * 32 + i)).eraseDups }))

/-- BARWT: parks until a phase has completed, then acquires at `.team` (R257). -/
def execBarwt (f : RegForm) (s : State) : Outcome State Fault Refusal :=
  outsideTx "BARWT" s (fun l s1 =>
    let g := s1.groupAt l.ref
    let self := l.self s1
    let n := f.mod.toNat % 128
    let q := (g.readOpnd self f.a 0).toNat % 2 ^ 16
    if logWaits g self then .hold s1
    else
      let mine := (threadsOf self).map (fun i => q * 4096 + n * 32 + i)
      let s2 := s1.setGroupAt l.ref { g with arrived := g.arrived.filter (fun a => !mine.contains a) }
      if phaseDone ((s2.team l.ref.team).bar n).q q then .done (s2.acquire l.ref.team l.ref.grp 1 none)
      else .done (s2.parkAt l (.bar n q)))

/-! ### Counted waits (R258) -/

/-- Where one aligned access of `n` bytes lies, or what stops it: the checks of R210, R211, R350 and translation. -/
inductive Place where
  | cells (s : State) (cs : List Cell)
  | trap (t : TrapReq)
  | need (ps : List NeedPage)
  | wait (s : State)

/-- Place a uniform access of the issuing split's event thread (R240, R258, R259). -/
def State.placeUniform (s : State) (l : Latch) (space : Space) (addr : Word) (align n : Nat) (write : Bool) : Place :=
  let g := s.groupAt l.ref
  let team := l.ref.team
  let a : Acc := { thr := eventThread g (l.self s), ea := addr, va := spanFrom addr n }
  let req : MemReq := { op := if write then .store else .load, space := space, align := align, cache := 0, order := .relaxed, scope := 0, accs := [a] }
  match s.addressTrap team g.core req none with
  | some t => .trap t
  | none =>
    let djid := (s.launchOf team).region.djid
    if space = .scratch then
      let cs := s.spCells team g.core a
      match s.lockTrap g.core djid write [({ a with cells := cs }, [])] with
      | some t => .trap t
      | none => .cells s cs
    else
      match s.lockTrap g.core djid write [(a, a.va)] with
      | some t => .trap t
      | none =>
        let x := s.xctx team g.core
        let m := s.xlateChunks x (if write then .write else .read) (chunksOf a.va)
        let bytes := a.va.map (fun v => (a.thr, v))
        let scan := scanPages m write bytes
        if !scan.faults.isEmpty then .trap (scan.trap (faultAddrs m bytes))
        else if !scan.needs.isEmpty then .need scan.needs
        else
          let s1 := s.fillChunks x m
          let cs := placeCells m 0 true none false a.va
          match s1.atsMissing cs with
          | [] => .cells s1 cs
          | ps => .wait { s1 with atsWaits := (s1.atsWaits ++ ps).eraseDups }

/-- SPACE of WAITC, CBLD and CBSAVE: MOD[11:10] (R249, R270). -/
def formSpace (f : RegForm) : Space := if f.mod.toNat / 512 % 4 = 1 then .scratch else .glob

/-- WAITC: goes on when the word satisfies it, and parks otherwise (R258). -/
def execWaitc (f : RegForm) (s : State) : Outcome State Fault Refusal :=
  outsideTx "WAITC" s (fun l s1 =>
    let g := s1.groupAt l.ref
    let self := l.self s1
    let addr := g.readOpnd self f.a 0
    let thr := g.readOpnd self f.b 0
    let scope := f.fs.toNat
    let w : Wait := .counted scope f.d (f.mod.toNat / 512 % 4) addr thr
    if s1.det l.ref.team && f.d != .vz then .trap trapDetOp
    else if logWaits g self then .hold s1
    else
      match s1.placeUniform l (formSpace f) addr 8 8 false with
      | .trap t => .trap t
      | .wait s2 => .hold s2
      | .need ps =>
        let who : MemWho := ⟨l.ref.team, l.ref.grp, l.ref.split, g.nextInst, l.pc, l.w0, l.w1⟩
        if (s1.launchOf l.ref.team).isPager then .done (s1.fatalOwn who ps [(eventThread g self, addr)])
        else if 4 ≤ g.oplog.length then .hold s1
        else
          let req : MemReq := { op := .load, space := .glob, align := 8, cache := 0, order := .relaxed, scope := scope, accs := [{ thr := eventThread g self, ea := addr, va := spanFrom addr 8 }] }
          .done ((s1.logRequest who l.w1 self [slotWords g self f.a, slotWords g self f.b] req ps).parkAt l w)
      | .cells s2 cs =>
        if cellsLocked s2.lockedLines cs then .hold s2
        else if let some t := s2.readUce g.core ((threadsOf self).map (fun t => { thr := t, ea := addr, cells := cs })) then .trap t
        else
        match s2.drainFor l.ref.team l.ref.grp (sharedAccs self cs) true with
        | none => .hold s2
        | some s3 =>
          let r := s3.readCells g.core cs
          let v := leNat r.1
          if thr.toNat ≤ v then
            let s4 := r.2.acquire l.ref.team l.ref.grp scope none
            doneGroup l s4 ((s4.groupAt l.ref).writeOnce f.d (wd v))
          else .done (r.2.parkAt l w))

/-- The word that a parked counted wait reads, at its point of coherence. -/
def State.waitWord (s : State) (r : SplitRef) (space : Nat) (addr : Word) : Option (List Cell) :=
  let g := s.groupAt r
  if space = 1 then
    let cs := s.spCells r.team g.core { thr := 0, ea := addr, va := spanFrom addr 8 }
    if cs.isEmpty then none else some cs
  else s.madderCells (s.xctx r.team g.core) addr.toNat 8 .read

/-- WAITC_RELEASE: the word satisfies the wait; the split acquires, receives the value and goes on; an uncorrectable word traps UCE on the WAITC (R258, R399). -/
def execWaitcRelease (r : SplitRef) (s : State) : Outcome State Fault Refusal :=
  match (s.splitAt r).st, (s.splitAt r).wait with
  | 5, .counted scope d space addr thr =>
    match (if (s.team r.team).saved.isSome then none else s.waitWord r space addr) with
    | none => .next s
    | some cs =>
      let home := cs.map (fun c => c.via .home)
      let q := s.readCells (s.groupAt r).core home
      let sp := s.splitAt r
      if cellsLocked s.lockedLines cs then .next s
      else if !(s.atsMissing cs).isEmpty then .next { s with atsWaits := (s.atsWaits ++ s.atsMissing cs).eraseDups }
      else if let some t := s.readUce (s.groupAt r).core ((threadsOf sp.mask).map (fun t => { thr := t, ea := addr, cells := home })) then
        let w := s.wordsAt r.team r.grp sp.parkPc
        .next ((s.setSplitAt r { sp with st := sp.ready, wait := .none }).present r ⟨t, sp.parkPc, w.1, w.2, sp.pc⟩)
      else if thr.toNat ≤ leNat q.1 then
        let s1 := q.2.acquire r.team r.grp scope none
        .next (s1.setGroupAt r (((s1.groupAt r).writeOnce d (wd (leNat q.1))).wake r.split))
      else .next s
  | _, _ => .next s

/-! ### Transaction barriers (R259, R342 to R344) -/

/-- Place the TB of an instruction (R259). -/
def State.placeTb (s : State) (l : Latch) (addr : Word) (write : Bool) : Except TrapReq (Nat × Nat × Nat) :=
  match s.placeUniform l .scratch addr 16 16 write with
  | .trap t => .error t
  | .cells _ (⟨.sp team side off, _, _, _, _, _⟩ :: _) => .ok (team, side, off)
  | _ => .error { code := 0x08, aux := 2 }

/-- Place the TB of an instruction that consumes its two words (R259, R399). -/
def State.usedTb (s : State) (l : Latch) (addr : Word) (write : Bool) : Except TrapReq (Nat × Nat × Nat) :=
  match s.placeTb l addr write with
  | .error t => .error t
  | .ok p =>
    let cells : List Cell := (List.range 16).map (fun i => { loc := .sp p.1 p.2.1 (p.2.2 + i), path := .home })
    match s.readUce (s.groupAt l.ref).core ((threadsOf (l.self s)).map (fun t => { thr := t, ea := addr, cells := cells })) with
    | some t => .error t
    | none => .ok p

/-- Each thread's accesses to a TB: its earlier stores to those bytes come first (R220). -/
def tbAccs (self : Half) (team side off : Nat) : List Acc :=
  sharedAccs self ((List.range 16).map (fun i => { loc := .sp team side (off + i), path := .home }))

/-- A TB lies in a line that a commit holds locked: its accesses wait (R254). -/
def State.tbLocked (s : State) (team side off : Nat) : Bool :=
  cellsLocked s.lockedLines ((List.range 16).map (fun i => { loc := .sp team side (off + i), path := .home }))

/-- TBARV (R259). -/
def execTbarv (f : RegForm) (s : State) : Outcome State Fault Refusal :=
  outsideTx "TBARV" s (fun l s1 =>
    let g := s1.groupAt l.ref
    let self := l.self s1
    let c : Nat := match f.b with | .g _ => (g.readOpnd self f.b 0).toNat % 2 ^ 20 | _ => 1
    if self &&& g.live = 0 then .done s1
    else
      match s1.usedTb l (g.readOpnd self f.a 0) true with
      | .error t => .trap t
      | .ok (team, side, off) =>
        if logWaits g self || s1.tbLocked team side off then .hold s1
        else
          match s1.release l.ref.team l.ref.grp self 2 none with
          | none => .hold s1
          | some s2 =>
            let phase := (s2.tb team side off).phase
            let s3 := s2.updateTb team side off c 0 0 0
            doneGroup l s3 ((s3.groupAt l.ref).writeOnce f.d (wd phase)))

/-- TBEXP and TBEXP `.arv` (R259). -/
def execTbexp (f : RegForm) (s : State) : Outcome State Fault Refusal :=
  outsideTx "TBEXP" s (fun l s1 =>
    let g := s1.groupAt l.ref
    let self := l.self s1
    let b := sextNat 32 (g.readOpnd self f.b 0).toNat
    let arv := RegForm.flag f
    if self &&& g.live = 0 then .done s1
    else
      match s1.usedTb l (g.readOpnd self f.a 0) true with
      | .error t => .trap t
      | .ok (team, side, off) =>
        if logWaits g self || s1.tbLocked team side off then .hold s1
        else
          match (if arv then s1.release l.ref.team l.ref.grp self 2 none else s1.drainFor l.ref.team l.ref.grp (tbAccs self team side off) false) with
          | none => .hold s1
          | some s2 =>
            let phase := (s2.tb team side off).phase
            let s3 := if arv then s2.updateTb team side off 1 0 b 0 else s2.updateTb team side off 0 0 0 b
            doneGroup l s3 ((s3.groupAt l.ref).writeOnce f.d (wd phase)))

/-- TBWAIT (R259). -/
def execTbwait (f : RegForm) (s : State) : Outcome State Fault Refusal :=
  outsideTx "TBWAIT" s (fun l s1 =>
    let g := s1.groupAt l.ref
    let self := l.self s1
    let par := (g.readOpnd self f.b 0).toNat % 2
    match s1.usedTb l (g.readOpnd self f.a 0) false with
    | .error t => .trap t
    | .ok (team, side, off) =>
      if logWaits g self || s1.tbLocked team side off then .hold s1
      else
        match s1.drainFor l.ref.team l.ref.grp (tbAccs self team side off) false with
        | none => .hold s1
        | some s2 =>
          let t := s2.tb team side off
          if t.phase % 2 != par then
            let s3 := s2.acquire l.ref.team l.ref.grp 2 none
            doneGroup l s3 ((s3.groupAt l.ref).writeOnce f.d (wd t.phase))
          else .done ((s2.setTb team side off { t with waiters := (t.waiters + 1) % 2 ^ 16 }).parkAt l (.tb f.d team side off par)))

/-! ### HBAR (R260, R401 to R404, R412) -/

/-- HBAR: the threads of the split arrive at a scope, after a release at it, and park (R260, R402). -/
def execHbar (f : RegForm) (s : State) : Outcome State Fault Refusal :=
  outsideTx "HBAR" s (fun l s1 =>
    let g := s1.groupAt l.ref
    let self := l.self s1
    let scope := f.fs.toNat
    if logWaits g self then .hold s1
    else
      match s1.release l.ref.team l.ref.grp self scope none with
      | none => .hold s1
      | some s2 =>
        let g2 := s2.groupAt l.ref
        let s3 := s2.setGroupAt l.ref { g2 with hbarArr := AMap.set g2.hbarArr scope (AMap.get g2.hbarArr scope 0 ||| self) 0 }
        .done (s3.parkAt l (.hbar scope)))

/-- All threads of the team have exited. -/
def Team.allExited (t : Team) : Bool := t.groups.all (fun g => g.2.present = 0)

/-- Every non-exited thread of the team has executed HBAR at a scope (R402). -/
def Team.hbarReady (t : Team) (scope : Nat) : Bool :=
  t.groups.all (fun g => g.2.present &&& ~~~(AMap.get g.2.hbarArr scope 0) = 0)

/-- Teams of a launch that are not retired, by number. -/
def State.launchTeams (s : State) (id : Nat) : List (Nat × Team) := s.teams.filter (fun t => t.2.launch = id)

/-- The combiner at a place has forwarded its arrival (R402). -/
def Launch.forwarded (l : Launch) (scope place : Nat) : Bool := AMap.get l.hbar (scope * 4096 + place) 0 = 1

/-- Mark a combiner. -/
def Launch.mark (l : Launch) (scope place v : Nat) : Launch := { l with hbar := AMap.set l.hbar (scope * 4096 + place) v 0 }

/-- Clusters below a place that hold a team of the launch with threads left; a team whose threads have all exited counts as arrived. -/
def State.clustersUnder (s : State) (id place : Nat) : List Nat :=
  ascending ((((s.launchTeams id).filter (fun t => !t.2.allExited)).map (fun t => clusterOf t.2.core)).filter (fun c =>
    place = 520 || (decide (512 ≤ place) && c / 64 = place - 512) || c = place))

/-- A race tag lies more than 256 phases behind the counter (R412). -/
def State.staleTag (s : State) (x : RaceTag) : Bool := decide (256 < (s.pph + 1024 - x.pph % 1024) % 1024)

/-- The phase counters advance at a completed HBAR phase; `none` where a limit raises DETOVF, or the sweep is outstanding (R412). -/
def State.advancePhase (s : State) (scope place : Nat) : Option State :=
  if scope = 2 then
    let c := s.cluster place
    if c.cph = 255 then none else some (s.setCluster place { c with cph := c.cph + 1 })
  else if scope = 3 then
    let d := place - 512
    if (s.die d).dph = 127 then none
    else
      let s1 := s.setDie d { s.die d with dph := (s.die d).dph + 1 }
      some { s1 with clusters := s1.clusters.map (fun c => if c.1 / 64 = d then (c.1, { c.2 with cph := 0 }) else c) }
  else
    some { s with pph := (s.pph + 1) % 1024, dies := s.dies.map (fun d => (d.1, { d.2 with dph := 0 }))
                  clusters := s.clusters.map (fun c => (c.1, { c.2 with cph := 0 })) }

/-- The phase counters cannot advance while the sweep is outstanding (R412). -/
def State.sweepOwed (s : State) : Bool := s.l2tags.any (fun t => s.staleTag t.2)

/-- A completed HBAR phase orders every access of the teams that took part: their scratchpad and interval tags are empty again (R410, R411). -/
def State.orderTags (s : State) (id : Nat) (clusters : List Nat) : State :=
  { s with teams := s.teams.map (fun t => if t.2.launch = id && clusters.contains (clusterOf t.2.core) then (t.1, { t.2 with spTags := [], ivTags := [] }) else t) }

/-- Complete an HBAR phase: the releases go down to every cluster that arrived, and the tags of its teams are ordered (R402, R410). -/
def State.completeHbar (s : State) (id scope place : Nat) : State :=
  let below := s.clustersUnder id place
  let l := if place = 520 then (s.launch id).mark scope 520 0 else s.launch id
  let l1 := below.foldl (fun (acc : Launch) c => acc.mark scope c 2) l
  let l2 := (List.range 9).foldl (fun (acc : Launch) i => if place = 520 || place = 512 + i then acc.mark scope (512 + i) 0 else acc) l1
  (s.setLaunch id l2).orderTags id below

/-- DETOVF on a launch: delivered to its region through the lowest of its parked groups (R412, R417). -/
def State.detOverflow (s : State) (id : Nat) : State :=
  match s.allSplits.find? (fun r => (s.team r.team).launch = id && (s.splitAt r).st = 5) with
  | some r =>
    let w := s.wordsAt r.team r.grp (s.splitAt r).parkPc
    s.regionTrap r ⟨{ code := 0x16, deferred := true }, (s.splitAt r).parkPc, w.1, w.2, (s.splitAt r).pc⟩
  | none => s

/-- An HBAR phase completes at the top of its scope, once the phase counters can advance; a limit of theirs raises DETOVF (R402, R412). -/
def State.finishHbar (s : State) (id scope place : Nat) : State :=
  let det := (s.launch id).region.det
  if det && decide (4 ≤ scope) && s.sweepOwed then s
  else
    match (if det then s.advancePhase scope place else some s) with
    | some s1 => s1.completeHbar id scope place
    | none => s.detOverflow id

/-- A combiner whose arrivals are complete completes the phase at its own scope, or forwards one arrival; at the domain the arrival enters the tree (R402, R404). -/
def State.combine (s : State) (id scope place : Nat) : State :=
  let top := if scope = 2 then place else if scope = 3 then 512 + place / 64 else 520
  let l := s.launch id
  if scope = 5 && place = 520 then
    let s1 := s.setLaunch id (l.mark scope place 1)
    if l.lrec.dbgrp = 0 then s1 else s1.contribute id l.lrec.dbgrp true {} (fun p => p)
  else if scope != 5 && (place = top || (scope = 3 && decide (512 ≤ place))) then s.finishHbar id scope place
  else s.setLaunch id (l.mark scope place 1)

/-- HBAR_COMBINER_ARRIVAL: at a cluster, an arrived team is counted; at any combiner, a full count completes the phase or goes on upwards (R401, R402). -/
def execHbarCombinerArrival (launch scope place : Nat) (s : State) : Outcome State Fault Refusal :=
  let l := s.launch launch
  let forwarded := AMap.get l.hbar (scope * 4096 + place) 0
  if forwarded != 0 then
    match (if scope = 5 && place = 520 then s.hbarResult launch else none) with
    | some p =>
      let s1 := s.finishHbar launch scope place
      .next (if AMap.get (s1.launch launch).hbar (scope * 4096 + place) 0 = 0 then s1.dropPhase p.dbgrp p.phase true else s1)
    | none => .next s
  else if place < 512 then
    let mine := (s.launchTeams launch).filter (fun t => clusterOf t.2.core = place)
    match mine.find? (fun t => !t.2.hbarDone.contains scope && !t.2.allExited && t.2.hbarReady scope) with
    | none =>
      if !mine.isEmpty && mine.any (fun t => t.2.hbarDone.contains scope) && mine.all (fun t => t.2.hbarDone.contains scope || t.2.allExited) then
        .next (s.combine launch scope place)
      else .next s
    | some t =>
      let s1 := s.setTeam t.1 { t.2 with hbarDone := t.2.hbarDone ++ [scope] }
      let full := mine.all (fun u => u.1 = t.1 || u.2.hbarDone.contains scope || u.2.allExited)
      .next (if full then s1.combine launch scope place else s1)
  else
    let under := s.clustersUnder launch place
    let ok := if place = 520 then
        (ascending (under.map (fun c => c / 64))).all (fun d => l.forwarded scope (512 + d)) else under.all (fun c => l.forwarded scope c)
    if decide (3 ≤ scope) && !under.isEmpty && ok && (place < 520 || decide (4 ≤ scope)) then .next (s.combine launch scope place) else .next s

/-- HBAR_RELEASE: the release reaches a cluster's parked splits, which acquire at the scope (R402). -/
def execHbarRelease (launch scope place : Nat) (s : State) : Outcome State Fault Refusal :=
  let l := s.launch launch
  if AMap.get l.hbar (scope * 4096 + place) 0 != 2 || decide (512 ≤ place) then .next s
  else
    let s1 := s.setLaunch launch (l.mark scope place 0)
    let mine := (s1.launchTeams launch).filter (fun t => clusterOf t.2.core = place && t.2.hbarDone.contains scope)
    .next (mine.foldl (fun (acc : State) t =>
      let t1 := ((acc.team t.1).mapGroups (fun g => { g.wakeIf (fun w => w = .hbar scope) with hbarArr := AMap.erase g.hbarArr scope }))
      let a1 := acc.setTeam t.1 { t1 with hbarDone := t1.hbarDone.filter (· != scope) }
      let a2 := a1.acquireL1 t1.core none
      if t1.paired then a2.acquireL1 (t1.core + 1) none else a2) s1)

/-- TAG_SWEEP: tags more than 256 phases behind are cleared (R412). -/
def execTagSweep (s : State) : Outcome State Fault Refusal :=
  .next { s with l2tags := s.l2tags.filter (fun t => !s.staleTag t.2) }

/-! ### EXIT, SYSC, IDEM -/

/-- EXIT: the active threads exit; barriers may complete, and a handler whose split is freed has ended (R126, R115, R323). -/
def execExit (f : RegForm) (s : State) : Outcome State Fault Refusal :=
  outsideTx "EXIT" s (fun l s1 =>
    let g := s1.groupAt l.ref
    .done (((s1.setGroupAt l.ref (g.exitThreads l.ref.split (g.active (l.self s1) f.mask))).settleBars l.ref.team).nextHandler l.ref.team l.ref.grp))

/-- SYSC: a release at `.sys`, then the request on the region's ring; the split parks while the ring is full (R325). -/
def execSysc (f : RegForm) (s : State) : Outcome State Fault Refusal :=
  checkedTx "SYSC" s (fun l s1 => decide (2 ^ 16 ≤ ((s1.groupAt l.ref).readOpnd (l.self s1) f.a 0).toNat)) (fun l s1 =>
    let g := s1.groupAt l.ref
    let self := l.self s1
    let call := (g.readOpnd self f.a 0).toNat
    if self &&& g.live = 0 then .done s1
    else if logWaits g self then .hold s1
    else
      match s1.release l.ref.team l.ref.grp self 6 none with
      | none => .hold s1
      | some s2 =>
        let la := s2.launchOf l.ref.team
        if s2.ringRoom la.region then
          .done (s2.post la.region { kind := 6, launch := la.id, team := (s2.team l.ref.team).linear, gidx := g.gidx, arg := (g.readOpnd self f.b 0).toNat, pc := l.pc.toNat, call := call })
        else
          .park (s2.parkAt l .sysc))

/-- IDEM: sets or clears the group's flag (R327). -/
def execIdem (f : RegForm) (s : State) : Outcome State Fault Refusal :=
  issue "IDEM" s (fun l s1 => doneGroup l s1 { s1.groupAt l.ref with idem := f.fs = 1 })

end Sys2Proof.Machine
end

