-- ==== Sys2Proof/Machine/Issue.lean ====
section
/-! DEFINITION. Instruction words through translation, the fetches that wait for a page, and the cycle of the arithmetic clock (R24, R59, R321, R394, R457). -/

namespace Sys2Proof.Machine

open Host

/-! ### Fetch (R59, R60, R321, R394) -/

/-- The FETCHF trap of a split (R315, R317). -/
def fetchTrap (cause : Nat) (addr : Word) (m : Half) : TrapReq :=
  { code := 0x0A, aux := cause, addrs := if addr = 0 then [] else (threadsOf m).map (fun t => (t, addr))
    pages := [{ addr := addr.toNat, thr := lowBit 32 m.toNat, fetch := true }] }

/-- The instruction at a split's PC, if it can be fetched and decoded now. -/
def State.upcoming (s : State) (r : SplitRef) : Option Instr :=
  match s.fetch r.team (s.groupAt r).core (s.splitAt r).pc with
  | .words _ w0 w1 =>
    match decodeWords (s.decodeCtx r) w0 w1 with
    | .ok i => some i
    | .error _ => none
  | _ => none

/-- The entry of the launch's side table for an address (R95). -/
def Launch.sideAt (l : Launch) (pc : Word) : Option Nat :=
  l.side.find? (fun e => l.native + e % 2 ^ 32 = pc.toNat)

/-! ### The cycle (R24, R26, R269, R344) -/

/-- Tenths of a MHz of the arithmetic clock (R457, R458, R460). -/
def State.clock (s : State) : Nat :=
  if s.ctl.service = 3 then 6000 - 750 * s.ctl.steps else if s.ctl.service = 2 then 3000 - 375 * s.ctl.steps else 0

/-- One cycle of the arithmetic clock, and the nanoseconds that pass in it (R24, R26). -/
def State.tick (s : State) : State :=
  let f := s.ctl.frac + 10000
  let k := max 1 s.clock
  { s with ctl := { s.ctl with clk := (s.ctl.clk + 1) % 2 ^ 64, time := (s.ctl.time + f / k) % 2 ^ 64, frac := f % k } }

/-- The swaps of the last cycle are over: every bank is read through its active plane (R269). -/
def State.forgetSwaps (s : State) : State :=
  { s with cores := s.cores.map (fun (c : Nat × Core) => (c.1, { c.2 with banks := c.2.banks.map (fun (b : Nat × Bank) => (b.1, { b.2 with before := none })) })) }

/-- A cycle ends and the next begins: the TBs take the updates of the one that ends, and every split may be tried again (R200, R269, R344). -/
def State.newCycle (s : State) : State := { s.settleTbs.forgetSwaps.tick with slotAt := 0, tried := [] }

/-! ### Page requests of a fetch (R321, R394, R451) -/

/-- The split waits in state 2 for a page that the host must supply; the request goes out once. -/
def State.parkFetch (s : State) (r : SplitRef) (va : Word) : State :=
  let djid := (s.launchOf r.team).region.djid
  let page := wd (va.toNat / 4096 * 4096)
  let s1 := s.setSplitAt r { s.splitAt r with st := 2, wait := .fetch va }
  { s1 with pri := if s1.pri.contains (djid, page) then s1.pri else s1.pri ++ [(djid, page)] }

/-- A fetch that fails raises FETCHF on the split, with TRAPPC its PC (R59). -/
def State.fetchFault (s : State) (r : SplitRef) (cause : Nat) (w0 addr : Word) : State :=
  let sp := s.splitAt r
  s.present r ⟨fetchTrap cause addr sp.mask, sp.pc, w0, 0, sp.pc⟩

/-- INSTRUCTION_FETCH: the words of a split's next instruction are fetched ahead of its issue (R59). A failing fetch is raised when the split issues. -/
def execInstructionFetch (r : SplitRef) (s : State) : Outcome State Fault Refusal :=
  let sp := s.splitAt r
  if sp.st != 1 && sp.st != 6 then .next s
  else
    match s.fetch r.team (s.groupAt r).core sp.pc with
    | .words s1 _ _ => .next s1
    | .page va => .next (s.parkFetch r va)
    | .host s1 => .next s1
    | .trap _ _ _ => .next s

/-- The base word at a split's PC, zero where it cannot be fetched: it is held while the extension word waits for its page (R79; log 49). -/
def State.baseWordAt (s : State) (r : SplitRef) : Word :=
  match s.fetchWord r.team (s.groupAt r).core (s.splitAt r).pc with
  | .words _ w _ => w
  | _ => 0

/-- PRI_RESPONSE: Success lets every split that waits for the page fetch again; any other answer raises FETCHF cause 2. A saved team's split fetches again once it is restored (R331, R394, R451). -/
def execPriResponse (djid : Nat) (va : Word) (success : Bool) (s : State) : Outcome State Fault Refusal :=
  let page := wd (va.toNat / 4096 * 4096)
  if !s.pri.contains (djid, page) then .next s
  else
    let s0 := { s with pri := s.pri.filter (fun p => p != (djid, page)) }
    let waits := s0.allSplits.filter (fun r => (s0.launchOf r.team).region.djid = djid &&
      (match (s0.splitAt r).wait with | .fetch a => wd (a.toNat / 4096 * 4096) = page && (s0.splitAt r).st = 2 | _ => false))
    .next (waits.foldl (fun (acc : State) r =>
      let sp := acc.splitAt r
      let saved := (acc.team r.team).saved.isSome
      let a1 := acc.setSplitAt r { sp with st := (if saved then sp.st else sp.ready), wait := .none }
      if success || saved then a1
      else
        a1.fetchFault r 2 (a1.baseWordAt r) (match sp.wait with | .fetch a => a | _ => sp.pc)) s0)

end Sys2Proof.Machine
end

