-- ==== Sys2Proof/Machine/Matrix.lean ====
section
/-! DEFINITION. The matrix engine: descriptors and operand rows, the array order, MMA to MARM, and the events of the array and of peer contributions (R284 to R312). -/

namespace Sys2Proof.Machine

open Host

/-! ### Values and shapes (R286, R287) -/

/-- A tile value. -/
def Tile.at (t : Tile) (i : Nat) : Nat := (AMap.get t.vals i 0).toNat

/-- A tile of given values. -/
def tileOf (f : Nat → Nat) : AMap Half :=
  (List.range 16384).filterMap (fun i => let x := BitVec.ofNat 32 (f i); if x = 0 then none else some (i, x))

/-- Tile `t` of a core. -/
def Core.tile (c : Core) (t : Nat) : Tile := (AMap.find c.tiles t).getD {}
/-- Replace tile `t` of a core. -/
def Core.setTile (c : Core) (t : Nat) (x : Tile) : Core := { c with tiles := AMap.put c.tiles t x }

/-- The multiplication runs on the table path: one log slot of width at most 6 (R287). -/
def tablePath (fa fb : Fmt) (sa sb : Nat) : Bool := sa = sb && fa.kind = 3 && decide (fa.w ≤ 6) && decide (fb.w ≤ 6)

/-- Depth K (R287). -/
def matrixDepth (fa fb : Fmt) (sa sb : Nat) (sparse : Bool) : Nat :=
  let w := max fa.w fb.w
  (if tablePath fa fb sa sb || w ≤ 4 then 512 else if w ≤ 8 then 256 else 128) * (if sparse then 2 else 1)

/-! ### Descriptors (R289, R290) -/

/-- FSLOT of a descriptor. -/
def descSlot (d : Word) : Nat := fld d 39 36
/-- BS of a descriptor. -/
def descBs (d : Word) : Bool := d.getLsbD 40
/-- STRIDE of a descriptor. -/
def descStride (d : Word) : Nat := fld d 35 20
/-- OFF of a descriptor. -/
def descOff (d : Word) : Nat := fld d 19 0
/-- META of an A descriptor. -/
def descMeta (d : Word) : Nat := fld d 61 42
/-- CB of a B descriptor. -/
def descCb (d : Word) : Bool := d.getLsbD 42

/-- A reserved bit of an A descriptor is set (R289, R290). -/
def badDescA (sparse : Bool) (d : Word) : Bool := d.getLsbD 41 || fld d 63 62 != 0 || (!sparse && fld d 61 42 != 0)

/-- A reserved bit of a B descriptor is set, a global B has a non-zero OFF, or BANK lies outside the launch's mask (R77, R289, R298, R299). A reserved NPI or IW is compared with the plane's like any other. -/
def badDescB (stream : Bool) (bmask : Nat) (d : Word) : Bool :=
  d.getLsbD 41 || fld d 63 51 != 0 || (!descCb d && fld d 50 43 != 0) ||
    (descCb d && !bitAt bmask (fld d 45 43)) || (stream && descOff d != 0)

/-- Bytes of one row of `k` codes of width `w` (R290); with BS = 1 those of block records, with CB = 1 too (log 106). -/
def rowBytes (d : Word) (cb sparse : Bool) (w k : Nat) : Nat :=
  if descBs d then k / 32 * (1 + 4 * w)
  else if cb then ceilDiv (k * iwOf (fld d 48 46)) (8 * npiOf (fld d 50 49))
  else if sparse then k * w / 16 else k * w / 8

/-- The element of a row: its code, and its value (R51, R290). -/
structure MatEl where
  code : Nat
  val : Ex
  deriving DecidableEq, Repr

/-- Element `k` of a row of codes or block records held as a number. -/
def rowElem (d : Word) (F : Fmt) (row k : Nat) : MatEl :=
  if descBs d then
    let base := 8 * (k / 32 * (1 + 4 * F.w))
    let c := (row >>> (base + 8 + k % 32 * F.w)) % 2 ^ F.w
    ⟨c, scaledEx ((row >>> base) % 256) (decodeCode F c)⟩
  else
    let c := (row >>> (k * F.w)) % 2 ^ F.w
    ⟨c, decodeCode F c⟩

/-- Element `k` of a row of codebook indices, and whether its index is invalid under POL = 0 (R268, R299). -/
def rowCoded (d : Word) (F : Fmt) (p : Plane) (row k : Nat) : MatEl × Bool :=
  let n := npiOf (fld d 50 49)
  let iw := iwOf (fld d 48 46)
  match p.entry ((row >>> (k / n * iw)) % 2 ^ iw) with
  | some e => let c := elemOf F.w e (k % n); (⟨c, decodeCode F c⟩, false)
  | none => (⟨0, decodeCode F 0⟩, !p.pol)

/-- Element `k` of a dense row rebuilt from a 2:4 row and its metadata (R300). -/
def rowSparse (F : Fmt) (row info k : Nat) : MatEl :=
  let g := k / 4
  let m0 := (info >>> (4 * g)) % 4
  let m1 := (info >>> (4 * g + 2)) % 4
  let j0 := if m0 < m1 then m0 else 0
  let j1 := if m0 < m1 then m1 else 1
  let get := fun (i : Nat) => let c := (row >>> (i * F.w)) % 2 ^ F.w; (⟨c, decodeCode F c⟩ : MatEl)
  if k % 4 = j0 then get (2 * g) else if k % 4 = j1 then get (2 * g + 1) else ⟨0, .zero false⟩

/-- The product of two elements: by code addition on the table path, else exact (R298, R47). -/
def matProduct (table : Bool) (F : Fmt) (a b : MatEl) : Ex := if table then codeProduct F a.code b.code else exMul a.val b.val

/-- Products of two rows, in order of k. -/
def matProducts (table : Bool) (F : Fmt) (xs ys : List MatEl) : List Ex :=
  match xs, ys with
  | x :: xs', y :: ys' => matProduct table F x y :: matProducts table F xs' ys'
  | _, _ => []

/-- Add the chunk sums of products into an accumulator, ascending (R298, R55). -/
def chunkSums (fuel acc : Nat) (ps : List Ex) : Nat :=
  match fuel with
  | 0 => acc
  | n + 1 => if ps.isEmpty then acc else chunkSums n (accAdd acc (encode1 accFmt (exSum false (ps.take 32)) 0)) (ps.drop 32)

/-! ### Scratchpad and global ranges -/

/-- The cell of a team-space scratchpad offset (R214). -/
def State.teamCell (s : State) (team off : Nat) : Cell :=
  { loc := (s.spLoc (team, none) off).getD (.sp team 0 off), path := .home, va := off }

/-- `n` scratchpad bytes of a team as a number. -/
def State.teamBytes (s : State) (team off n : Nat) : Nat := leNat ((List.range n).map (fun i => s.peek (s.teamCell team (off + i))))

/-- Bytes of a team's scratchpad space. -/
def State.teamSpace (s : State) (team : Nat) : Nat := (s.launchOf team).lrec.scratch * (if (s.team team).paired then 2 else 1)

/-- The 64 KiB chunks of the byte intervals [lo, lo + n). -/
def spanChunks (xs : List (Nat × Nat)) : List Nat :=
  (xs.flatMap (fun x => (List.range ((x.1 + x.2 - 1) / 65536 - x.1 / 65536 + 1)).map (fun i => x.1 / 65536 + i))).eraseDups

/-- The lowest address of a chunk within the intervals. -/
def chunkStart (xs : List (Nat × Nat)) (c : Nat) : Nat :=
  xs.foldl (fun best x => if x.1 / 65536 ≤ c && c ≤ (x.1 + x.2 - 1) / 65536 then min best (max x.1 (c * 65536)) else best) ((c + 1) * 65536 - 1)

/-- What the translation of global intervals gives. -/
inductive Spans where
  | ok (s : State) (m : ChunkMap)
  | trap (t : TrapReq)
  | need (ps : List NeedPage)
  | wait (s : State)

/-- Translate the intervals of a global range page by page: pages before the first that faults ask for service, and a fault with none before it ends the operation (R235, R301, R306, R363, R517). -/
def State.xlateSpans (s : State) (x : XCtx) (write : Bool) (xs : List (Nat × Nat)) : Spans :=
  let chunks := spanChunks xs
  let m := s.xlateChunks x (if write then .write else .read) chunks
  let bytes := chunks.map (fun c => (0, chunkStart xs c))
  let clear := bytes.takeWhile (fun b => match m.result b.2 with | some (.fault _ _) => false | _ => true)
  let scan := scanPages m write (if (scanPages m write clear).needs.isEmpty then bytes else clear)
  if !scan.faults.isEmpty then .trap (scan.trap (faultAddrs m bytes))
  else if !scan.needs.isEmpty then .need scan.needs
  else
    let s1 := s.fillChunks x m
    let host := (chunks.filter (fun c => match m.leaf (c * 65536) with | some l => l.place = 2 | none => false)).flatMap (fun c =>
      (List.range 16).filterMap (fun i =>
        let lo := c * 65536 + i * 4096
        let used := xs.foldl (fun (b : Nat) y => if lo < y.1 + y.2 && y.1 < lo + 4096 then min b (max y.1 lo) else b) (lo + 4096)
        if used < lo + 4096 then (m.leaf used).map (fun l => l.cell used 0 true none) else none))
    match s1.atsMissing host with
    | [] => .ok s1 m
    | ps => .wait { s1 with atsWaits := (s1.atsWaits ++ ps).eraseDups }

/-- The cells of `n` bytes from a global address under a chunk map, at their homes. -/
def spanCells (m : ChunkMap) (va n : Nat) : List Cell := placeCells m 0 true none false (spanFrom (wd va) n)

/-- Read `n` bytes under a chunk map as a number. -/
def State.spanRead (s : State) (m : ChunkMap) (va n : Nat) : Nat := leNat ((spanCells m va n).map s.peek)

/-! ### The array order (R288, R293 to R297) -/

/-- Cores of a matrix instruction: both of the pair, or the issuing core (R294). -/
def MatrixOp.cores (o : MatrixOp) (core : Nat) : List Nat := if o.paired then [core, core + 1] else [core]

/-- The group is the leader's and SOLO is 0 on a paired team (R294). -/
def State.drivesPair (s : State) (team : Nat) (g : Group) (f : RegForm) : Bool :=
  (s.team team).paired && g.core = (s.team team).core && !f.mod.getLsbD 1

/-- Room for one more instruction in the order of a core (R295). -/
def Core.orderRoom (c : Core) : Bool := decide (c.order.length < 4)

/-- A group of a paired team on the follower waits while a paired instruction stands in its order (R208, R294). -/
def State.pairBlocks (s : State) (team core : Nat) : Bool :=
  (s.team team).paired && core != (s.team team).core && (s.core core).order.any (fun o => o.copy)

/-- Next number of an order. -/
def Core.nextOp (c : Core) : Nat := c.order.foldl (fun n o => max n (o.id + 1)) 0

/-- Enter an instruction in the order of its core, and of the follower's for a paired one; its status is a pending write (R294 to R296). -/
def enqueueMatrix (f : RegForm) (l : Latch) (s : State) (o : MatrixOp) : State :=
  let g := s.groupAt l.ref
  let c := s.core g.core
  let id := c.nextOp
  let full : MatrixOp := { o with
    id := id, team := l.ref.team, grp := l.ref.grp, split := l.ref.split, inst := g.nextInst, pc := l.pc, w0 := l.w0, tile := f.fs.toNat
    reg := (match f.d with | .g n => some (192 + n.val) | _ => none), mod := f.mod.toNat
    fmts := (List.range 16).map (fun n => (n, g.readF n)), active := l.self s, event := g.event, rngc := g.rngc
    opmask := natOfBool (isUni f.a) + 2 * natOfBool (isUni f.b) + 4 * natOfBool (isUni f.c) }
  let s1 := s.setCore g.core { c with order := c.order ++ [full] }
  let s2 := if o.paired then
      let d := s1.core (g.core + 1)
      s1.setCore (g.core + 1) { d with order := d.order ++ [{ full with copy := true }] }
    else s1
  match full.reg with
  | some r => s2.setGroupAt l.ref ((s2.groupAt l.ref).addPend g.nextInst l.pc r (l.self s) f.la.toNat [] .unit)
  | none => s2

/-- What every matrix instruction that names a tile meets before its own checks: a transaction, then (with `body`) its traps, its place in the order. -/
def matrixIssue (name : String) (f : RegForm) (s : State) (illop : Latch → State → Bool) (checks : Latch → State → Group → Bool → List (Option TrapReq))
    (body : Latch → State → Group → Bool → Res) : Outcome State Fault Refusal :=
  checkedTx name s illop (fun l s1 =>
    let g := s1.groupAt l.ref
    let paired := s1.drivesPair l.ref.team g f
    match firstTrap (checks l s1 g paired) with
    | some t => .trap t
    | none =>
      if !paired && s1.pairBlocks l.ref.team g.core then
        .park (s1.parkAt l .paired)
      else if !(s1.core g.core).orderRoom || (paired && !(s1.core (g.core + 1)).orderRoom) then .full s1
      else body l s1 g paired)

/-- MASKPART unless the split holds every live and demoted thread (R293). -/
def maskPart (l : Latch) (s : State) (g : Group) : Option TrapReq := if l.self s = g.present then none else some trapMaskPart

/-! ### MMA and MMAS at issue -/

/-- B descriptor, stream address and A descriptor of an MMA (R298). -/
def mmaOperands (f : RegForm) (g : Group) (self : Half) : Word × Word × Word :=
  let stream := f.mod.getLsbD 0
  (g.readOpnd self f.a 0, if stream then g.readOpnd self f.c 0 else g.readOpnd self f.b 0, if stream then g.readOpnd self f.b 0 else 0)

/-- Rows of A: 128 per driven array (R288, R294). -/
def rowsA (paired : Bool) : Nat := if paired then 256 else 128

/-- One past the last byte of `rows` rows from `off`. -/
def rowsEnd (off stride rows bytes : Nat) : Nat := off + (rows - 1) * stride + bytes

/-- FMTERR checks of the operands of MMA and MMAS (R287, R290). -/
def mmaFmtTrap (sparse : Bool) (da db : Word) (fa fb : Fmt) : Option TrapReq :=
  if decide (16 < fa.w) || decide (16 < fb.w) then some (trapFmt 6)
  else if descBs da != (fa.blk = 1) && !(sparse && descBs da) then some (trapFmt 7)
  else if descBs db != (fb.blk = 1) then some (trapFmt 7)
  else if sparse && descBs da then some (trapFmt 9)
  else none

/-- CBSHAPE of a coded B: FSLOT and shape of the active plane (R267, R299). -/
def mmaShapeTrap (db : Word) (p : Plane) : Option TrapReq :=
  if !descCb db then none
  else if p.fslot != descSlot db then some { code := 0x06, aux := 1 }
  else if p.iw != fld db 48 46 || p.npi != fld db 50 49 then some { code := 0x06, aux := 2 }
  else none

/-- A descriptor that raises ILLOP 0x09 (R77, R290, R298, R299). -/
def mmaIllop (sparse : Bool) (f : RegForm) (l : Latch) (s : State) : Bool :=
  let ops := mmaOperands f (s.groupAt l.ref) (l.self s)
  badDescA sparse ops.1 || badDescB (f.mod.getLsbD 0) (s.launchOf l.ref.team).lrec.bmask ops.2.1

/-- Checks of MMA and MMAS in the order of R314. -/
def mmaChecks (sparse : Bool) (f : RegForm) (l : Latch) (s : State) (g : Group) (paired : Bool) : List (Option TrapReq) :=
  let self := l.self s
  let ops := mmaOperands f g self
  let da := ops.1
  let db := ops.2.1
  let stream := f.mod.getLsbD 0
  let fa := g.fmt (descSlot da)
  let fb := g.fmt (descSlot db)
  let k := matrixDepth fa fb (descSlot da) (descSlot db) sparse
  let space := s.teamSpace l.ref.team
  let rows := rowsA paired
  let ra := rowBytes da false sparse fa.w k
  let rb := rowBytes db (descCb db) false fb.w k
  let b := ops.2.2
  let hi := rowsEnd b.toNat (descStride db) 128 rb
  let beyond := decide (space < rowsEnd (descOff da) (descStride da) rows ra) ||
    (sparse && decide (space < rowsEnd (descMeta da) (k / 8) rows (k / 8))) ||
    (!stream && decide (space < rowsEnd (descOff db) (descStride db) 128 rb))
  [ mmaFmtTrap sparse da db fa fb,
    mmaShapeTrap db ((s.core g.core).bank (fld db 45 43)).reads,
    maskPart l s g,
    if stream && decide (2 ^ 57 < hi) then some (trapUniformAddr 0x08 1 b self false) else none,
    if beyond then some (trapUniformAddr 0x08 2 (wd (descOff da)) self false) else none,
    if descCb db then s.bookUce g.core (fld db 45 43) ((s.core g.core).bank (fld db 45 43)).side [256] else none ]

/-- Register the range-lock entry of a matrix instruction (R301, R306, R348): its number, or none where the table is full. -/
def State.lockRange (s : State) (core djid lo hi : Nat) (write : Bool) : Option (State × Nat) :=
  let k := clusterOf core
  let c := s.cluster k
  if 64 ≤ c.locks.length then none
  else some (s.setCluster k { c with
    locks := c.locks ++ [{ tag := 0, seq := c.nextSeq, core := core, djid := djid, lo := lo, hi := hi, write := write }], nextSeq := c.nextSeq + 1 }, c.nextSeq)

/-- Remove the range-lock entries of a registration. -/
def State.unlock (s : State) (core seq : Nat) : State :=
  let k := clusterOf core
  let c := s.cluster k
  s.setCluster k { c with locks := c.locks.filter (fun x => x.seq != seq) }

/-- Two lock entries conflict: they overlap and one is in mode W (R349). -/
def RangeLock.conflicts (a b : RangeLock) : Bool :=
  (a.write || b.write) && a.sp = b.sp && (a.sp.isSome || a.djid = b.djid) && decide (a.lo < b.hi) && decide (b.lo < a.hi)

/-- No earlier registration conflicts with one of registration `seq` (R349). -/
def State.lockFree (s : State) (core seq : Nat) : Bool :=
  let ks := (s.cluster (clusterOf core)).locks
  (ks.filter (fun k => k.seq = seq)).all (fun k => ks.all (fun e => !(decide (e.seq < seq) && e.conflicts k)))

/-- A global range of a matrix instruction at issue: its faults trap, its missing pages are requested, and its range is locked if asked (R301, R304, R306). -/
def matrixGlobal (f : RegForm) (l : Latch) (s : State) (o : MatrixOp) (xs : List (Nat × Nat)) (write lock : Bool) : Res :=
  let g := s.groupAt l.ref
  let x := s.dieCtx l.ref.team g.core
  let lo := xs.foldl (fun n y => min n y.1) (2 ^ 64)
  let hi := xs.foldl (fun n y => max n (y.1 + y.2)) 0
  let go := fun (s1 : State) (waits : List (Nat × Nat)) =>
    if lock then
      match s1.lockRange g.core x.djid lo hi write with
      | none => Res.full s1
      | some (s2, k) => Res.done (enqueueMatrix f l s2 { o with lock := some k, waits := waits })
    else Res.done (enqueueMatrix f l s1 { o with waits := waits })
  match s.xlateSpans x write xs with
  | .trap t => .trap t
  | .wait s1 => .hold s1
  | .ok s1 _ => go s1 []
  | .need ps =>
    let region := (s.launchOf l.ref.team).region
    if lock && 64 ≤ (s.cluster (clusterOf g.core)).locks.length then .full s
    else
      let q : Requester := { launch := (s.launchOf l.ref.team).id, engine := true }
      let r := s.requestPages (dieOf g.core) x.djid region q (.matrix g.core (s.core g.core).nextOp) ps
      go r.1 r.2

/-- An MMA or MMAS as it enters the order: operand words, the plane it reads, the scratchpad intervals it reads (R269, R296, R310). -/
def mmaOp (sparse : Bool) (f : RegForm) (l : Latch) (s : State) (g : Group) (paired : Bool) : MatrixOp :=
  let ops := mmaOperands f g (l.self s)
  let da := ops.1
  let db := ops.2.1
  let fa := g.fmt (descSlot da)
  let fb := g.fmt (descSlot db)
  let k := matrixDepth fa fb (descSlot da) (descSlot db) sparse
  let rows := rowsA paired
  { id := 0, kind := if sparse then .mmas else .mma, team := 0, grp := 0, split := 0, inst := 0, pc := 0, w0 := 0, tile := 0, paired := paired
    a := da, b := db, c := ops.2.2
    plane := if descCb db then some ((s.core g.core).bank (fld db 45 43)).reads else none
    side := ((s.core g.core).bank (fld db 45 43)).side
    reads := [(descOff da, rowsEnd (descOff da) (descStride da) rows (rowBytes da false sparse fa.w k))] ++
      (if sparse then [(descMeta da, rowsEnd (descMeta da) (k / 8) rows (k / 8))] else []) ++
      (if f.mod.getLsbD 0 then [] else [(descOff db, rowsEnd (descOff db) (descStride db) 128 (rowBytes db (descCb db) false fb.w k))]) }

/-- MMA and MMAS at issue. -/
def mmaIssue (name : String) (sparse : Bool) (f : RegForm) (s : State) : Outcome State Fault Refusal :=
  matrixIssue name f s (mmaIllop sparse f) (mmaChecks sparse f) (fun l s1 g paired =>
    let o := mmaOp sparse f l s1 g paired
    if f.mod.getLsbD 0 then
      let fb := g.fmt (descSlot o.b)
      let k := matrixDepth (g.fmt (descSlot o.a)) fb (descSlot o.a) (descSlot o.b) sparse
      let rb := rowBytes o.b (descCb o.b) false fb.w k
      matrixGlobal f l s1 o [(o.c.toNat, rowsEnd 0 (descStride o.b) 128 rb)] false true
    else .done (enqueueMatrix f l s1 o))

/-- MMA (R298). -/
def execMma (f : RegForm) (s : State) : Outcome State Fault Refusal := mmaIssue "MMA" false f s
/-- MMAS (R300). -/
def execMmas (f : RegForm) (s : State) : Outcome State Fault Refusal := mmaIssue "MMAS" true f s

/-! ### MZERO, MLDA, MDRAIN, MARM, MWAIT, MSEL24 at issue -/

/-- An order entry with no operands. -/
def plainOp (kind : MatrixKind) (paired : Bool) : MatrixOp :=
  { id := 0, kind := kind, team := 0, grp := 0, split := 0, inst := 0, pc := 0, w0 := 0, tile := 0, paired := paired }

/-- MZERO (R303). -/
def execMzero (f : RegForm) (s : State) : Outcome State Fault Refusal :=
  matrixIssue "MZERO" f s (fun _ _ => false) (fun l s1 g _ => [maskPart l s1 g]) (fun l s1 _ paired => .done (enqueueMatrix f l s1 (plainOp .mzero paired)))

/-- Row intervals of MLDA and MDRAIN: row r at a + r·stride modulo 2^64 (R304 to R306). -/
def rowSpans (a : Word) (stride : Word) (rows bytes : Nat) : List (Nat × Nat) :=
  (List.range rows).map (fun r => ((a + wd r * stride).toNat, bytes))

/-- Stride of MLDA and of MDRAIN `.mem`; vz gives 512 (R304, R306). -/
def rowStride (f : RegForm) (g : Group) (self : Half) (natural : Nat) : Word :=
  match f.b with
  | .g _ => g.readOpnd self f.b 0
  | _ => wd natural

/-- ALIGN of an address and stride that must be multiples of 4 (R304, R306). -/
def align4 (a stride : Word) (self : Half) (write : Bool) : Option TrapReq :=
  if a.toNat % 4 != 0 || stride.toNat % 4 != 0 then some (trapUniformAddr 0x07 0 a self write) else none

/-- PROT of the rows of a range (R211). -/
def State.rowsTrap (s : State) (l : Latch) (g : Group) (space : Space) (xs : List (Nat × Nat)) (write : Bool) : Option TrapReq :=
  let bad := xs.findSome? (fun x =>
    (s.boundsCause l.ref.team g.core space { thr := 0, ea := wd x.1, va := [x.1, x.1 + x.2 - 1] }).map (fun c => (c, x.1)))
  bad.map (fun b => trapUniformAddr 0x08 b.1 (wd b.2) (l.self s) write)

/-- MLDA (R304). -/
def execMlda (f : RegForm) (s : State) : Outcome State Fault Refusal :=
  let spans := fun (g : Group) (self : Half) (paired : Bool) =>
    rowSpans (g.readOpnd self f.a 0) (rowStride f g self 512) (rowsA paired) 512
  matrixIssue "MLDA" f s (fun _ _ => false)
    (fun l s1 g paired =>
      let self := l.self s1
      [maskPart l s1 g, align4 (g.readOpnd self f.a 0) (rowStride f g self 512) self false,
       s1.rowsTrap l g (formSpace f) (spans g self paired) false])
    (fun l s1 g paired =>
      let self := l.self s1
      let o := { plainOp .mlda paired with a := g.readOpnd self f.a 0, b := rowStride f g self 512 }
      if formSpace f = .scratch then
        .done (enqueueMatrix f l s1 { o with reads := (spans g self paired).map (fun x => (x.1 % 2 ^ 32, x.1 % 2 ^ 32 + x.2)) })
      else matrixGlobal f l s1 o (spans g self paired) false false)

/-- MODE of MDRAIN: 0 `.sp`, 1 `.mem`, 2 `.peer`. -/
def drainMode (mod : Nat) : Nat := mod / 8 % 4
/-- Slot of MDRAIN `.sp`. -/
def drainSlot (mod : Nat) : Nat := mod / 32 % 16

/-- Bytes of the natural row of a drain (R305). -/
def drainRow (F : Fmt) : Nat := if F.blk = 1 then 4 * (1 + 4 * F.w) else 16 * F.w

/-- PROT 9 of a peer target or index (R307). -/
def peerTrap (f : RegForm) (g : Group) (self : Half) (paired : Bool) : Option TrapReq :=
  let a := g.readOpnd self f.a 0
  let b := g.readOpnd self f.b 0
  if fld a 63 24 != 0 || (paired && fld a 2 0 % 2 = 1) then some (trapUniformAddr 0x08 9 a self true)
  else if isUni f.b && fld b 63 16 != 0 then some (trapUniformAddr 0x08 9 b self true)
  else none

/-- MDRAIN (R305 to R307). A split with no live thread discards it with status 4 (R293). The slot of `.sp` may be wider than 16 bits (R287; log 106). -/
def execMdrain (f : RegForm) (s : State) : Outcome State Fault Refusal :=
  let mode := drainMode f.mod.toNat
  let fmt := fun (g : Group) => g.fmt (drainSlot f.mod.toNat)
  let bytes := fun (g : Group) => if mode = 0 then drainRow (fmt g) else 512
  let spans := fun (g : Group) (self : Half) (paired : Bool) =>
    rowSpans (g.readOpnd self f.a 0) (rowStride f g self (bytes g)) (rowsA paired) (bytes g)
  outsideTx "MDRAIN" s (fun l s0 =>
    let g0 := s0.groupAt l.ref
    if l.self s0 &&& g0.live = 0 then
      .discard (s0.setGroupAt l.ref (g0.writeLate (l.self s0) l.pc f 4))
    else
      let g := g0
      let self := l.self s0
      let paired := s0.drivesPair l.ref.team g f
      let det := s0.det l.ref.team
      match firstTrap
        [ if mode = 0 && (fmt g).rnd = 5 then some (trapFmt 8) else none,
          maskPart l s0 g,
          if det && ((mode = 1 && f.mod.getLsbD 2) || (mode = 2 && !isUni f.b)) then some trapDetOp else none,
          if mode = 1 then align4 (g.readOpnd self f.a 0) (rowStride f g self 512) self true else none,
          if mode = 2 then peerTrap f g self paired else s0.rowsTrap l g (if mode = 0 then .scratch else .glob) (spans g self paired) true ] with
      | some t => .trap t
      | none =>
        if logWaits g self then .hold s0
        else if !paired && s0.pairBlocks l.ref.team g.core then
          .park (s0.parkAt l .paired)
        else if !(s0.core g.core).orderRoom || (paired && !(s0.core (g.core + 1)).orderRoom) then .full s0
        else
          let o := { plainOp .mdrain paired with
            a := g.readOpnd self f.a 0, b := if mode = 2 then g.readOpnd self f.b 0 else rowStride f g self (bytes g), bNone := !isUni f.b }
          if mode = 1 then matrixGlobal f l s0 o (spans g self paired) true true else .done (enqueueMatrix f l s0 o))

/-- MARM (R308): no effect for a split with no live thread (R293). A leader group arms the tile of its own core alone (log 95); a count of 0 traps before the discard (log 106). -/
def execMarm (f : RegForm) (s : State) : Outcome State Fault Refusal :=
  matrixIssue "MARM" f s (fun l s1 => (s1.groupAt l.ref).readOpnd (l.self s1) f.a 0 &&& 0xFFFF = 0)
    (fun l s1 g _ =>
      let self := l.self s1
      if self &&& g.live = 0 then []
      else
        [ maskPart l s1 g,
          match s1.placeTb l (g.readOpnd self f.b 0) true with | .error t => some t | .ok _ => none ])
    (fun l s1 g _ =>
      let self := l.self s1
      if self &&& g.live = 0 then .done s1
      else
        match s1.placeTb l (g.readOpnd self f.b 0) true with
        | .error t => .trap t
        | .ok (team, side, off) =>
          .done (enqueueMatrix f l s1 { plainOp .marm false with a := g.readOpnd self f.a 0, b := wd (team * 2 + side), c := wd off }))

/-- Matrix instructions of a group before number `inst` that name a tile, 4 for any (R309). -/
def State.matrixOwed (s : State) (team grp tile inst : Nat) : Bool :=
  let owed := fun (o : MatrixOp) => o.team = team && o.grp = grp && (tile = 4 || o.tile = tile) && decide (o.inst < inst)
  s.cores.any (fun c => c.2.order.any owed) || (s.team team).savedOps.any (fun x => owed x.2)

/-- MWAIT: waits in state 5, then acquires at `.clu` (R309). -/
def execMwait (f : RegForm) (s : State) : Outcome State Fault Refusal :=
  outsideTx "MWAIT" s (fun l s1 =>
    let g := s1.groupAt l.ref
    let tile := if RegForm.flag f then 4 else f.fs.toNat
    if s1.pairBlocks l.ref.team g.core then .park (s1.parkAt l .paired)
    else if s1.matrixOwed l.ref.team l.ref.grp tile g.nextInst then .done (s1.parkAt l (.matrix tile g.nextInst))
    else .done (s1.acquire l.ref.team l.ref.grp 2 none))

/-- `x` is kept before `y`: larger magnitude, NaN largest (R302). -/
def selLarger (x y : Ex) : Bool := (x = .nan && y != .nan) || (x != .nan && y != .nan && exLt y.abs x.abs)

/-- The two in-group positions that MSEL24 keeps, ascending (R302). -/
def selTwo (xs : List Ex) : Nat × Nat :=
  let beats := fun (i j : Nat) => selLarger (xs.getD i .nan) (xs.getD j .nan) || (!selLarger (xs.getD j .nan) (xs.getD i .nan) && decide (i < j))
  let kept := (List.range 4).filter (fun i => ((List.range 4).filter (fun j => j != i && beats j i)).length < 2)
  (kept.getD 0 0, kept.getD 1 1)

/-- The words MSEL24 forms from one thread word (R302). -/
def selWords (F : Fmt) (a : Word) : Word × Word :=
  let es := elemsOf F.w F.k a
  let picks := (List.range (F.k / 4)).map (fun g => selTwo ((List.range 4).map (fun j => decodeCode F (es.getD (4 * g + j) 0))))
  (wordOfElems F.w ((picks.zipIdx).flatMap (fun p => [es.getD (4 * p.2 + p.1.1) 0, es.getD (4 * p.2 + p.1.2) 0])),
   wordOfElems 4 (picks.map (fun p => p.2 * 4 + p.1)))

/-- MSEL24 (R302); a slot wider than 16 bits is cause 0x08 (R287; log 106). -/
def execMsel24 (f : RegForm) (s : State) : Outcome State Fault Refusal :=
  issue "MSEL24" s (fun l s1 =>
    let g := s1.groupAt l.ref
    let self := l.self s1
    let act := g.active self f.mask
    let F := g.fmt f.fs.toNat
    if F.k % 4 != 0 then .trap (trapFmt 8)
    else if s1.pairBlocks l.ref.team g.core then .park (s1.parkAt l .paired)
    else
      let src := g.readOpnd self f.a
      let g1 := g.writeOpnd f.d act (fun t => (selWords F (src t)).1)
      doneGroup l s1 (g1.writeOpnd (tupleAt f.d 1) act (fun t => (selWords F (src t)).2)))

/-! ### Peer contributions (R307, R308, R488) -/

/-- The resident team on a core that a contribution's context and tile name. -/
def State.tileTeam (s : State) (djid core tile : Nat) : Option Nat :=
  (s.teams.find? (fun t => t.2.saved.isNone && t.2.onCore core && (s.launch t.2.launch).region.djid = djid && bitAt (s.launch t.2.launch).lrec.tmask tile)).map (fun t => t.1)

/-- Add a contribution's values to a tile, element by element (R308). -/
def Tile.addAll (t : Tile) (vals : AMap Half) : Tile :=
  { t with vals := tileOf (fun i => match AMap.find vals i with | some v => accAdd (t.at i) v.toNat | none => accAdd (t.at i) 0) }

/-- What an armed tile does with a contribution: none while it must wait, else whether it is added. `twin` says that one of its index has arrived before it and is held (R308). -/
def Tile.verdict (t : Tile) (det twin : Bool) (index : Option Nat) : Option Bool :=
  match t.armed with
  | none => none
  | some a =>
    match index with
    | none => some (!det)
    | some i =>
      if a.count ≤ i || t.seen.contains i || twin then some false
      else if det then (if i = t.seen.length then some true else none)
      else some true

/-- The status of a local drain's contribution, and one contribution fewer to be answered (R296, R307). -/
def State.answerDrain (s : State) (core id status : Nat) : State :=
  let c := s.core core
  s.setCore core { c with order := c.order.map (fun o => if o.id = id && !o.copy then { o with peers := o.peers - 1, status := max o.status status } else o) }

/-- Answer a contribution: a local drain, or the first copies of its requests (R488). -/
def State.answerContribution (s : State) (x : Contribution) (added : Bool) (respond : State → Packet → Bool → State) : State :=
  match x.drain with
  | some d => s.answerDrain d.1 d.2 (if added then 0 else 3)
  | none => x.pkts.foldl (fun acc p => respond acc p added) s

/-- Handle the first contribution that can be handled now: it is added or refused, and the arming may complete (R308). -/
def State.takeContribution (s : State) (respond : State → Packet → Bool → State) : Option State :=
  let step := fun (x : Contribution × Nat) =>
    match x.1.vals with
    | none => none
    | some vals =>
      let c := s.core x.1.core
      let t := c.tile x.1.tile
      let det := match s.tileTeam x.1.djid x.1.core x.1.tile with | some u => s.det u | none => false
      let twin := (s.fab.contribs.take x.2).any (fun y => y.vals.isSome && y.core = x.1.core && y.tile = x.1.tile && y.djid = x.1.djid && y.index = x.1.index)
      match t.verdict det twin x.1.index, t.armed with
      | some added, some a =>
        let s0 := { s with fab := { s.fab with contribs := s.fab.contribs.eraseIdx x.2 } }
        let got := a.got + 1
        let full := added && got = a.count
        let t1 := if added then
            let u := t.addAll vals
            { u with seen := if full then [] else match x.1.index with | some i => u.seen ++ [i] | none => u.seen
                     armed := if full then none else some { a with got := got } }
          else t
        let s1 := s0.setCore x.1.core ((s0.core x.1.core).setTile x.1.tile t1)
        let s2 := if full then s1.updateTb a.team a.side a.off 1 0 0 0 else s1
        some (s2.answerContribution x.1 added respond)
      | _, _ => none
  s.fab.contribs.zipIdx.findSome? step

/-- Handle at most `fuel` contributions. -/
def State.takeSome (s : State) (respond : State → Packet → Bool → State) (fuel : Nat) : State :=
  match fuel with
  | 0 => s
  | n + 1 =>
    match s.takeContribution respond with
    | some s1 => s1.takeSome respond n
    | none => s

/-- Handle contributions while any can be handled. -/
def State.takeContributions (s : State) (respond : State → Packet → Bool → State) : State := s.takeSome respond s.fab.contribs.length

/-- The response to a DRAIN request, once its contribution is added or refused: COUNT is 1 for a refusal (R477, R488, log 24). -/
def drainResponse (s : State) (p : Packet) (added : Bool) : State :=
  s.answerRequest p { responseTo p 0 [] with count := if added then 0 else 1 }

/-- The 256-byte DRAIN requests of a tile (R488): VA holds the byte offset in the tile; COUNT is 1 where there is no index (log 24). -/
def drainPackets (dest src djid rtag core tile : Nat) (index : Option Nat) (vals : AMap Half) : List Packet :=
  (List.range 256).map (fun i =>
    { eseq := 0, djid := djid, dest := dest, src := src, va := 256 * i, len := 256, op := 0x08, resp := false, rel := false, acq := false, resent := false
      rtag := rtag, asz := false, sub := 0, index := index.getD 0, tile := tile, core := core, count := natOfBool index.isNone
      data := (List.range 64).flatMap (fun j => leBytes 4 (AMap.get vals (64 * i + j) 0).toNat) })

/-! ### The array (R297 to R308) -/

/-- Format definition `n` as a matrix instruction read it. -/
def MatrixOp.fmt (o : MatrixOp) (n : Nat) : Fmt := fmtOf (AMap.get o.fmts n 0)

/-- Mark a tile invalid. -/
def State.spoilTile (s : State) (core tile : Nat) : State :=
  let c := s.core core
  s.setCore core (c.setTile tile { c.tile tile with invalid := true })

/-- Set the whole of a tile, valid and protected anew (R303, R304, R399). -/
def State.loadTile (s : State) (core tile : Nat) (vals : AMap Half) : State :=
  let c := s.core core
  (if s.bad.isEmpty then s else s.clearBad (fun p => match p with | .tile a b _ => a = core && b = tile | _ => false)).setCore core
    (c.setTile tile { c.tile tile with vals := vals, invalid := false })

/-- The rows of the B operand, and whether an index was invalid under POL = 0 (R290, R299). A codebook row is indices with no scale, with BS = 1 too (log 106). -/
def matrixB (o : MatrixOp) (F : Fmt) (k bytes : Nat) (read : Nat → Nat) : List (List MatEl) × Bool :=
  let rows := (List.range 128).map (fun r =>
    let row := read (r * descStride o.b)
    match o.plane with
    | some p =>
      let es := (List.range k).map (rowCoded o.b F p row)
      (es.map (fun (e : MatEl × Bool) => e.1), es.any (fun (e : MatEl × Bool) => e.2))
    | none => ((List.range k).map (rowElem o.b F (row % 2 ^ (8 * bytes))), false))
  (rows.map (fun r => r.1), rows.any (fun r => r.2))

/-- Multiply and add into the driven tiles (R298, R300): `readB` gives the bytes of a B row by its offset. -/
def State.multiply (s : State) (core : Nat) (o : MatrixOp) (readB : Nat → Nat) : State :=
  let sa := descSlot o.a
  let sb := descSlot o.b
  let fa := o.fmt sa
  let fb := o.fmt sb
  let sparse := o.kind = .mmas
  let k := matrixDepth fa fb sa sb sparse
  let table := tablePath fa fb sa sb
  let ra := rowBytes o.a false sparse fa.w k
  let b := matrixB o fb k (rowBytes o.b (descCb o.b) false fb.w k) readB
  let rowA := fun (m : Nat) =>
    let row := s.teamBytes o.team (descOff o.a + m * descStride o.a) ra
    if sparse then
      let info := s.teamBytes o.team (descMeta o.a + m * (k / 8)) (k / 8)
      (List.range k).map (rowSparse fa row info)
    else (List.range k).map (rowElem o.a fa row)
  let half := fun (acc : State) (side : Nat) =>
    let c := core + side
    let t := (s.core c).tile o.tile
    let rows := (List.range 128).map (fun m =>
      let a := rowA (128 * side + m)
      (b.1.zipIdx).map (fun r => chunkSums (k / 32) (t.at (128 * m + r.2)) (matProducts table fa a r.1)))
    let flat := rows.flatMap (fun r => r)
    acc.setCore c ((acc.core c).setTile o.tile { t with
      vals := (flat.zipIdx).filterMap (fun x => if x.1 = 0 then none else some (x.2, BitVec.ofNat 32 x.1)), invalid := b.2 })
  (List.range (o.cores core).length).foldl half s

/-- A tile value in a drain's slot: SAT taken as 1 (R305). -/
def drainCode (F : Fmt) (v : Nat) : Nat := encode1 { F with sat := true } (decodeCode accFmt v) 0

/-- The block of 32 values under a slot (R52): scale byte and codes; `rnd` gives the random word of each result. -/
def formBlock (F : Fmt) (xs : List Ex) (rnd : Nat → Nat) : Nat × List Nat :=
  let finite := xs.all (fun x => match x with | .nan => false | .inf _ => false | _ => true)
  let best := xs.foldl (fun m v => if exLt m v.abs then v.abs else m) (.zero false)
  if !finite then (0xFF, xs.map (fun _ => 0))
  else if (match best with | .zero _ => true | _ => false) then (0x7F, xs.map (fun _ => 0))
  else
    let emax : Int := if F.nan = 1 ∨ F.inf = 1 then (2 ^ F.e - 2 : Nat) - F.bias
      else if F.nan = 2 ∧ F.m = 0 then (2 ^ F.e - 2 : Nat) - F.bias else (2 ^ F.e - 1 : Nat) - F.bias
    let sc := min (max (best.ilog - emax) (-127)) 127
    ((sc + 127).toNat, (xs.zipIdx).map (fun x => encode1 F (exScale (-sc) x.1) (rnd x.2)))

/-- A row of a drain to scratchpad: bytes as a number (R305). -/
def drainRowBits (F : Fmt) (row : List Nat) : Nat :=
  if F.blk = 1 then
    (List.range 4).foldl (fun acc j =>
      let b := formBlock { F with sat := true } ((row.drop (32 * j)).take 32 |>.map (decodeCode accFmt)) (fun _ => 0)
      let bits := b.1 + (b.2.zipIdx).foldl (fun (x : Nat) (e : Nat × Nat) => x + e.1 * 2 ^ (8 + e.2 * F.w)) 0
      acc + bits * 2 ^ (8 * j * (1 + 4 * F.w))) 0
  else (row.zipIdx).foldl (fun acc x => acc + drainCode F x.1 * 2 ^ (x.2 * F.w)) 0

/-- The codes of row `r` of a tile. -/
def Tile.row (t : Tile) (r : Nat) : List Nat := (List.range 128).map (fun c => t.at (128 * r + c))

/-- Write the rows of a drain to scratchpad; TBs there are tested again (R305, R344). -/
def State.drainSp (s : State) (core : Nat) (o : MatrixOp) : State :=
  let F := o.fmt (drainSlot o.mod)
  let n := drainRow F
  (List.range (rowsA o.paired)).foldl (fun (acc : State) r =>
    let t := (s.core (core + r / 128)).tile o.tile
    let ea := o.a + wd r * o.b
    let a : Acc := { thr := 0, ea := ea, va := spanFrom ea n }
    acc.pokes (s.spCells o.team core a) (leBytes n (drainRowBits F (t.row (r % 128))))) s |>.retestTbs

/-- Write or add the rows of a drain to memory, at their homes, but in the sectors that are not committed (R306, R397). -/
def State.drainMem (s : State) (core : Nat) (o : MatrixOp) (m : ChunkMap) (secs : List Nat) : State :=
  (List.range (rowsA o.paired)).foldl (fun (acc : State) r =>
    let t := (s.core (core + r / 128)).tile o.tile
    (List.range 128).foldl (fun (a : State) c =>
      let cells := spanCells m ((o.a + wd r * o.b).toNat + 4 * c) 4
      let v := t.at (128 * (r % 128) + c)
      if cells.any (fun x => x.loc.inSectors secs) then a else a.pokes cells (leBytes 4 (if bitAt o.mod 2 then accAdd (leNat (cells.map a.peek)) v else v))) acc) s

/-- Load the driven tiles from rows (R304). -/
def State.loadRows (s : State) (core : Nat) (o : MatrixOp) (read : Word → Nat) : State :=
  (List.range (o.cores core).length).foldl (fun (acc : State) side =>
    let rows := (List.range 128).map (fun r => read (o.a + wd (128 * side + r) * o.b))
    acc.loadTile (core + side) o.tile (((rows.zipIdx).flatMap (fun x => (List.range 128).map (fun c => (128 * x.2 + c, bitsOf x.1 (32 * c + 31) (32 * c))))).filterMap
      (fun x => if x.2 = 0 then none else some (x.1, BitVec.ofNat 32 x.2)))) s

/-- Send the driven tiles as contributions (R307, R488). -/
def State.sendPeers (s : State) (core : Nat) (o : MatrixOp) : State :=
  let dest := fld o.a 21 12
  let tile := fld o.a 23 22
  let index := if o.bNone then none else some (o.b.toNat % 65536)
  let djid := (s.launchOf o.team).region.djid
  let g := s.group o.team o.grp
  (List.range (o.cores core).length).foldl (fun (acc : State) side =>
    let target := fld o.a 11 9 * 512 + fld o.a 8 3 * 8 + fld o.a 2 0 + side
    let vals := ((s.core (core + side)).tile o.tile).vals
    if dest = s.ctl.self then
      { acc with fab := { acc.fab with contribs := acc.fab.contribs ++
        [{ src := dest, index := index, djid := djid, core := target, tile := tile, vals := some vals, drain := some (core, o.id) }] } }
    else
      acc.sendAll ((drainPackets dest s.ctl.self djid (rtagOf g o.id) target tile index vals).map (fun p =>
        { pkt := p, owner := .drain core o.id, pc := o.pc, w0 := o.w0 }))) s

/-- Peer answers a drain waits for: one per local contribution, one per DRAIN request. -/
def State.peerCount (s : State) (core : Nat) (o : MatrixOp) : Nat :=
  (o.cores core).length * (if fld o.a 21 12 = s.ctl.self then 1 else 256)

/-- Change the entry of an instruction in its order, its copy too. -/
def State.mapOp (s : State) (core id : Nat) (f : MatrixOp → MatrixOp) : State :=
  let c := s.core core
  match c.order.find? (fun o => o.id = id && !o.copy) with
  | none => s
  | some o =>
    let s1 := s.setCore core { c with order := c.order.map (fun x => if x.id = id && !x.copy then f x else x) }
    if o.paired then
      let d := s1.core (core + 1)
      s1.setCore (core + 1) { d with order := d.order.map (fun x => if x.id = id && x.copy then { f x with copy := true } else x) }
    else s1

/-- Take an instruction out of the orders, with its range-lock entry. -/
def State.dropOp (s : State) (core : Nat) (o : MatrixOp) : State :=
  let c := s.core core
  let s1 := s.setCore core { c with order := c.order.filter (fun x => !(x.id = o.id && !x.copy)) }
  let s2 := if o.paired then
      let d := s1.core (core + 1)
      s1.setCore (core + 1) { d with order := d.order.filter (fun x => !(x.id = o.id && x.copy)) }
    else s1
  match o.lock with
  | some k => s2.unlock core k
  | none => s2

/-- Wake the splits that a matrix instruction held: MWAITs that nothing holds now, which acquire, and follower groups (R294, R309). -/
def State.wakeMatrix (s : State) : State :=
  (s.allSplits).foldl (fun (acc : State) r =>
    let sp := acc.splitAt r
    match sp.st, sp.wait with
    | 5, .matrix tile inst =>
      if acc.matrixOwed r.team r.grp tile inst then acc
      else
        let a1 := acc.acquire r.team r.grp 2 none
        a1.setGroupAt r ((a1.groupAt r).wake r.split)
    | 5, .paired => if acc.pairBlocks r.team (acc.groupAt r).core then acc else acc.setGroupAt r ((acc.groupAt r).wake r.split)
    | _, _ => acc) s

/-- A trap of a matrix instruction that has issued, which leaves the order: MACCBAD and REMFAULT are deferred traps, another is presented before its split's next issue, deferred where the split has issued later instructions; of PGFAULT only cause 0x02 (R297, R307, R313, R315, R393; log 108). -/
def State.matrixTrap (s : State) (core : Nat) (o : MatrixOp) (t : TrapReq) : State :=
  let s1 := s.dropOp core o
  let g := s1.group o.team o.grp
  let d : Deferred := { split := o.split, inst := o.inst, trap := ⟨{ t with deferred := if t.code = 0x09 then t.aux = 2 else t.code = 0x12 || t.code = 0x0F || g.passed o.split o.pc o.w0 }, o.pc, o.w0, 0, (g.split o.split).pc⟩ }
  (s1.setGroup o.team o.grp { g with deferred := g.deferred ++ [d] }).wakeMatrix

/-- The instruction reads its tile (R297). -/
def MatrixOp.readsTile (o : MatrixOp) : Bool := o.kind != .mzero && o.kind != .mlda

/-- The group's waiting scratchpad stores that come before the instruction are performed (R310). -/
def State.storesBefore (s : State) (o : MatrixOp) : State :=
  (s.stores.filter (fun p => p.team = o.team && p.grp = o.grp && decide (p.inst < o.inst) &&
    p.cells.all (fun c => match c.loc with | .sp _ _ _ => true | _ => false))).foldl (fun acc p => acc.performStore p) s

/-- Global rows of an instruction, and whether it writes them. -/
def MatrixOp.spans (o : MatrixOp) : List (Nat × Nat) × Bool :=
  match o.kind with
  | .mma => ([(o.c.toNat, rowsEnd 0 (descStride o.b) 128 (rowBytes o.b (descCb o.b) false (o.fmt (descSlot o.b)).w
      (matrixDepth (o.fmt (descSlot o.a)) (o.fmt (descSlot o.b)) (descSlot o.a) (descSlot o.b) false)))], false)
  | .mmas => ([(o.c.toNat, rowsEnd 0 (descStride o.b) 128 (rowBytes o.b (descCb o.b) false (o.fmt (descSlot o.b)).w
      (matrixDepth (o.fmt (descSlot o.a)) (o.fmt (descSlot o.b)) (descSlot o.a) (descSlot o.b) true)))], false)
  | .mlda => (rowSpans o.a o.b (rowsA o.paired) 512, false)
  | _ => (rowSpans o.a o.b (rowsA o.paired) 512, true)

/-- The instruction reaches global memory. -/
def MatrixOp.isGlobal (o : MatrixOp) : Bool :=
  match o.kind with
  | .mma => bitAt o.mod 0
  | .mmas => bitAt o.mod 0
  | .mlda => o.mod / 512 % 4 = 0
  | .mdrain => drainMode o.mod = 1
  | _ => false

/-- A global stream ended by a fault it could not be given: the driven tiles are invalid, the status is 1, and the region is told (R301, R520). -/
def State.streamFails (s : State) (core : Nat) (o : MatrixOp) (f : Nat × Nat) : State :=
  let s1 := (o.cores core).foldl (fun (acc : State) c => acc.spoilTile c o.tile) s
  let t := s1.team o.team
  (s1.reportFault o.team o.grp (fun e => recordBits f.1 o.pc.toNat t.launch t.linear o.grp 0 1 o.split true false false false 0 f.2 0x09 e) 0x09).mapOp core o.id
    (fun x => { x with started := true, status := 1 })

/-- The effect of an instruction that reaches the array; `m` translates its global range (R298 to R308). -/
def State.runMatrix (s : State) (core : Nat) (o : MatrixOp) (m : ChunkMap) (fails : List SectorFail) : State :=
  let started := fun (x : State) (status : Nat) => x.mapOp core o.id (fun y => { y with started := true, status := status })
  match o.kind with
  | .mzero => started ((o.cores core).foldl (fun (acc : State) c => acc.loadTile c o.tile []) s) 0
  | .mlda =>
    if o.isGlobal then started (s.loadRows core o (fun a => s.spanRead m a.toNat 512)) 0
    else started (s.loadRows core o (fun a => leNat ((s.spCells o.team core { thr := 0, ea := a, va := spanFrom a 512 }).map s.peek))) 0
  | .mdrain =>
    if drainMode o.mod = 0 then started (s.drainSp core o) 0
    else if drainMode o.mod = 1 then
      (started (s.drainMem core o m (failedSectors fails)) 0).e2eFails o.team o.grp fails ((o.spans.1.flatMap (fun x => spanCells m x.1 x.2)).map (fun c => c.loc)) ⟨{ code := 0x10 }, o.pc, o.w0, 0, 0⟩
    else
      let s1 := s.mapOp core o.id (fun y => { y with started := true, peers := s.peerCount core o })
      (s1.sendPeers core o).takeContributions drainResponse
  | .marm =>
    let c := s.core core
    let t := c.tile o.tile
    let a : Arming := { count := o.a.toNat % 65536, team := o.b.toNat / 2, side := o.b.toNat % 2, off := o.c.toNat }
    (started (s.setCore core (c.setTile o.tile { t with armed := some a, seen := [] })) 0).takeContributions drainResponse
  | _ =>
    let sb := descSlot o.b
    let k := matrixDepth (o.fmt (descSlot o.a)) (o.fmt sb) (descSlot o.a) sb (o.kind = .mmas)
    let rb := rowBytes o.b (descCb o.b) false (o.fmt sb).w k
    let readB := fun (off : Nat) => if o.isGlobal then s.spanRead m (o.c.toNat + off) rb else s.teamBytes o.team (descOff o.b + off) rb
    let s1 := s.multiply core o readB
    let bad := (matrixB o (o.fmt sb) k rb readB).2
    started s1 (if bad then 2 else 0)

/-- A global stream that waits for pages, and has made no update (R301, R311). -/
def MatrixOp.stalled (o : MatrixOp) : Bool := !o.started && !o.waits.isEmpty && (o.kind = .mma || o.kind = .mmas) && o.isGlobal

/-- The context of a matrix instruction. -/
def State.opContext (s : State) (o : MatrixOp) : Nat := (s.launchOf o.team).region.djid

/-- An instruction of an order may take the array: every earlier one has started, or is a stalled stream of another context (R288, R301). -/
def State.arrayFree (s : State) (core : Nat) (o : MatrixOp) : Bool :=
  !o.started && !o.copy && o.waits.isEmpty && (o.cores core).all (fun c =>
    ((s.core c).order.takeWhile (fun x => !(x.id = o.id && x.inst = o.inst && x.team = o.team))).all (fun x => x.started || (x.stalled && s.opContext x != s.opContext o)))

/-- Entries of the codebook plane that the rows of B select (R299). -/
def codedEntries (o : MatrixOp) (k : Nat) (read : Nat → Nat) : List Nat :=
  (List.range 128).flatMap (fun r =>
    let row := read (r * descStride o.b)
    (List.range k).map (fun j => (row >>> (j / npiOf (fld o.b 50 49) * iwOf (fld o.b 48 46))) % 2 ^ iwOf (fld o.b 48 46)))

/-- UCE on a matrix instruction that consumes an uncorrectable tile, operand or codebook word, or whose global operand's read check fails twice (R284, R312, R398, R399). -/
def State.matrixUce (s : State) (core : Nat) (o : MatrixOp) (m : ChunkMap) (mismatches : Nat) : Option TrapReq :=
  let reads := o.isGlobal && (!o.spans.2 || bitAt o.mod 2)
  let at_ := fun (a : Nat) => (threadsOf o.active).map (fun t => (t, wd a))
  if 2 ≤ mismatches && reads then some (trapUce 8 (at_ ((o.spans.1.head?.map (fun x => x.1)).getD 0)))
  else if s.bad.isEmpty then none
  else
    let tile := if o.kind = .mma || o.kind = .mmas || o.kind = .mdrain then
        s.bad.find? (fun b => match b.place with | .tile c t _ => t = o.tile && (o.cores core).contains c | _ => false) else none
    let rows := s.bad.find? (fun b => match b.place with
      | .sp t side w => t = o.team && o.reads.any (fun r => decide (r.1 < 8 * w + 8 + side * (s.launchOf t).lrec.scratch) && decide (8 * w + side * (s.launchOf t).lrec.scratch < r.2))
      | _ => false)
    let sb := descSlot o.b
    let k := matrixDepth (o.fmt (descSlot o.a)) (o.fmt sb) (descSlot o.a) sb (o.kind = .mmas)
    let rb := rowBytes o.b (descCb o.b) false (o.fmt sb).w k
    let readB := fun (off : Nat) => if o.isGlobal then s.spanRead m (o.c.toNat + off) rb else s.teamBytes o.team (descOff o.b + off) rb
    match tile, rows with
    | some b, _ => some (trapUce b.cause [])
    | none, some b => some (trapUce b.cause (match b.place with
        | .sp t side w =>
          let lo := 8 * w + side * (s.launchOf t).lrec.scratch
          at_ (max lo (((o.reads.find? (fun r => decide (r.1 < lo + 8) && decide (lo < r.2))).map (fun r => r.1)).getD lo))
        | _ => []))
    | none, none =>
      match (if reads then (o.spans.1.flatMap (fun x => spanCells m x.1 x.2)).findSome? (fun c => (s.badCell noCore c).map (fun k => (k, c.va, badWordAt noCore c k))) else none) with
      | some c => some { trapUce c.1 (at_ c.2.1) with word := c.2.2 }
      | none => if o.plane.isSome then s.bookUce core (fld o.b 45 43) o.side (codedEntries o k readB) else none

/-- A line of scratchpad that an instruction reads or writes, or of its global range, is held locked by a commit: it waits (R254). -/
def State.matrixLocked (s : State) (core : Nat) (o : MatrixOp) (m : ChunkMap) : Bool :=
  match s.lockedLines with
  | [] => false
  | lines =>
    (o.isGlobal && o.spans.1.any (fun x => cellsLocked lines (spanCells m x.1 x.2))) ||
      (o.kind = .mdrain && drainMode o.mod = 0 && (List.range (rowsA o.paired)).any (fun r =>
        cellsLocked lines (s.spCells o.team core { thr := 0, ea := o.a + wd r * o.b, va := spanFrom (o.a + wd r * o.b) (drainRow (o.fmt (drainSlot o.mod))) }))) ||
      o.reads.any (fun r => (List.range 2).any (fun side =>
        let base := side * (s.launchOf o.team).lrec.scratch
        lines.any (fun k => k.1 = 2 ^ 20 + o.team * 2 + side && decide (base + 128 * k.2 < r.2) && decide (r.1 < base + 128 * k.2 + 128))))

/-- The array of a core is free: the first instruction of the order that the array is free for has its effect, once its tile is not armed, its pages are there and its range is free; an invalid tile traps MACCBAD, an uncorrectable word UCE (R288, R297, R301, R312). -/
def State.arrayStart (s : State) (free : Checked Nat) : State :=
  let core := free.it
  match (s.core core).order.find? (s.arrayFree core) with
  | none => s
  | some o =>
    let cores := o.cores core
    let run := fun (x : State) (m : ChunkMap) =>
      if x.matrixLocked core o m then s else
      match x.matrixUce core o m free.checks.mismatches with
      | some t => x.matrixTrap core o t
      | none => x.runMatrix core o m free.checks.fails
    if cores.any (fun c => ((s.core c).tile o.tile).armed.isSome) then s
    else if (match o.lock with | some k => !s.lockFree core k | none => false) then s
    else if let some f := o.fatal then
      if o.kind = .mma || o.kind = .mmas then s.streamFails core o f
      else s.matrixTrap core o { code := 0x09, aux := f.2, addrs := [(0, wd f.1)], pages := [{ addr := f.1, thr := 0, write := o.spans.2 }] }
    else if o.readsTile && cores.any (fun c => ((s.core c).tile o.tile).invalid) then
      s.matrixTrap core o { code := 0x12, aux := o.tile }
    else
      let s1 := s.storesBefore o
      if o.isGlobal then
        match s1.xlateSpans (s1.dieCtx o.team core) o.spans.2 o.spans.1 with
        | .ok s2 m => run s2 m
        | .wait s2 => s2
        | .trap t => s1.mapOp core o.id (fun x => { x with fatal := some ((t.pages.head?.map (fun p => p.addr)).getD 0, t.aux) })
        | .need ps =>
          let l := s1.launchOf o.team
          if l.isPager then s1.mapOp core o.id (fun x => { x with fatal := some ((ps.head?.map (fun p => p.base)).getD 0, 2) })
          else
          let r := s1.requestPages (dieOf core) l.region.djid l.region { launch := l.id, engine := true } (.matrix core o.id) ps
          r.1.mapOp core o.id (fun x => { x with waits := r.2 })
      else run s1 []

/-- An instruction of the array completes: the status is ready, the entry leaves the order, and what it held goes on (R288, R296, R309). -/
def State.matrixDone (s : State) (core id : Nat) : State :=
  match (s.core core).order.find? (fun o => o.id = id && !o.copy) with
  | none => s
  | some o =>
    if !o.started || o.peers != 0 then s
    else
      let s1 := s.dropOp core o
      let s2 := match o.reg with
        | some r => s1.setGroup o.team o.grp ((s1.group o.team o.grp).fill o.inst r [(0, wd o.status)])
        | none => s1
      s2.wakeMatrix

/-- A contribution unaccepted for 10 ms ends the drain with REMFAULT (R307, R478). -/
def State.peerTimeout (s : State) (core id : Nat) : State :=
  match (s.core core).order.find? (fun o => o.id = id && !o.copy) with
  | none => s
  | some o =>
    if o.kind != .mdrain || !o.started || o.peers = 0 then s
    else
      let s1 := { s with fab := { s.fab with
        contribs := s.fab.contribs.filter (fun x => x.drain != some (core, id))
        reqs := s.fab.reqs.filter (fun r => r.owner != ReqOwner.drain core id)
        queue := s.fab.queue.filter (fun r => r.owner != ReqOwner.drain core id) } }
      s1.matrixTrap core o { code := 0x0F, aux := 7 }

end Sys2Proof.Machine
end

