-- ==== Sys2Proof/Machine/Mordant.lean ====
section
/-! DEFINITION. The Mordant stream: READ to WRITE, compressed blocks, and the checks of a recipe at issue (R352, R353, R355 to R358). -/

namespace Sys2Proof.Machine

/-! ### Compressed blocks (R356, R357) -/

/-- Bits of a compressed slot. -/
def slotBits : Nat := 4224

/-- The width N of a base-delta method. -/
def deltaWidth (method : Nat) : Nat := 4 * 2 ^ method

/-- Payload bytes of a base-delta method with deltas of `d` bits. -/
def deltaLength (n d : Nat) : Nat := 1 + n / 8 + ceilDiv ((4096 / n - 1) * d) 8

/-- The signed differences of words 1 on from word 0, of width `n`. -/
def blockDeltas (n x : Nat) : List Int :=
  (List.range (4096 / n - 1)).map (fun i => sextNat n ((bitsOf x (n * (i + 2) - 1) (n * (i + 1)) + 2 ^ n - x % 2 ^ n) % 2 ^ n))

/-- A signed value fits in `d` bits. -/
def fitsIn (d : Nat) (v : Int) : Bool := sextNat d (wrapNat d v) = v

/-- The smallest delta width of a block. -/
def blockDelta (n x : Nat) : Nat := ((List.range (n + 1)).find? (fun d => (blockDeltas n x).all (fitsIn d))).getD n

/-- Methods that a block may take, with their lengths, in order of METHOD (R357). -/
def blockMethods (x : Nat) : List (Nat × Nat) :=
  (0, 512) :: ([1, 2, 3].map (fun m => (m, deltaLength (deltaWidth m) (blockDelta (deltaWidth m) x)))).filter (fun p => decide (p.2 ≤ 512)) ++
    (if x = 0 then [(4, 0)] else [])

/-- The method chosen: the smallest LENGTH, a tie to the lower METHOD. -/
def chooseMethod (ms : List (Nat × Nat)) : Nat × Nat :=
  ms.foldl (fun best p => if p.2 < best.2 then p else best) (0, 512)

/-- The payload of a method. -/
def blockPayload (method x : Nat) : Nat :=
  match method with
  | 0 => x
  | 4 => 0
  | m =>
    let n := deltaWidth m
    let d := blockDelta n x
    d + (x % 2 ^ n) * 2 ^ 8 + ((blockDeltas n x).zipIdx).foldl (fun (acc : Nat) (p : Int × Nat) => acc + wrapNat d p.1 * 2 ^ (8 + n + p.2 * d)) 0

/-- The compressed slot of 512 bytes; payload bits beyond LENGTH are `tail`'s (R356, R357). -/
def compressBlock (x : Nat) (tail : Nat → Nat) : Nat :=
  let m := chooseMethod (blockMethods x)
  1 + m.1 * 2 ^ 8 + m.2 * 2 ^ 16 + blockPayload m.1 x * 2 ^ 128 + tail (4096 - 8 * m.2) * 2 ^ (128 + 8 * m.2)

/-- The 512 bytes of a compressed slot; none for a header that is not valid (R357), or whose LENGTH exceeds the payload area (log 106). -/
def expandBlock (slot : Nat) : Option Nat :=
  let method := bitsOf slot 15 8
  let len := bitsOf slot 31 16
  let pay := slot >>> 128
  if slot % 256 != 1 then none
  else if method = 0 then (if len = 512 then some (pay % 2 ^ 4096) else none)
  else if method = 4 then (if len = 0 then some 0 else none)
  else if 4 < method then none
  else
    let n := deltaWidth method
    let d := pay % 256
    let base := bitsOf pay (7 + n) 8
    if n < d || len != deltaLength n d || decide (512 < len) then none
    else some (base + (List.range (4096 / n - 1)).foldl (fun acc i =>
      acc + wrapNat n ((base : Int) + sextNat d (bitsOf pay (8 + n + (i + 1) * d - 1) (8 + n + i * d))) * 2 ^ (n * (i + 1))) 0)

/-! ### The stream (R352, R353) -/

/-- What the elements of a stream are: codes of a slot, exact values, block records of a slot, or compressed slots. -/
inductive StreamKind where
  | codes (slot : Nat)
  | vals
  | recs (slot : Nat)
  | comp
  deriving DecidableEq, Repr, Inhabited

/-- An element: absent, bits, or an exact value. -/
inductive ElVal where
  | absent
  | bits (n : Nat)
  | val (x : Ex)
  deriving DecidableEq, Repr, Inhabited

/-- An element with the amax of its block or tile from the nearest earlier AMAX. -/
structure El where
  v : ElVal
  amax : Ex := .zero false
  deriving DecidableEq, Repr, Inhabited

/-- A stream: its shape, i0 fastest, and its elements. -/
structure Stream where
  e0 : Nat
  e1 : Nat
  e2 : Nat
  e3 : Nat
  kind : StreamKind
  els : List El

/-- What a recipe reads besides its stream: definitions, planes, PARAM, the rings, and the index of its first free value. -/
structure MordantCx where
  fmts : Nat → Fmt
  planes : Nat → Plane
  param : Nat
  ring : Nat → List Nat
  free : Nat

/-- What a recipe leaves besides its writes: errors counted, ring pushes, free values used. -/
structure MordantAcc where
  errs : Nat := 0
  pushes : List (Nat × Half) := []
  used : Nat := 0

/-- Bits of one element, where it has a width. -/
def StreamKind.width (k : StreamKind) (fmts : Nat → Fmt) : Option Nat :=
  match k with
  | .codes n => some (fmts n).w
  | .recs n => some (8 * (1 + 4 * (fmts n).w))
  | .comp => some slotBits
  | .vals => none

/-- The value of an element that is present. -/
def elEx (cx : MordantCx) (k : StreamKind) (e : El) : Option Ex :=
  match e.v, k with
  | .val x, _ => some x
  | .bits n, .codes slot => some (decodeCode (cx.fmts slot) n)
  | _, _ => none

/-- Consecutive pieces of `n` of a list. -/
def pieces {α : Type} (fuel n : Nat) (xs : List α) : List (List α) :=
  match fuel with
  | 0 => []
  | k + 1 => if xs.isEmpty then [] else xs.take n :: pieces k n (xs.drop n)

/-- Rows of a stream. -/
def Stream.rows (s : Stream) : List (List El) := pieces (s.e1 * s.e2 * s.e3) s.e0 s.els

/-- The index triples (i1, i2, i3) of the rows of a shape. -/
def rowIndices (e1 e2 e3 : Nat) : List (Nat × Nat × Nat) :=
  (List.range (e1 * e2 * e3)).map (fun r => (r % e1, r / e1 % e2, r / (e1 * e2)))

/-- The byte offsets of the rows that READ fetches, with their present elements; none for an absent row (R352). -/
def readRows (c : Nat) : List (Option (Int × Nat)) :=
  (rowIndices (cellE c 1) (cellE c 2) (cellE c 3)).map (fun i =>
    let n0 := min (cellE c 0) (cellL c 0)
    if 0 < n0 && decide (i.1 < cellL c 1) && decide (i.2.1 < cellL c 2) && decide (i.2.2 < cellL c 3) then
      some ((i.1 : Int) * cellS c 1 + (i.2.1 : Int) * cellS c 2 + (i.2.2 : Int) * cellS c 3, n0)
    else none)

/-- Byte intervals that READ fetches, as offsets from SRC, for elements of width `w` (R352). -/
def readSpans (c w : Nat) : List (Int × Nat) := (readRows c).filterMap (fun r => r.map (fun x => (x.1, ceilDiv (x.2 * w) 8)))

/-- READ: `rd` gives bytes at an offset from SRC as a number (R352). -/
def readStream (c w : Nat) (kind : StreamKind) (rd : Int → Nat → Nat) : Stream where
  e0 := cellE c 0
  e1 := cellE c 1
  e2 := cellE c 2
  e3 := cellE c 3
  kind := kind
  els := (readRows c).flatMap (fun r =>
    match r with
    | none => List.replicate (cellE c 0) { v := .absent }
    | some x =>
      let row := rd x.1 (ceilDiv (x.2 * w) 8)
      (List.range x.2).map (fun i => { v := .bits ((row >>> (i * w)) % 2 ^ w) }) ++ List.replicate (cellE c 0 - x.2) { v := .absent })

/-- The elements of one tile, column by column. -/
def transposeTile (e0 e1 : Nat) (xs : List El) : List El :=
  (List.range e0).flatMap (fun i0 => (List.range e1).map (fun i1 => xs.getD (i1 * e0 + i0) { v := .absent }))

/-- The largest magnitude of the present elements; a NaN makes no entry (R353). -/
def amaxOf (cx : MordantCx) (k : StreamKind) (xs : List El) : Ex :=
  xs.foldl (fun m e => match elEx cx k e with
    | some .nan => m
    | some x => if exLt m x.abs then x.abs else m
    | none => m) (.zero false)

/-- Binary32 rounded up. -/
def accUp : Fmt := { accFmt with rnd := 2 }

/-- x times the power of two that takes an amax `m` to 2^et; a zero or infinite amax leaves x (R353). -/
def scaleBy (et : Int) (m x : Ex) : Ex :=
  match m with
  | .val _ _ => exScale (et - m.ilog) x
  | _ => x

/-- SCALE of one element (R353). -/
def scaleEl (cx : MordantCx) (c : Nat) (k : StreamKind) (e : El) : El :=
  match elEx cx k e with
  | none => e
  | some .nan => { e with v := .val .nan }
  | some (.inf n) => { e with v := .val (.inf n) }
  | some x =>
    let m := (cx.ring (cellRing c)).foldl (fun (best : Nat) r => max best r) 0
    { e with v := .val (match cellSrc c with
        | 0 => exMul x (decodeCode accFmt cx.param)
        | 1 => scaleBy (cellEt c) (decodeCode accFmt m) x
        | _ => scaleBy (cellEt c) e.amax x) }

/-- QUANT of 32 elements: one record as bits (R50, R52, R353). -/
def quantBlock (cx : MordantCx) (c : Nat) (k : StreamKind) (xs : List El) : El :=
  let f := cx.fmts (cellSlot c)
  let F := { f with sat := f.sat || cellSat c }
  let b := formBlock F (xs.map (fun e => (elEx cx k e).getD (.zero false))) (fun _ => 0)
  { v := .bits (b.1 + (b.2.zipIdx).foldl (fun (acc : Nat) (p : Nat × Nat) => acc + p.1 * 2 ^ (8 + p.2 * F.w)) 0) }

/-- Free bits from free value `i` on. -/
def freeBits (i len : Nat) : Nat :=
  (List.range (ceilDiv len 64)).foldl (fun acc j => acc + (Config.freeWord (i + j)).toNat * 2 ^ (64 * j)) 0 % 2 ^ len

/-- COMPRESS of a row: its bits in blocks of 4,096; absent elements' bits, and payload beyond LENGTH, are free (R353, R356). -/
def compressRow (free w : Nat) (row : List El) : List El :=
  let bits := (row.zipIdx).foldl (fun (acc : Nat) (p : El × Nat) =>
    acc + (match p.1.v with | .bits n => n | _ => freeBits (free + p.2) w) * 2 ^ (p.2 * w)) 0
  (List.range (row.length * w / 4096)).map (fun q =>
    { v := .bits (compressBlock (bitsOf bits (4096 * q + 4095) (4096 * q)) (freeBits (free + row.length + 64 * q))) })

/-- One cell between READ and WRITE (R353). -/
def runCell (cx : MordantCx) (c : Nat) (st : Stream × MordantAcc) : Stream × MordantAcc :=
  let s := st.1
  let a := st.2
  match cellKind c with
  | 1 =>
    let fill : ElVal := match s.kind with | .vals => .val (.zero false) | _ => .bits 0
    ({ s with els := s.els.map (fun e => if e.v = .absent then { e with v := fill } else e) }, a)
  | 2 =>
    ({ s with e0 := s.e1, e1 := s.e0, els := (pieces (s.e2 * s.e3) (s.e0 * s.e1) s.els).flatMap (transposeTile s.e0 s.e1) }, a)
  | 3 =>
    let f := cx.fmts (cellSlot c)
    let F := { f with sat := f.sat || cellSat c }
    ({ s with kind := .codes (cellSlot c)
              els := s.els.map (fun e => match elEx cx s.kind e with | some x => { e with v := .bits (encode1 F x 0) } | none => e) }, a)
  | 4 => ({ s with kind := .vals, els := s.els.map (scaleEl cx c s.kind) }, a)
  | 5 =>
    let blocks := if cellMode c then pieces (s.e2 * s.e3) (s.e0 * s.e1) s.els else s.rows.flatMap (fun r => pieces r.length 32 r)
    let all := amaxOf cx s.kind s.els
    ({ s with els := blocks.flatMap (fun b => let m := amaxOf cx s.kind b; b.map (fun e => { e with amax := m })) },
     if cellPush c then { a with pushes := a.pushes ++ [(cellRing c, BitVec.ofNat 32 (encode1 accUp all 0))] } else a)
  | 6 =>
    ({ s with e0 := s.e0 / 32, kind := .recs (cellSlot c), els := s.rows.flatMap (fun r => (pieces r.length 32 r).map (quantBlock cx c s.kind)) }, a)
  | 7 =>
    let w := (cx.fmts (cellSlot c)).w
    let k := 4096 / w
    let one := fun (e : El) => match e.v with
      | .bits n => (List.range k).map (fun i => ({ v := .bits ((((expandBlock n).getD 0) >>> (i * w)) % 2 ^ w) } : El))
      | _ => List.replicate k { v := .absent }
    ({ s with e0 := s.e0 * k, kind := .codes (cellSlot c), els := s.els.flatMap one },
     { a with errs := a.errs + (s.els.filter (fun e => match e.v with | .bits n => (expandBlock n).isNone | _ => false)).length })
  | 8 =>
    let w := (s.kind.width cx.fmts).getD 64
    let per := s.e0 + 64 * (s.e0 * w / 4096)
    ({ s with e0 := s.e0 * w / 4096, kind := .comp
              els := (s.rows.zipIdx).flatMap (fun (p : List El × Nat) => compressRow (cx.free + a.used + p.2 * per) w p.1) },
     { a with used := a.used + per * (s.e1 * s.e2 * s.e3) })
  | 9 =>
    let p := cx.planes (cellSlot c % 8)
    let w := (cx.fmts p.fslot).w
    let n := npiOf p.npi
    let one := fun (e : El) => match e.v with
      | .bits x => (List.range n).map (fun i => ({ v := .bits (elemOf w ((p.entry x).getD 0) i) } : El))
      | _ => List.replicate n { v := .absent }
    ({ s with e0 := s.e0 * n, kind := .codes p.fslot, els := s.els.flatMap one },
     { a with errs := a.errs + (if p.pol then 0 else (s.els.filter (fun e => match e.v with | .bits x => (p.entry x).isNone | _ => false)).length) })
  | _ => st

/-- Run a list of cells in order. -/
def runCells (cx : MordantCx) (cs : List Nat) (st : Stream × MordantAcc) : Stream × MordantAcc :=
  match cs with
  | [] => st
  | c :: rest => runCells cx rest (runCell cx c st)

/-- One byte of a WRITE: its offset from DST, the bits it writes and their value. -/
structure BytePut where
  off : Int
  mask : Nat
  val : Nat
  deriving DecidableEq, Repr

/-- The bytes of `u` bits with a value from bit `b` of a row on. -/
def bitPuts (row : Int) (b u v : Nat) : List BytePut :=
  let sh := b % 8
  (List.range (ceilDiv (sh + u) 8)).map (fun i =>
    { off := row + (b / 8 + i : Nat), mask := (((2 ^ u - 1) * 2 ^ sh) >>> (8 * i)) % 256, val := ((v % 2 ^ u * 2 ^ sh) >>> (8 * i)) % 256 })

/-- WRITE: the bytes its present elements write, in stream order (R352). -/
def writePuts (cx : MordantCx) (c : Nat) (s : Stream) : List BytePut :=
  let u := (s.kind.width cx.fmts).getD 64
  (s.rows.zip (rowIndices s.e1 s.e2 s.e3)).flatMap (fun (p : List El × Nat × Nat × Nat) =>
    let row := cellOff c + (p.2.1 : Int) * cellD c 1 + (p.2.2.1 : Int) * cellD c 2 + (p.2.2.2 : Int) * cellD c 3
    (p.1.zipIdx).flatMap (fun (e : El × Nat) => match e.1.v with
      | .bits n => bitPuts row (e.2 * u) u n
      | _ => []))

/-- Slot and width of the elements that READ presents: whole compressed slots where EXPAND follows (R355). -/
def readWidth (cx : MordantCx) (cells : List Nat) : StreamKind × Nat :=
  if (cells[1]?.map cellKind) = some 7 then (.comp, slotBits)
  else (.codes (cellSlot (cells.headD 0)), (cx.fmts (cellSlot (cells.headD 0))).w)

/-- The cells after READ up to the FORK or the WRITE, and the tails that follow, each ending in its WRITE (R353, R354). -/
def recipeParts (cells : List Nat) : List Nat × List (List Nat) :=
  match forkAt cells with
  | none => ((cells.drop 1).dropLast, [cells.drop (cells.length - 1)])
  | some f =>
    let b := cellSlot (cells.getD f 0)
    ((cells.take f).drop 1, [(cells.take b).drop (f + 1), cells.drop b])

/-- Run a recipe: the bytes of each WRITE cell, and what else it leaves. -/
def runRecipe (cx : MordantCx) (cells : List Nat) (rd : Int → Nat → Nat) : List (List BytePut) × MordantAcc :=
  let k := readWidth cx cells
  let parts := recipeParts cells
  let st := runCells cx parts.1 (readStream (cells.headD 0) k.2 k.1 rd, {})
  parts.2.foldl (fun (acc : List (List BytePut) × MordantAcc) t =>
    let r := runCells cx t.dropLast (st.1, acc.2)
    (acc.1 ++ [writePuts cx (t.getLastD 0) r.1], r.2)) ([], st.2)

/-! ### Checks at issue (R355) -/

/-- The FMTERR cause of a cell on the stream it receives (R355); exact values that reach COMPRESS are cause 0x0C (log 106). -/
def cellFmtCause (cx : MordantCx) (read : Nat) (c : Nat) (s : Stream) : Option Nat :=
  let f := cx.fmts (cellSlot c)
  match cellKind c with
  | 2 => if 64 < s.e0 || 64 < s.e1 then some 0x0C else none
  | 3 => if f.rnd = 5 then some 0x0B else if f.blk = 1 then some 0x0C else none
  | 5 => if cellMode c && decide (4096 < s.e0 * s.e1) then some 0x0C else none
  | 6 => if f.rnd = 5 then some 0x0B else if f.blk = 0 || s.e0 % 32 != 0 then some 0x0C else none
  | 7 => if 4096 % f.w != 0 || cellSlot read != 0 then some 0x0C else none
  | 8 => if (match s.kind.width cx.fmts with | some w => (s.e0 * w) % 4096 != 0 | none => true) then some 0x0C else none
  | 9 =>
    let r := cx.fmts (cellSlot read)
    if r.kind != 1 || r.s != 0 || r.w != iwOf (cx.planes (cellSlot c % 8)).iw then some 0x0C else none
  | _ => none

/-- The CBSHAPE cause of a CBDEC: a plane whose IW or NPI has a reserved value. READ's SLOT is the slot of the indices, and the codes are of the plane's FSLOT, which no cell names: so nothing differs from it, and cause 0x01 does not arise (log 101). -/
def cellShapeCause (cx : MordantCx) (c : Nat) : Option Nat :=
  if cellKind c = 9 && (decide (6 ≤ (cx.planes (cellSlot c % 8)).iw) || (cx.planes (cellSlot c % 8)).npi = 3) then some 2 else none

/-- The first FMTERR cause along a list of cells. -/
def cellsFmtCause (cx : MordantCx) (read : Nat) (cs : List Nat) (st : Stream × MordantAcc) : Option Nat :=
  match cs with
  | [] => none
  | c :: rest =>
    match cellFmtCause cx read c st.1 with
    | some k => some k
    | none => cellsFmtCause cx read rest (runCell cx c st)

/-- The trap of a recipe at issue, in the order of R314: FMTERR along its cells, then CBSHAPE (R355). -/
def recipeIssueTrap (cx : MordantCx) (cells : List Nat) : Option TrapReq :=
  let k := readWidth cx cells
  let parts := recipeParts cells
  let read := cells.headD 0
  let start : Stream × MordantAcc := (readStream read k.2 k.1 (fun _ _ => 0), {})
  let cause := match cellsFmtCause cx read parts.1 start with
    | some c => some c
    | none => parts.2.findSome? (fun t => cellsFmtCause cx read t (runCells cx parts.1 start))
  match cause with
  | some c => some (trapFmt c)
  | none => (cells.findSome? (cellShapeCause cx)).map (fun c => { code := 0x06, aux := c })

end Sys2Proof.Machine
end

