-- ==== Sys2Proof/Machine/Engine.lean ====
section
/-! DEFINITION. The cluster engine: command words, range locks, CPY to CPYST, RGET and RPUT, static copy schedules, and the events of an operation (R341, R345 to R350, R355, R358 to R370, R474, R475, R520). -/

namespace Sys2Proof.Machine

open Host

/-! ### Command words (R345, R359) -/

/-- Word `j` of a command. -/
def commandWord (g : Group) (self : Half) (o : Opnd) (j : Nat) : Word := g.readOpnd self (tupleAt o j) 0

/-- An address word breaks R345. -/
def badAddrWord (w : Word) : Bool := if w.getLsbD 63 then fld w 62 36 != 0 else fld w 62 57 != 0

/-- NOTB, MC, MCG and TB of a SYNC word. -/
def syncNotb (w : Word) : Bool := w.getLsbD 48
/-- MC of a SYNC word. -/
def syncMc (w : Word) : Bool := w.getLsbD 40
/-- MCG of a SYNC word. -/
def syncMcg (w : Word) : Nat := fld w 44 41

/-- A SYNC word breaks R345. -/
def badSync (w : Word) : Bool :=
  fld w 63 49 != 0 || fld w 47 45 != 0 || fld w 39 36 != 0 || (syncNotb w && fld w 44 0 != 0)

/-- The base that an address word names on a core, or a PROT cause (R211 to R213, R345). -/
def State.engBase (s : State) (team core : Nat) (w : Word) : Except Nat EngBase :=
  if w.getLsbD 63 then
    match s.spBase team core (fld w 35 0) with
    | .error c => .error c
    | .ok b => .ok ⟨.sp b.1 b.2, fld w 31 0⟩
  else .ok ⟨.glob, fld w 56 0⟩

/-- The TB at a scratchpad address, or a PROT cause (R345). -/
def State.tbRef (s : State) (team core a : Nat) : Except Nat TbRef :=
  match s.spBase team core a with
  | .error c => .error c
  | .ok b =>
    match s.spLoc b (a % 2 ^ 32), s.spLoc b (a % 2 ^ 32 + 15) with
    | some (.sp t side off), some _ => .ok ⟨t, side, off⟩
    | _, _ => .error 2

/-- Cores of a multicast group of a launch (R341, R359). -/
def multicastCores (l : Launch) (mcg : Nat) : List Nat := (List.range 8).filter (fun c => bitAt l.lrec.mcast (8 * mcg + c))

/-- A PROT trap's cause and the operand word it names. -/
structure ProtAt where
  cause : Nat
  word : Word
  deriving Repr

/-- Destinations of a command with their TBs: one, or one per core of the multicast group, whose addresses name no core of their own (R212, R359). -/
def State.engDsts (s : State) (team core : Nat) (dst sync : Word) : Except ProtAt (List (EngBase × Option TbRef)) :=
  let tb := fld sync 35 0
  let at_ := fun (d : Word) (t : Nat) => match s.engBase team core d with
    | .error c => Except.error (⟨c, d⟩ : ProtAt)
    | .ok b =>
      if syncNotb sync then .ok (b, none)
      else match s.tbRef team core t with
        | .error c => .error ⟨c, sync⟩
        | .ok r => .ok (b, some r)
  if !syncMc sync then (at_ dst tb).map (fun x => [x])
  else if !dst.getLsbD 63 || dst.getLsbD 35 || bitAt tb 35 then .error ⟨0x0B, sync⟩
  else
    match multicastCores (s.launchOf team) (syncMcg sync) with
    | [] => .error ⟨0x0B, sync⟩
    | cs =>
      if fld dst 34 32 != 0 then .error ⟨4, dst⟩
      else if bitsOf tb 34 32 != 0 then .error ⟨4, sync⟩
      else cs.mapM (fun c => at_ (wd (2 ^ 63 + 2 ^ 35 + c * 2 ^ 32 + fld dst 31 0)) (2 ^ 35 + c * 2 ^ 32 + tb % 2 ^ 32))

/-! ### Ranges (R348) -/

/-- An interval that an operation reads or writes, from its base; bounds as integers, the upper exclusive. -/
structure RangeUse where
  base : EngBase
  lo : Int
  hi : Int
  write : Bool
  word : Word

/-- The smallest interval of spans from a base; none for no span (R348). -/
def coverOf (b : EngBase) (xs : List (Int × Nat)) (write : Bool) (word : Word) : List RangeUse :=
  match xs with
  | [] => []
  | x :: rest =>
    let lo := rest.foldl (fun (m : Int) (y : Int × Nat) => min m y.1) x.1
    let hi := rest.foldl (fun (m : Int) (y : Int × Nat) => max m (y.1 + y.2)) (x.1 + x.2)
    [{ base := b, lo := b.base + lo, hi := b.base + hi, write := write, word := word }]

/-- The PROT cause of a range (R211). -/
def State.rangeCause (s : State) (r : RangeUse) : Option Nat :=
  match r.base.space with
  | .glob => if decide (r.lo < 0) || decide (((2 ^ 57 : Nat) : Int) < r.hi) then some 1 else none
  | .sp t side => if decide (r.lo < 0) || (s.spLoc (t, side) (r.hi - 1).toNat).isNone then some 2 else none

/-- Range-lock entries of a range (R348): a team-space range of a paired team is one entry on each core. -/
def State.lockEntries (s : State) (tag seq core djid : Nat) (r : RangeUse) : List RangeLock :=
  let lo := r.lo.toNat
  let hi := r.hi.toNat
  let entry := fun (sp : Option (Nat × Nat)) (a b : Nat) =>
    if a < b then [({ tag := tag, seq := seq, core := core, sp := sp, djid := djid, lo := a, hi := b, write := r.write } : RangeLock)] else []
  match r.base.space with
  | .glob => entry none lo hi
  | .sp t (some side) => entry (some (t, side)) lo hi
  | .sp t none =>
    let n := (s.launchOf t).lrec.scratch
    entry (some (t, 0)) lo (min hi n) ++ entry (some (t, 1)) (lo - n) (hi - n)

/-- The tag after one: 0 is skipped (R365). -/
def nextTagOf (t : Nat) : Nat := if t + 1 = 2 ^ 32 then 1 else t + 1

/-- Register an operation with its ranges: the state and its tag; none where the queue or the table has no room (R341, R348, R365). -/
def State.registerOp (s : State) (op : EngineOp) (rs : List RangeUse) : Option (State × Nat) :=
  let k := clusterOf op.core
  let c := s.cluster k
  let tag := c.nextTag
  let locks := rs.flatMap (s.lockEntries tag c.nextSeq op.core (s.launch op.launch).region.djid)
  if 32 ≤ c.ops.length || decide (64 < c.locks.length + locks.length) then none
  else
    some (s.setCluster k { c with
      ops := c.ops ++ [{ op with tag := tag, seq := c.nextSeq }], nextTag := nextTagOf tag, nextSeq := c.nextSeq + 1
      locks := c.locks ++ locks, status := ({ tag := tag } :: c.status).take 256 }, tag)

/-- Operation `tag` of a cluster. -/
def State.engineOp (s : State) (k tag : Nat) : Option EngineOp := (s.cluster k).ops.find? (fun o => o.tag = tag)

/-- Change an operation. -/
def State.mapEngine (s : State) (k tag : Nat) (f : EngineOp → EngineOp) : State :=
  let c := s.cluster k
  s.setCluster k { c with ops := c.ops.map (fun o => if o.tag = tag then f o else o) }

/-- Change what CPYST reads of an operation. -/
def State.mapStatus (s : State) (k tag : Nat) (f : EngineStatus → EngineStatus) : State :=
  let c := s.cluster k
  s.setCluster k { c with status := c.status.map (fun x => if x.tag = tag then f x else x) }

/-- The words of CPYST (R369). -/
def statusWord (x : Option EngineStatus) : Word :=
  match x with
  | none => wd (3 * 2 ^ 62)
  | some e => wd (e.state * 2 ^ 62 + natOfBool e.fail * 2 ^ 61 + min e.err 65535 * 2 ^ 40 + e.srcb % 2 ^ 40)

/-! ### Issue (R364, R365, R367 to R369) -/

/-- A cluster engine command: a transaction aborts, a split with no live thread has no effect but D = 0, logged instructions come first (R253, R320, R364). -/
def engineIssue (name : String) (f : RegForm) (s : State) (body : Latch → State → Group → Res) : Outcome State Fault Refusal :=
  outsideTx name s (fun l s1 =>
    let g := s1.groupAt l.ref
    let self := l.self s1
    if self &&& g.live = 0 then .discard (s1.setGroupAt l.ref (g.writeLate self l.pc f 0))
    else body l s1 g)

/-- The group's scratchpad stores that an operation's reads come after are performed (R347). -/
def State.settleScratch (s : State) (team grp : Nat) : Option State :=
  s.drain team grp (fun p => p.cells.any (fun c => match c.loc with | .sp _ _ _ => true | _ => false))

/-- A PROT trap on an operand word. -/
def trapProt (p : ProtAt) (self : Half) (write : Bool) : TrapReq := trapUniformAddr 0x08 p.cause p.word self write

/-- ALIGN of an operand word. -/
def alignTrap (n : Nat) (w : Word) (self : Half) : Option TrapReq :=
  if w.toNat % n != 0 then some (trapUniformAddr 0x07 0 w self true) else none

/-- ALIGN of the TB of a SYNC word. -/
def tbAlign (sync : Word) (self : Half) : Option TrapReq :=
  if !syncNotb sync && fld sync 35 0 % 16 != 0 then some (trapUniformAddr 0x07 0 (wd (fld sync 35 0)) self true) else none

/-- An operation with its registration still to come. -/
def newOp (kind : EngineKind) (s : State) (team grp split core : Nat) (pc w0 : Word) : EngineOp :=
  { tag := 0, kind := kind, seq := 0, team := team, grp := grp, split := split, core := core, pc := pc, w0 := w0, launch := (s.team team).launch
    src := ⟨.glob, 0⟩, dsts := [] }

/-- What a recipe reads at a core under given definitions (R355). -/
def State.mordantCx (s : State) (core : Nat) (fmts : Nat → Word) (param : Nat) : MordantCx :=
  { fmts := fun n => fmtOf (fmts n), planes := fun b => ((s.core core).bank b).reads, param := param % 2 ^ 32
    ring := fun n => (List.range 16).map (fun i => (AMap.get (s.die (dieOf core)).rings (16 * n + i) 0).toNat), free := s.free }

/-- A recipe reads or writes an amax ring (R358). -/
def usesRing (cells : List Nat) : Bool := cells.any (fun c => (cellKind c = 5 && cellPush c) || (cellKind c = 4 && cellSrc c = 1))

/-- The bytes that the WRITE cells of a recipe write, positions only. -/
def dryPuts (cx : MordantCx) (cells : List Nat) : List (List BytePut) := (runRecipe cx cells (fun _ _ => 0)).1

/-- Everything a CPY checks and registers, in the order of R314: the operation and its ranges, or its trap (R345, R355, R358, R359, R365); a CBDEC bank outside the mask is ILLOP 0x09 (log 106). `part` is the MASKPART check, where the issuer has one. -/
def State.cpyPlan (s : State) (op : EngineOp) (words : Nat → Word) (cells : Option (List Nat)) (fmts : Nat → Word) (self : Half)
    (part : Option TrapReq) : Except TrapReq (EngineOp × List RangeUse) :=
  let cx := s.mordantCx op.core fmts (words 3).toNat
  let cs := cells.getD []
  let bmask := (s.launchOf op.team).lrec.bmask
  match firstTrap
    [ if cs.any (fun c => cellKind c = 9 && !bitAt bmask (cellSlot c % 8)) then some trapOperand else none,
      if cells.isSome then recipeIssueTrap cx cs else none,
      part,
      if s.det op.team && usesRing cs then some trapDetOp else none,
      tbAlign (words 2) self,
      if badAddrWord (words 0) then some (trapProt ⟨0x0A, words 0⟩ self true) else none,
      if badAddrWord (words 1) then some (trapProt ⟨0x0A, words 1⟩ self true) else none,
      if badSync (words 2) then some (trapProt ⟨0x0A, words 2⟩ self true) else none,
      if fld (words 3) 63 32 != 0 then some (trapProt ⟨0x0A, words 3⟩ self true) else none ] with
  | some t => .error t
  | none =>
    match s.engDsts op.team op.core (words 1) (words 2), s.engBase op.team op.core (words 0) with
    | .error p, _ => .error (trapProt p self true)
    | .ok _, .error c => .error (trapProt ⟨c, words 0⟩ self false)
    | .ok dsts, .ok src =>
      if cells.isNone then .error (trapProt ⟨0x0C, words 0⟩ self true)
      else
        let puts := dryPuts cx cs
        let rs := coverOf src (readSpans (cs.headD 0) (readWidth cx cs).2) false (words 0) ++
          puts.flatMap (fun ps => dsts.flatMap (fun d => coverOf d.1 (ps.map (fun p => (p.off, 1))) true (words 1)))
        match rs.findSome? (fun r => (s.rangeCause r).map (fun c => (⟨c, r.word⟩ : ProtAt))) with
        | some p => .error (trapProt p self true)
        | none => .ok ({ op with
            src := src, dsts := dsts, param := (words 3).toNat, recipe := cs, fmts := (List.range 16).map (fun n => (n, fmts n))
            planes := (List.range 8).map (fun b => (b, cx.planes b))
            sides := (cs.filter (fun c => cellKind c = 9)).map (fun c => 2 * (cellSlot c % 8) + natOfBool ((s.core op.core).bank (cellSlot c % 8)).side) }, rs)

/-- CPY (R365). -/
def execCpy (f : RegForm) (s : State) : Outcome State Fault Refusal :=
  engineIssue "CPY" f s (fun l s1 g =>
    let self := l.self s1
    let k := clusterOf g.core
    if logWaits g self || s1.recipeBusy k f.fs.toNat then .hold s1
    else
      match s1.cpyPlan (newOp .cpy s1 l.ref.team l.ref.grp l.ref.split g.core l.pc l.w0) (commandWord g self f.a)
          (AMap.find (s1.cluster k).recipes f.fs.toNat) g.readF self (maskPart l s1 g) with
      | .error t => .trap t
      | .ok (op, rs) =>
        match s1.settleScratch l.ref.team l.ref.grp with
        | none => .hold s1
        | some s2 =>
          match s2.registerOp op rs with
          | none => .full s2
          | some (s3, tag) => doneGroup l s3 (({ s3.groupAt l.ref with lastOp := tag } : Group).writeOnce f.d (wd tag)))

/-- RCPL (R368): the image is read as one plain access, checked, and written into the slot. -/
def execRcpl (f : RegForm) (s : State) : Outcome State Fault Refusal :=
  engineIssue "RCPL" f s (fun l s1 g =>
    let self := l.self s1
    let a := g.readOpnd self f.a 0
    if logWaits g self || s1.recipeBusy (clusterOf g.core) f.fs.toNat then .hold s1
    else
      match firstTrap [maskPart l s1 g, alignTrap 32 a self, if badAddrWord a then some (trapProt ⟨0x0A, a⟩ self false) else none] with
      | some t => .trap t
      | none =>
        let sp := a.getLsbD 63
        let acc : Acc := { thr := eventThread g self, ea := wd (if sp then fld a 35 0 else fld a 56 0) }
        let req : MemReq :=
          { op := .load, space := if sp then .scratch else .glob, align := 32, cache := 0, order := .plain, scope := 0, accs := [acc]
            book := some ⟨f.fs.toNat, 0, .recipe⟩, untagged := true }
        let w : MemWho := ⟨l.ref.team, l.ref.grp, l.ref.split, g.nextInst, l.pc, l.w0, l.w1⟩
        match s1.settleHead w req with
        | none => .hold s1
        | some s2 => memIssue l s2 self none false none none [slotWords g self f.a] (s2.sized w req))

/-- CPYST (R369). -/
def execCpyst (f : RegForm) (s : State) : Outcome State Fault Refusal :=
  outsideTx "CPYST" s (fun l s1 =>
    let g := s1.groupAt l.ref
    let tag := match f.a with | .g _ => (g.readOpnd (l.self s1) f.a 0).toNat | _ => g.lastOp
    doneGroup l s1 (g.writeOnce f.d (statusWord ((s1.cluster (clusterOf g.core)).status.find? (fun x => x.tag = tag)))))

/-! ### Static copy schedules (R360, R361, R367) -/

/-- STAGE of a schedule entry. -/
def schedStage (e : Nat) : Nat := bitsOf e 23 16

/-- The command words of a schedule entry for linear team `n` (R361). -/
def schedWord (e n j : Nat) : Word :=
  let w := fun (lo : Nat) => wd (bitsOf e (lo + 63) lo)
  match j with
  | 0 => w 320 + wd n * w 384
  | 1 => w 192 + wd n * w 256
  | 2 => w 128
  | _ => w 448

/-- Release one entry of a team's schedule: none where there is no room for it yet. An entry that would trap is a fault of the team (R361, R316). It is issued as by group 0 on the leader core, and performs no queued store first (log 106). -/
def State.releaseEntry (s : State) (team i e : Nat) : Option State :=
  let t := s.team team
  let l := s.launchOf team
  let slot := e % 16
  let mark := fun (x : State) => x.setTeam team { x.team team with released := (x.team team).released ++ [i] }
  let op := newOp .cpy s team 0 0 t.core 0 0
  let plan := if 8 ≤ slot then .error { code := 0x01, aux := 4 }
    else if !bitAt l.lrec.rmask slot then .error { code := 0x01, aux := 8 }
    else s.cpyPlan op (schedWord e t.linear) (AMap.find (s.cluster (clusterOf t.core)).recipes slot)
      (fun n => if n = 15 then defaultFmt 15 else launchFmt n (l.lrec.slots.getD n 0)) 0xFFFFFFFF none
  match plan with
  | .error r => some ((mark s).regionTrap ⟨team, 0, 0⟩ ⟨r, 0, 0, 0, 0⟩)
  | .ok (o, rs) => (s.registerOp { o with scheduled := true } rs).map (fun r => mark r.1)

/-- Release the due entries of a team in schedule order, as far as there is room (R361). -/
def State.releaseDue (s : State) (team : Nat) (es : List (Nat × Nat)) : State :=
  match es with
  | [] => s
  | e :: rest =>
    let t := s.team team
    if t.released.contains e.1 || decide (t.stage < schedStage e.2) || (s.launchOf team).ended.isSome then s.releaseDue team rest
    else
      match s.releaseEntry team e.1 e.2 with
      | none => s
      | some s1 => s1.releaseDue team rest

/-- Release what is due for a team. -/
def State.releases (s : State) (team : Nat) : State :=
  s.releaseDue team ((s.launchOf team).sched.zipIdx.map (fun e => (e.2, e.1)))

/-- Release what is due for every team of a cluster, once an operation has left it. -/
def State.releasesAt (s : State) (k : Nat) : State :=
  (s.teams.filter (fun t => clusterOf t.2.core = k && t.2.saved.isNone)).foldl (fun (acc : State) t => acc.releases t.1) s

/-- STGADV (R367). -/
def execStgadv (f : RegForm) (s : State) : Outcome State Fault Refusal :=
  engineIssue "STGADV" f s (fun l s1 g =>
    match maskPart l s1 g with
    | some t => .trap t
    | none =>
      if logWaits g (l.self s1) then .hold s1
      else
        let n := match f.a with | .g _ => (g.readOpnd (l.self s1) f.a 0).toNat % 256 | _ => 1
        let t := s1.team l.ref.team
        .done ((s1.setTeam l.ref.team { t with stage := min 255 (t.stage + n) }).releases l.ref.team))

/-! ### GATH and SCAT (R362, R366) -/

/-- SIZE of GATH and SCAT in bytes. -/
def listSize (f : RegForm) : Nat := 2 ^ (f.mod.toNat / 64 % 8)

/-- The checks and ranges of GATH and SCAT. -/
def State.listPlan (s : State) (scat : Bool) (op : EngineOp) (words : Nat → Word) (list count : Word) (size : Nat) (self : Half)
    (part : Option TrapReq) : Except TrapReq (EngineOp × List RangeUse) :=
  let n := count.toNat
  let extent := fld (words 3) 47 0
  match firstTrap
    [ part, tbAlign (words 2) self, alignTrap 8 list self, alignTrap size (words 0) self, alignTrap size (words 1) self,
      if badAddrWord (words 0) then some (trapProt ⟨0x0A, words 0⟩ self true) else none,
      if badAddrWord (words 1) then some (trapProt ⟨0x0A, words 1⟩ self true) else none,
      if badSync (words 2) then some (trapProt ⟨0x0A, words 2⟩ self true) else none,
      if fld (words 3) 63 48 != 0 then some (trapProt ⟨0x0A, words 3⟩ self true) else none,
      if badAddrWord list then some (trapProt ⟨0x0A, list⟩ self true) else none,
      if syncMc (words 2) then some (trapProt ⟨0x0B, words 2⟩ self true) else none,
      if n = 0 || decide (4096 < n) then some (trapProt ⟨0x0D, count⟩ self true) else none,
      if extent = 0 then some (trapProt ⟨0x0D, words 3⟩ self true) else none ] with
  | some t => .error t
  | none =>
    match s.engDsts op.team op.core (words 1) (words 2), s.engBase op.team op.core (words 0), s.engBase op.team op.core list with
    | .error p, _, _ => .error (trapProt p self true)
    | .ok _, .error c, _ => .error (trapProt ⟨c, words 0⟩ self false)
    | .ok _, .ok _, .error c => .error (trapProt ⟨c, list⟩ self false)
    | .ok dsts, .ok src, .ok lst =>
      let rs := coverOf lst [(0, 8 * n)] false list ++ coverOf src [(0, (if scat then n else extent) * size)] false (words 0) ++
        dsts.flatMap (fun d => coverOf d.1 [(0, (if scat then extent else n) * size)] true (words 1))
      match rs.findSome? (fun r => (s.rangeCause r).map (fun c => (⟨c, r.word⟩ : ProtAt))) with
      | some p => .error (trapProt p self true)
      | none => .ok ({ op with src := src, dsts := dsts, list := lst, param := extent, count := n, size := size }, rs)

/-- GATH and SCAT at issue; with STRICT the split waits for the list (R362, R366). -/
def listIssue (name : String) (scat : Bool) (f : RegForm) (s : State) : Outcome State Fault Refusal :=
  engineIssue name f s (fun l s1 g =>
    let self := l.self s1
    if logWaits g self then .hold s1
    else
      match s1.listPlan scat (newOp (if scat then .scat else .gath) s1 l.ref.team l.ref.grp l.ref.split g.core l.pc l.w0) (commandWord g self f.a)
          (g.readOpnd self f.b 0) (g.readOpnd self f.c 0) (listSize f) self (maskPart l s1 g) with
      | .error t => .trap t
      | .ok (op, rs) =>
        match s1.settleScratch l.ref.team l.ref.grp with
        | none => .hold s1
        | some s2 =>
          match s2.registerOp { op with strict := RegForm.flag f, prev := (s2.groupAt l.ref).lastOp } rs with
          | none => .full s2
          | some (s3, tag) =>
            let s4 := s3.setGroupAt l.ref { s3.groupAt l.ref with lastOp := tag }
            if RegForm.flag f then .done (s4.parkAt l (.engine f.d tag))
            else doneGroup l s4 ((s4.groupAt l.ref).writeOnce f.d (wd tag)))

/-- GATH (R366). -/
def execGath (f : RegForm) (s : State) : Outcome State Fault Refusal := listIssue "GATH" false f s
/-- SCAT (R366). -/
def execScat (f : RegForm) (s : State) : Outcome State Fault Refusal := listIssue "SCAT" true f s

/-! ### RGET and RPUT at issue (R467, R474, R475) -/

/-- The route memory has a valid column for a package, or it is this one (R467, R494). -/
def State.routeValid (s : State) (pkg : Nat) : Bool := pkg = s.ctl.self || AMap.get s.fab.routes pkg (0, 0) != (0, 0)

/-- The checks and ranges of RGET and RPUT. -/
def State.bulkPlan (s : State) (put : Bool) (op : EngineOp) (words : Nat → Word) (self : Half) (part : Option TrapReq) :
    Except TrapReq (EngineOp × List RangeUse) :=
  let w0 := words 0
  let peer := fld w0 9 0
  let notb := w0.getLsbD 16
  let tb := fld w0 52 17
  let n := fld (words 3) 31 0
  let bad := fun (w : Word) => some (trapProt ⟨0x0A, w⟩ self true)
  match firstTrap
    [ part,
      if !notb && tb % 16 != 0 then some (trapUniformAddr 0x07 0 (wd tb) self true) else none,
      if fld w0 63 53 != 0 || fld w0 15 10 != 0 then some (trapProt ⟨0x10, w0⟩ self true) else none,
      if !s.routeValid peer then some (trapProt ⟨0x11, w0⟩ self true) else none,
      if fld (words 1) 63 57 != 0 then some (trapProt ⟨1, words 1⟩ self true) else none,
      if notb && tb != 0 then bad w0 else none,
      if badAddrWord (words 2) then bad (words 2) else none,
      if fld (words 3) 63 32 != 0 || n = 0 then bad (words 3) else none,
      if 2 ^ 57 < fld (words 1) 56 0 + n then some (trapProt ⟨1, words 1⟩ self true) else none ] with
  | some t => .error t
  | none =>
    match s.engBase op.team op.core (words 2), (if notb then .ok none else (s.tbRef op.team op.core tb).map some) with
    | .error c, _ => .error (trapProt ⟨c, words 2⟩ self true)
    | .ok _, .error c => .error (trapProt ⟨c, w0⟩ self true)
    | .ok b, .ok t =>
      let rs := coverOf b [(0, n)] (!put) (words 2)
      match rs.findSome? (fun r => (s.rangeCause r).map (fun c => (⟨c, r.word⟩ : ProtAt))) with
      | some p => .error (trapProt p self true)
      | none => .ok ({ op with src := b, dsts := [(b, t)], peer := peer, raddr := fld (words 1) 56 0, count := n }, rs)

/-- RGET and RPUT at issue: an unanswered remote acquire of the split's threads holds them (R482), and the tag is a result under lookahead (R71, R465). -/
def bulkIssue (name : String) (put : Bool) (f : RegForm) (s : State) : Outcome State Fault Refusal :=
  engineIssue name f s (fun l s1 g =>
    let self := l.self s1
    if logWaits g self || s1.acquirePending l.ref.team l.ref.grp (threadsOf self) then .hold s1
    else
      match s1.bulkPlan put (newOp (if put then .rput else .rget) s1 l.ref.team l.ref.grp l.ref.split g.core l.pc l.w0) (commandWord g self f.a)
          self (maskPart l s1 g) with
      | .error t => .trap t
      | .ok (op, rs) =>
        match s1.settleScratch l.ref.team l.ref.grp with
        | none => .hold s1
        | some s2 =>
          match s2.registerOp op rs with
          | none => .full s2
          | some (s3, tag) => doneGroup l s3 (({ s3.groupAt l.ref with lastOp := tag } : Group).writeLate self l.pc f (wd tag)))

/-- RGET (R475). -/
def execRget (f : RegForm) (s : State) : Outcome State Fault Refusal := bulkIssue "RGET" false f s
/-- RPUT (R475). -/
def execRput (f : RegForm) (s : State) : Outcome State Fault Refusal := bulkIssue "RPUT" true f s

/-! ### Cells and sectors of an operation (R346) -/

/-- The cell of an address from a base; `m` translates global ones, and a WRITE cell's CACHE 3 allocates no line in the L2 (R218, R351). -/
def State.engCell (s : State) (m : ChunkMap) (b : EngBase) (a : Nat) (cache : Nat := 0) : Cell :=
  match b.space with
  | .glob =>
    let c := (placeCells m 0 true none false [a]).headD { loc := .mem 0, path := .home }
    if cache = 3 then c.via .noalloc else c
  | .sp t side => { loc := (s.spLoc (t, side) a).getD (.sp t 0 a), path := .home, va := a }

/-- `n` bytes at an offset from a base, as a number. -/
def State.engRead (s : State) (m : ChunkMap) (b : EngBase) (off : Int) (n : Nat) : Nat :=
  leNat ((List.range n).map (fun i => s.peek (s.engCell m b (((b.base : Nat) : Int) + off + (i : Nat)).toNat)))

/-- Add a byte to the sector it lies in. -/
def addToSector (xs : List (Nat × List (Nat × BytePut))) (a : Nat) (p : BytePut) : List (Nat × List (Nat × BytePut)) :=
  match xs with
  | [] => [(a / 32, [(a, p)])]
  | x :: rest => if x.1 = a / 32 then (x.1, x.2 ++ [(a, p)]) :: rest else x :: addToSector rest a p

/-- Bytes by the aligned 32-byte sector of their address, each sector's in order. -/
def sectorsOf (base : Nat) (ps : List BytePut) : List (Nat × List (Nat × BytePut)) :=
  ps.foldl (fun acc p => addToSector acc (((base : Nat) : Int) + p.off).toNat p) []

/-- The sector writes of a list of bytes at one destination, each counting one sector (R346). -/
def State.sectorWrites (s : State) (m : ChunkMap) (d : EngBase × Option TbRef) (ps : List BytePut) (cache : Nat := 0) : List SectorWrite :=
  (sectorsOf d.1.base ps).map (fun x =>
    { bytes := x.2.map (fun y => (s.engCell m d.1 y.1 cache, y.2.mask, y.2.val)), tb := d.2, dec := 1 })

/-- The bytes of a number at an offset. -/
def bytePuts (off n v : Nat) : List BytePut := (List.range n).map (fun i => { off := (off + i : Nat), mask := 255, val := (v >>> (8 * i)) % 256 })

/-- Entries of a list are valid (R362). -/
def entryValid (extent x : Nat) : Bool := !bitAt x 63 && decide (x < extent)

/-- Global intervals from a base, of byte offsets; none for scratchpad. -/
def globalSpans (b : EngBase) (xs : List (Int × Nat)) : List (Nat × Nat) :=
  match b.space with
  | .glob => xs.map (fun x => ((((b.base : Nat) : Int) + x.1).toNat, x.2))
  | .sp _ _ => []

/-- What the pages of an operation give: maps of the pages it reads and writes, a fault with its cause, address and kind, pages to request, or a host translation to await (R363). -/
inductive EngPages where
  | ok (s : State) (r w : ChunkMap)
  | fault (aux addr : Nat) (write : Bool)
  | need (ps : List NeedPage)
  | wait (s : State)

/-- Translate what an operation reads and writes (R363). -/
def State.engPages (s : State) (x : XCtx) (reads writes : List (Nat × Nat)) : EngPages :=
  match s.xlateSpans x false reads with
  | .trap t => .fault (t.aux % 256) ((t.pages.head?.map (fun p => p.addr)).getD 0) false
  | .need ps => .need ps
  | .wait s1 => .wait s1
  | .ok s1 r =>
    match s1.xlateSpans x true writes with
    | .trap t => .fault (t.aux % 256) ((t.pages.head?.map (fun p => p.addr)).getD 0) true
    | .need ps => .need ps
    | .wait s2 => .wait s2
    | .ok s2 w => .ok s2 r w

/-- What an operation does once its list is read: the offsets it reads, the bytes of each WRITE cell or list entry, source bytes, errors, pushes and free values; `rd` reads the source. -/
structure EngPlan where
  reads : List (Int × Nat)
  /-- Bytes, and the sectors they count where that is not one for each (R346). -/
  writes : List (List BytePut × Option Nat)
  srcb : Nat
  err : Nat := 0
  pushes : List (Nat × Half) := []
  used : Nat := 0
  /-- CACHE of each list of `writes`; 0 where there is none (R351). -/
  caches : List Nat := []

/-- What the elements of a list write, in order: `put` gives an element's bytes, and may read what earlier ones have written, the newest first (R362). -/
def listPuts (put : List BytePut → Nat × Nat → List BytePut) (done : List BytePut) (xs : List (Nat × Nat)) : List (List BytePut) :=
  match xs with
  | [] => []
  | e :: rest => let ps := put done e; ps :: listPuts put (ps.reverse ++ done) rest

/-- The plan of a CPY, GATH or SCAT (R352, R353, R362). `rd` reads the source after some bytes have been written at the destination, the newest first. -/
def State.enginePlan (s : State) (o : EngineOp) (entries : List Nat) (rd : List BytePut → Int → Nat → Nat) : EngPlan :=
  match o.kind with
  | .gath =>
    let bad := (entries.filter (fun x => !entryValid o.param x)).length
    { reads := (entries.filter (entryValid o.param)).map (fun x => ((x * o.size : Nat), o.size))
      writes := [((listPuts (fun done e => bytePuts (e.2 * o.size) o.size (if entryValid o.param e.1 then rd done (e.1 * o.size : Nat) o.size else 0))
        [] entries.zipIdx).flatten, none)]
      srcb := (entries.length - bad) * o.size, err := bad }
  | .scat =>
    let bad := (entries.filter (fun x => !entryValid o.param x)).length
    { reads := (entries.zipIdx).filterMap (fun (e : Nat × Nat) => if entryValid o.param e.1 then some ((e.2 * o.size : Nat), o.size) else none)
      writes := (listPuts (fun done e => if entryValid o.param e.1 then bytePuts (e.1 * o.size) o.size (rd done (e.2 * o.size : Nat) o.size) else [])
        [] entries.zipIdx).map (fun ps => (ps, some (ceilDiv o.size 32)))
      srcb := (entries.length - bad) * o.size, err := bad }
  | .cpy =>
    let cx : MordantCx :=
      { s.mordantCx o.core (fun n => AMap.get o.fmts n 0) o.param with planes := fun b => (AMap.find o.planes b).getD {} }
    let spans := readSpans (o.recipe.headD 0) (readWidth cx o.recipe).2
    let r := runRecipe cx o.recipe (rd [])
    { reads := spans, writes := r.1.map (fun ps => (ps, none)), srcb := (spans.map (fun x => x.2)).sum, err := r.2.errs, pushes := r.2.pushes, used := r.2.used
      caches := (o.recipe.filter (fun c => cellKind c = 11)).map (fun c => bitsOf c 11 10) }
  | _ => { reads := [], writes := [], srcb := 0 }

/-- The source of an operation as its elements read it, after the bytes that earlier elements have written at the destination (R362). -/
def State.engSource (s : State) (r w : ChunkMap) (o : EngineOp) (done : List BytePut) (off : Int) (n : Nat) : Nat :=
  match done, o.dsts with
  | [], _ => s.engRead r o.src off n
  | _, [] => s.engRead r o.src off n
  | _, d :: _ =>
    leNat ((List.range n).map (fun i =>
      let c := s.engCell r o.src (((o.src.base : Nat) : Int) + off + (i : Nat)).toNat
      match done.find? (fun p => (s.engCell w d.1 (((d.1.base : Nat) : Int) + p.off).toNat).loc = c.loc) with
      | some p => BitVec.ofNat 8 p.val
      | none => s.peek c))

/-- The sector writes of a plan at every destination (R346, R359). -/
def State.planWrites (s : State) (m : ChunkMap) (o : EngineOp) (p : EngPlan) : List SectorWrite :=
  p.writes.zipIdx.flatMap (fun x => let w := x.1; o.dsts.flatMap (fun d =>
    match w.2 with
    | none => s.sectorWrites m d w.1 (p.caches.getD x.2 0)
    | some n => [{ bytes := w.1.map (fun x => (s.engCell m d.1 (((d.1.base : Nat) : Int) + x.off).toNat, x.mask, x.val)), tb := d.2, dec := n }]))

/-! ### Remote pieces (R475) -/

/-- The pieces of a remote range, cut at 256-byte boundaries: address and bytes. -/
def remotePieces (fuel va n : Nat) : List (Nat × Nat) :=
  match fuel with
  | 0 => []
  | k + 1 => if n = 0 then [] else let m := min n (256 - va % 256); (va, m) :: remotePieces k (va + m) (n - m)

/-- Sectors of 32 bytes that [va, va + n) touches. -/
def sectorCount (va n : Nat) : Nat := if n = 0 then 0 else (va + n - 1) / 32 - va / 32 + 1

/-- The requests of an RGET or RPUT, with local cells and the sectors an RPUT's answers count. -/
def State.bulkPieces (s : State) (m : ChunkMap) (o : EngineOp) : List (Packet × List Cell × Nat) :=
  let put := o.kind = .rput
  (remotePieces (o.count / 256 + 2) o.raddr o.count).map (fun x =>
    let cells := (List.range x.2).map (fun i => s.engCell m o.src (o.src.base + (x.1 - o.raddr) + i))
    ({ eseq := 0, djid := (s.launch o.launch).region.djid, dest := o.peer, src := s.ctl.self, va := x.1, len := x.2, op := if put then 0x07 else 0x06
       resp := false, rel := false, acq := false, resent := false, rtag := rtagOf (s.group o.team o.grp) o.tag, asz := false, sub := 0, index := 0, tile := 0
       core := 0, count := 0, data := if put then cells.map s.peek else [] }, if put then [] else cells, if put then sectorCount x.1 x.2 else 0))

/-- Send the pieces of an operation that can be sent now, in order (R472, R475). -/
def State.sendPieces (s : State) (k tag : Nat) (fuel : Nat) : State :=
  match fuel with
  | 0 => s
  | n + 1 =>
    match s.engineOp k tag with
    | none => s
    | some o =>
      match o.unsent with
      | [] => s
      | p :: rest =>
        if 4096 ≤ s.unanswered o.peer || s.blockBusy o.team o.grp o.peer (p.1.va / 256) (some o.seq) then s
        else
          let s1 := s.mapEngine k tag (fun x => { x with unsent := rest, pieces := x.pieces + 1 })
          (s1.sendRequest { pkt := p.1, owner := .engine k tag, pc := o.pc, w0 := o.w0, cells := p.2.1, dec := p.2.2 }).sendPieces k tag n

/-- Send what every operation can send: after an answer has made room. -/
def State.sendAllPieces (s : State) : State :=
  (s.clusters.flatMap (fun c => c.2.ops.map (fun o => (c.1, o.tag, o.unsent.length)))).foldl (fun (acc : State) x => acc.sendPieces x.1 x.2.1 x.2.2) s

/-! ### Events of an operation (R346, R349, R363) -/

/-- Count the sectors of a write at its TB. -/
def State.countSectors (s : State) (w : SectorWrite) : State :=
  match w.tb with
  | some t => s.updateTb t.team t.side t.off 0 w.dec 0 0
  | none => s

/-- Count sectors that are done, in order; the last at each TB is kept until the operation completes (R349). `left` is what remains to write, and `more` says that requests of an RGET or RPUT remain. -/
def State.countAll (s : State) (k tag : Nat) (left : List SectorWrite) (more : Bool) (done : List SectorWrite) : State :=
  match done with
  | [] => s
  | w :: rest =>
    let s1 := if more || (left ++ rest).any (fun x => x.tb = w.tb) then s.countSectors w
      else s.mapEngine k tag (fun x => { x with held := x.held ++ [{ w with bytes := [] }] })
    s1.countAll k tag left more rest

/-- Count sectors of an operation that are done, with `left` still to be written. -/
def State.countDone (s : State) (k tag : Nat) (left done : List SectorWrite) : State :=
  match s.engineOp k tag with
  | none => s
  | some o =>
    let more := o.kind = .rput && (!o.unsent.isEmpty || o.pieces != 0)
    (s.mapEngine k tag (fun x => { x with writes := left })).countAll k tag left more done

/-- A sector write with the check codes made where its data is formed (R395). -/
def SectorWrite.coded (w : SectorWrite) : SectorWrite :=
  { w with codes := checkCodes (w.bytes.filterMap (fun b => match b.1.loc with
      | .mem k => if b.2.1 = 0 then none else some (k, BitVec.ofNat 8 b.2.2)
      | _ => none)) }

/-- Write a byte under a mask at its point of coherence. -/
def State.pokeMasked (s : State) (x : Cell × Nat × Nat) : State :=
  let old := (s.peek x.1).toNat
  s.poke x.1 (BitVec.ofNat 8 ((old ^^^ (old &&& x.2.1)) ||| (x.2.2 &&& x.2.1)))

/-- Write the bytes of a sector; waits on a TB they cover are tested again. -/
def State.writeSector (s : State) (w : SectorWrite) : State :=
  let s1 := w.bytes.foldl (fun (acc : State) x => acc.pokeMasked x)
    ((s.pinCells (w.bytes.map (fun x => x.1))).freshCells none ((w.bytes.filter (fun x => x.2.1 = 255)).map (fun x => x.1)))
  if w.bytes.any (fun x => match x.1.loc with | .sp _ _ _ => true | _ => false) then s1.retestTbs else s1

/-- A fault ends an operation: FAIL, and the region is told (R363, R520). -/
def State.engineFault (s : State) (k : Nat) (o : EngineOp) (code aux addr : Nat) (write remote : Bool) : State :=
  let s1 := (s.mapStatus k o.tag (fun x => { x with fail := true })).mapEngine k o.tag (fun x => { x with fail := true })
  if o.fail then s1
  else
    let t := s1.team o.team
    s1.reportFault o.team o.grp (fun e => recordBits addr o.pc.toNat t.launch t.linear o.grp 0 1 o.split true write false remote 0 aux code e) code

/-- The split that waits for the list of a strict operation. -/
def Group.strictWaiter (g : Group) (tag : Nat) : Option (Nat × Opnd) :=
  (List.range 8).findSome? (fun i => match (g.split i).st, (g.split i).wait with
    | 5, .engine d t => if t = tag then some (i, d) else none
    | _, _ => none)

/-- The list of a strict operation is valid: its split goes on with the tag (R362). -/
def State.wakeStrict (s : State) (o : EngineOp) : State :=
  let g := s.group o.team o.grp
  match g.strictWaiter o.tag with
  | some (i, d) => s.setGroup o.team o.grp ((g.writeOnce d (wd o.tag)).wake i)
  | none => s

/-- An operation leaves its cluster with its range-lock entries. -/
def State.dropEngine (s : State) (k : Nat) (o : EngineOp) : State :=
  let c := s.cluster k
  s.setCluster k { c with ops := c.ops.filter (fun x => x.tag != o.tag), locks := c.locks.filter (fun x => x.seq != o.seq) }

/-- A strict operation with an invalid entry: the instruction traps precisely, and nothing of the operation is left (R362). -/
def State.strictTrap (s : State) (k : Nat) (o : EngineOp) (j : Nat) : State :=
  let c := s.cluster k
  let s1 := (s.setCluster k { c with status := c.status.filter (fun x => x.tag != o.tag) }).dropEngine k o
  let g := s1.group o.team o.grp
  let g1 : Group := if g.lastOp = o.tag then { g with lastOp := o.prev } else g
  match g.strictWaiter o.tag with
  | some (i, _) =>
    let sp := g.split i
    let addr := wd (o.list.base + 8 * j)
    let t : TrapReq := trapUniformAddr 0x08 (0x0E + 256 * j) addr sp.mask false
    ((s1.setGroup o.team o.grp (g1.setSplit i { sp with st := sp.ready, wait := .none })).present ⟨o.team, o.grp, i⟩ ⟨t, o.pc, o.w0, 0, sp.pc⟩).releasesAt k
  | none => s1.releasesAt k

/-- An operation that a fault ends before it writes: every sector it had to count is still counted (R363). -/
def State.failEngine (s : State) (k : Nat) (o : EngineOp) (aux addr : Nat) (write : Bool) : State :=
  let s1 := (s.engineFault k o 0x09 aux addr write false).wakeStrict o
  let count := o.count
  let ws : List SectorWrite := match o.kind with
    | .cpy => s1.planWrites [] o (s1.enginePlan o [] (fun _ _ _ => 0))
    | .gath => s1.planWrites [] o (s1.enginePlan o (List.replicate count (2 ^ 63)) (fun _ _ _ => 0))
    | .scat => s1.planWrites [] o (s1.enginePlan o (List.replicate count (2 ^ 63)) (fun _ _ _ => 0))
    | .rget => (o.dsts.flatMap (fun d => s1.sectorWrites [] d (bytePuts 0 count 0)))
    | .rput => [{ bytes := [], tb := (o.dsts.head?.bind (fun d => d.2)), dec := ((remotePieces (count / 256 + 2) o.raddr count).map (fun x => sectorCount x.1 x.2)).sum }]
  ((s1.mapStatus k o.tag (fun x => { x with state := 1 })).mapEngine k o.tag (fun x => { x with started := true })).countDone k o.tag [] ws

/-- Run an operation whose pages can be used: what it writes, or the requests it sends. The whole source is read here, and SRCB set to its total (R226, R346, R350; log 106). -/
def State.runEngine (s : State) (k : Nat) (o : EngineOp) (entries : List Nat) (r w : ChunkMap) : State :=
  match o.kind with
  | .rget =>
    let s1 := s.mapStatus k o.tag (fun x => { x with state := 1 })
    let ws := o.dsts.flatMap (fun d => (s1.sectorWrites w d (bytePuts 0 o.count 0)))
    (s1.mapEngine k o.tag (fun x => { x with started := true, unsent := s1.bulkPieces w o, writes := ws.map (fun y => { y with bytes := y.bytes.map (fun b => (b.1, 0, 0)) }) })).sendPieces k o.tag (o.count + 1)
  | .rput =>
    let s1 := s.mapStatus k o.tag (fun x => { x with state := 1, srcb := o.count })
    (s1.mapEngine k o.tag (fun x => { x with started := true, unsent := s1.bulkPieces r o })).sendPieces k o.tag (o.count + 1)
  | _ =>
    let p := s.enginePlan o entries (s.engSource r w o)
    let ws := s.planWrites w o p
    let s1 := s.mapStatus k o.tag (fun x => { x with state := 1, err := p.err, srcb := p.srcb })
    ({ s1 with free := s1.free + p.used } : State).mapEngine k o.tag (fun x => { x with started := true, writes := ws.map SectorWrite.coded, pushes := p.pushes })

/-- Pages of an operation need the pager: it waits for them; a pager launch's own are answered as fatal (R363, R389, R430). -/
def State.engineNeeds (s : State) (k : Nat) (o : EngineOp) (ps : List NeedPage) : State :=
  let l := s.launch o.launch
  match l.origin with
  | .pager _ => s.failEngine k o 2 ((ps.head?.map (fun p => p.base)).getD 0) ((ps.head?.map (fun p => p.write)).getD false)
  | _ =>
    let r := s.requestPages (dieOf o.core) l.region.djid l.region { launch := l.id, engine := true } (.engine k o.tag) ps
    r.1.mapEngine k o.tag (fun x => { x with waits := r.2 })

/-- The cells of what an operation reads from a base, by its offsets. -/
def State.spanCellsOf (s : State) (m : ChunkMap) (b : EngBase) (globals : List (Nat × Nat)) (offs : List (Int × Nat)) : List Cell :=
  match b.space with
  | .glob => globals.flatMap (fun x => spanCells m x.1 x.2)
  | .sp _ _ => offs.flatMap (fun x => (List.range x.2).map (fun i => s.engCell m b (((b.base : Nat) : Int) + x.1 + (i : Nat)).toNat))

/-- The second part of a start: the list is known, and valid where the operation is strict, so that its split goes on (R362). Its reads wait while a commit holds a line of theirs (R254). -/
def State.startListed (s : State) (k : Nat) (o : EngineOp) (entries : List Nat) : State :=
  match (if o.strict then (entries.zipIdx).find? (fun (e : Nat × Nat) => !entryValid o.param e.1) else none) with
  | some e => s.strictTrap k o e.2
  | none =>
    let p := s.enginePlan o entries (fun _ _ _ => 0)
    let reads := match o.kind with
      | .rput => globalSpans o.src [(0, o.count)]
      | _ => globalSpans o.src p.reads
    let writes := match o.kind with
      | .rget => o.dsts.flatMap (fun d => globalSpans d.1 [(0, o.count)])
      | _ => o.dsts.flatMap (fun d => p.writes.flatMap (fun w => globalSpans d.1 (w.1.map (fun x => (x.off, 1)))))
    let s0 := s.wakeStrict o
    match s0.engPages (s0.dieCtx o.team o.core) reads writes with
    | .ok s1 r w =>
      let cells := s1.spanCellsOf r o.src reads (match o.kind with | .rput => [(0, o.count)] | _ => p.reads)
      if cellsLocked s1.lockedLines cells then s0 else (s1.pinCells cells).runEngine k o entries r w
    | .fault aux addr write => s0.failEngine k o aux addr write
    | .need ps => s0.engineNeeds k o ps
    | .wait s1 => s1

/-- An operation that no earlier entry holds back, and whose pages are there, runs (R349, R362, R363). -/
def State.engineStart (s : State) (cluster tag : Nat) : State :=
  match s.engineOp cluster tag with
  | none => s
  | some o =>
    if o.started || !o.waits.isEmpty || !s.lockFree o.core o.seq || (s.team o.team).saved.isSome then s
    else
      match o.fatal with
      | some f => s.failEngine cluster o 2 f.1 f.2
      | none =>
        match o.kind, o.entries with
        | .cpy, _ => s.startListed cluster o []
        | .rget, _ => s.startListed cluster o []
        | .rput, _ => s.startListed cluster o []
        | _, some es => s.startListed cluster o es
        | _, none =>
          match s.engPages (s.dieCtx o.team o.core) (globalSpans o.list [(0, 8 * o.count)]) [] with
          | .ok s1 r _ =>
            let cells := s1.spanCellsOf r o.list (globalSpans o.list [(0, 8 * o.count)]) [(0, 8 * o.count)]
            if cellsLocked s1.lockedLines cells then s
            else
              let es := (List.range o.count).map (fun j => s1.engRead r o.list (8 * j : Nat) 8)
              (((s1.pinCells cells).mapEngine cluster tag (fun x => { x with entries := some es }))).startListed cluster { o with entries := some es } es
          | .fault aux addr write => s.failEngine cluster o aux addr write
          | .need ps => s.engineNeeds cluster o ps
          | .wait s1 => s1

/-- ENGINE_OP_START (R349, R362, R363). -/
def execEngineOpStart (cluster tag : Nat) (s : State) : Outcome State Fault Refusal := .next (s.engineStart cluster tag)

/-- Scratchpad words written from data whose read check failed twice raise UCE with cause 0x08 when they are consumed (R398). -/
def State.spoilSp (s : State) (c : Checks) (w : SectorWrite) : State :=
  if c.mismatches < 2 then s
  else w.bytes.foldl (fun (acc : State) b => match b.1.loc with
    | .sp t side off => acc.spoil (.sp t side (off / 8)) 8
    | _ => acc) s

/-- Words of scratchpad that bytes are written to from a read whose check is to fail twice raise UCE with cause 0x08 when they are consumed (R398). -/
def State.meetMisreads (s : State) (cs : List Cell) : State :=
  s.misread (fun p => match p with
    | .sp t side w => cs.any (fun c => match c.loc with | .sp u k off => u = t && k = side && off / 8 = w | _ => false)
    | _ => false)

/-- ENGINE_SECTOR_WRITE: the next sector is written and counted; the count of the last at each TB waits for the completion. A sector of package memory whose tests fail twice is not committed, and raises E2E (R346, R349, R395, R397). -/
def execEngineSectorWrite (cluster : Nat) (written : Checked Nat) (s : State) : Outcome State Fault Refusal :=
  let tag := written.it
  let c := written.checks
  match s.engineOp cluster tag with
  | none => .next s
  | some o =>
    match o.writes with
    | [] => .next s
    | w :: rest =>
      if !o.started || o.kind = .rget || o.kind = .rput || cellsLocked s.lockedLines (w.bytes.map (fun b => b.1)) then .next s
      else
        let kept := { w with bytes := w.bytes.filter (fun b => !b.1.loc.inSectors (failedSectors c.fails)) }
        let s1 := ((s.writeSector kept).spoilSp c kept).countDone cluster tag rest [w]
        .next (s1.e2eFails o.team o.grp c.fails (w.bytes.map (fun b => b.1.loc)) ⟨{ code := 0x10 }, o.pc, o.w0, 0, 0⟩)

/-- Push an amax into a ring: it takes the place of the oldest entry (R358). -/
def pushRing (rings : AMap Half) (ring : Nat) (v : Half) : AMap Half :=
  let old := (List.range 16).map (fun i => AMap.get rings (16 * ring + i) 0)
  ((old.drop 1 ++ [v]).zipIdx).foldl (fun (acc : AMap Half) (x : Half × Nat) => AMap.set acc (16 * ring + x.2) x.1 0) rings

/-- ENGINE_OP_COMPLETE: the entries are removed, then the last sector is counted; the ring receives what the operation pushes (R349, R358). -/
def execEngineOpComplete (cluster tag : Nat) (s : State) : Outcome State Fault Refusal :=
  match s.engineOp cluster tag with
  | none => .next s
  | some o =>
    if !o.started || !o.unsent.isEmpty || o.pieces != 0 || !o.writes.isEmpty then .next s
    else
      let d := dieOf (cluster * 8)
      let s1 := (s.dropEngine cluster o).mapStatus cluster tag (fun x => { x with state := 2 })
      let s2 := if o.fail then s1
        else s1.setDie d { s1.die d with rings := o.pushes.foldl (fun (acc : AMap Half) p => pushRing acc p.1 p.2) (s1.die d).rings }
      let s3 := o.held.foldl (fun (acc : State) w => acc.countSectors w) s2
      .next (s3.sendAllPieces.releasesAt cluster)

/-- A reply or acknowledgement of a piece: bytes of an RGET are written to their cells, the sectors that are done are counted; an error ends the operation (R475). -/
def State.pieceAnswered (s : State) (k tag : Nat) (r : RemoteReq) (p : Packet) : State :=
  match s.engineOp k tag with
  | none => s
  | some o =>
    let s1 := s.mapEngine k tag (fun x => { x with pieces := x.pieces - 1 })
    let tb := o.dsts.head?.bind (fun d => d.2)
    if p.sub != 0 then
      let s2 := s1.engineFault k o 0x0F p.sub r.pkt.va (o.kind = .rput) true
      let s3 := s2.mapEngine k tag (fun x => { x with unsent := [] })
      match o.kind with
      | .rput => s3.countDone k tag [] [{ bytes := [], tb := tb, dec := r.dec + (o.unsent.map (fun u => u.2.2)).sum }]
      | _ => s3.countDone k tag [] (o.writes.map (fun w => { w with bytes := [] }))
    else
      match o.kind with
      | .rput =>
        let s2 := (s1.countDone k tag [] [{ bytes := [], tb := tb, dec := r.dec }]).sendPieces k tag (o.unsent.length)
        if p.count = 4 then s2.e2e o.team o.grp (if p.index = 0 then o.launch else 0) p.va ⟨{ code := 0x10 }, o.pc, o.w0, 0, 0⟩ else s2
      | _ =>
        let s0 := s1.mapStatus k tag (fun x => { x with srcb := x.srcb + r.pkt.len })
        let s2 := if o.fail then s0
          else (s0.writeSector { bytes := (r.cells.zip p.data).map (fun x => (x.1, 255, x.2.toNat)), tb := none, dec := 0 }).meetMisreads r.cells
        let ws := if o.fail then o.writes
          else o.writes.map (fun w => { w with bytes := w.bytes.filter (fun b => !r.cells.any (fun c => c.loc = b.1.loc)) })
        let left := ws.filter (fun w => !w.bytes.isEmpty)
        let done := ws.filter (fun w => w.bytes.isEmpty)
        (s2.countDone k tag left done).sendPieces k tag (o.unsent.length)

/-! ### The array's events, and the schedules that its range locks held back (R361) -/

/-- MATRIX_ARRAY_START (R288, R297, R301, R312). -/
def execMatrixArrayStart (free : Checked Nat) (s : State) : Outcome State Fault Refusal := .next ((s.arrayStart free).releasesAt (clusterOf free.it))

/-- MATRIX_COMPLETE (R288, R296, R309). -/
def execMatrixComplete (core id : Nat) (s : State) : Outcome State Fault Refusal := .next ((s.matrixDone core id).releasesAt (clusterOf core))

/-- DRAIN_PEER_TIMEOUT (R307, R478). -/
def execDrainPeerTimeout (core id : Nat) (s : State) : Outcome State Fault Refusal := .next ((s.peerTimeout core id).releasesAt (clusterOf core))

end Sys2Proof.Machine
end

