-- ==== Sys2Proof/Machine/Accept.lean ====
section
/-! DEFINITION. Launch records and their acceptance: the checks of R426 in order, and what an accepted launch holds (R424 to R427, R91, R341, R407). -/

namespace Sys2Proof.Machine

/-! ### The launch record (R424) -/

/-- Fields of a launch record's 256 bytes, read at an address. -/
def recordOf (addr n : Nat) : LaunchRec :=
  { addr := addr, paired := bitAt n 18, idem := bitAt n 17, coop := bitAt n 16, cscope := bitsOf n 23 21, ngrp := bitsOf n 31 24
    alloc := bitsOf n 39 32, bmask := bitsOf n 47 40, tmask := bitsOf n 51 48, rmask := bitsOf n 59 52, code := bitsOf n 127 64
    entry := bitsOf n 159 128, handler := if bitsOf n 191 160 = 0xFFFFFFFF then none else some (bitsOf n 191 160)
    nx := bitsOf n 223 192, ny := bitsOf n 255 224, nz := bitsOf n 287 256, scratch := bitsOf n 307 288, argAddr := bitsOf n 383 320
    privSize := bitsOf n 415 384, argSize := bitsOf n 431 416, privArea := bitsOf n 511 448, key := bitsOf n 639 512
    slots := (List.range 15).map (fun i => wd (bitsOf n (703 + 64 * i) (640 + 64 * i)))
    sched := bitsOf n 1663 1600, nsched := bitsOf n 1669 1664, dbgrp := bitsOf n 1695 1680, ringMask := bitsOf n 1791 1728
    mcast := bitsOf n 1919 1792, doneAddr := bitsOf n 1983 1920, rcpTab := bitsOf n 2047 1984 }

/-- VERSION is 1 and every reserved bit is zero. -/
def recordReserved (n : Nat) : Bool :=
  bitsOf n 7 0 = 1 && bitsOf n 15 8 = 0 && bitsOf n 20 19 = 0 && bitsOf n 63 60 = 0 && bitsOf n 319 308 = 0 && bitsOf n 447 432 = 0 &&
    bitsOf n 1679 1670 = 0 && bitsOf n 1727 1696 = 0

/-- An address of a record: bits [63:57] zero, and aligned. -/
def addrOk (a align : Nat) : Bool := decide (a < 2 ^ 57) && a % align = 0

/-- Every field is within the limits of R424 (R426 check 4). -/
def LaunchRec.ok (r : LaunchRec) : Bool :=
  decide (0 < r.teams) && decide (r.teams < 2 ^ 32) && decide (1 ≤ r.ngrp) && decide (r.ngrp ≤ (if r.paired then 64 else 32)) &&
    r.alloc % 8 = 0 && decide (8 ≤ r.alloc) && decide (r.alloc ≤ 192) && decide (4 ≤ r.cscope) && decide (r.cscope ≤ 6) &&
    r.argSize % 8 = 0 && r.privSize % 8 = 0 && r.scratch % 8 = 0 && decide (r.scratch ≤ 524288) && decide (r.nsched ≤ 32) &&
    (r.nsched != 0 || r.sched = 0) && r.entry % 8 = 0 && (match r.handler with | some h => h % 8 = 0 | none => true) &&
    addrOk r.code 1 && addrOk r.argAddr 8 && addrOk r.privArea 256 && addrOk r.rcpTab 64 && addrOk r.doneAddr 8 && addrOk r.sched 64

/-! ### The objects a record names -/

/-- What the reads of R426 check 5 give: the code header, argument words 0 to 7, recipe table words and images, and the schedule. -/
structure LaunchObjs where
  header : Nat := 0
  args : List Word := []
  images : AMap (List Nat) := []
  /-- Where the images lie, by slot. -/
  imageAt : AMap Nat := []
  /-- A word of the recipe table breaks check 4. -/
  badWord : Bool := false
  sched : List Nat := []
  deriving DecidableEq, Repr

/-- `n` bytes at a virtual address as a number, in a region's context (R519). -/
def State.readRegion (s : State) (r : Region) (va n : Nat) : Option Nat := (s.readVa (regionCtx r 0) va n).map leNat

/-- The cells of the recipe image at an address, header first (R354). -/
def State.readImage (s : State) (r : Region) (va : Nat) : Option (List Nat) :=
  match s.readRegion r va 32 with
  | none => none
  | some h =>
    (s.readRegion r (va + 32) (32 * recipeCells h)).map (fun n =>
      h :: (List.range (recipeCells h)).map (fun i => bitsOf n (256 * i + 255) (256 * i)))

/-- Read the recipe images that table words from slot `i` on name. -/
def State.readImages (s : State) (r : Region) (i : Nat) (ws : List Nat) : Option (Bool × AMap (List Nat)) :=
  match ws with
  | [] => some (false, [])
  | w :: rest =>
    match s.readImages r (i + 1) rest with
    | none => none
    | some m =>
      if w = 0 then some m
      else if !addrOk w 32 then some (true, m.2)
      else (s.readImage r w).map (fun cells => (m.1, (i, cells) :: m.2))

/-- The words that lie within the argument window, at most 8 (R425). -/
def State.readArgs (s : State) (r : Region) (l : LaunchRec) : Option (List Word) :=
  let n := min 8 (l.argSize / 8)
  (s.readRegion r l.argAddr (8 * n)).map (fun x => (List.range n).map (fun i => wd (bitsOf x (64 * i + 63) (64 * i))))

/-- The reads of R426 check 5, and of the static schedule (R519). -/
def State.readObjs (s : State) (r : Region) (l : LaunchRec) : Option LaunchObjs :=
  match s.readRegion r l.code 112, s.readArgs r l, (if l.rcpTab = 0 then some 0 else s.readRegion r l.rcpTab 64),
      (if l.nsched = 0 then some 0 else s.readRegion r l.sched (64 * l.nsched)) with
  | some h, some a, some t, some sc =>
    (s.readImages r 0 ((List.range 8).map (fun i => bitsOf t (64 * i + 63) (64 * i)))).map (fun m =>
      { header := h, args := a, images := m.2, badWord := m.1, imageAt := (List.range 8).map (fun i => (i, bitsOf t (64 * i + 63) (64 * i)))
        sched := (List.range l.nsched).map (fun i => bitsOf sc (512 * i + 511) (512 * i)) })
  | _, _, _, _ => none

/-- This device's stamp (R91, R453). -/
def deviceStamp : Nat := leNat (sha384 ((List.range 8).flatMap (fun i => leBytes 8 (Config.identity i).toNat)))

/-! ### Fitting (R196, R406, R436) -/

/-- Groups of a team on the leader, or on the one core of an unpaired team (R198). -/
def LaunchRec.leaderGroups (r : LaunchRec) : Nat := if r.paired then (r.ngrp + 1) / 2 else r.ngrp

/-- One team fits on an empty core or pair (R196). -/
def LaunchRec.fits (r : LaunchRec) : Bool :=
  decide (r.leaderGroups * r.alloc ≤ 1536) && decide (r.leaderGroups ≤ 32) && decide (r.scratch ≤ 524288)

/-- Cores and scratchpad bytes of one team. -/
def LaunchRec.teamCores (r : LaunchRec) : Nat := if r.paired then 2 else 1

/-- One team fits within every budget of a region's chain (R426 check 9). -/
def budgetFits (r : Region) (l : LaunchRec) : Bool :=
  r.budgets.all (fun b => (b.2.1 = 0 || decide (l.teamCores ≤ b.2.1)) && (b.2.2.1 = 0 || decide (l.scratch * l.teamCores ≤ b.2.2.1)))

/-- Teams of the launch that one empty core or pair takes at once (R196, R285). -/
def LaunchRec.perCore (r : LaunchRec) : Nat :=
  if r.tmask != 0 then 1
  else min (min (1536 / (r.leaderGroups * r.alloc)) (32 / r.leaderGroups)) (if r.scratch = 0 then 32 else 524288 / r.scratch)

/-- The teams die `d` owns of `n`: from, to (R407). -/
def ownRange (n d : Nat) : Nat × Nat := (n * d / 8, n * (d + 1) / 8)

/-- Every team of a COOP launch fits on the empty package (R406). -/
def LaunchRec.coopFits (r : LaunchRec) : Bool :=
  (List.range 8).all (fun d => decide ((ownRange r.teams d).2 - (ownRange r.teams d).1 ≤ 512 / r.teamCores * r.perCore))

/-! ### Acceptance (R426, R427) -/

/-- A launch identifier that no unfinished launch has, from the counter on; 0 is skipped (R427). -/
def State.freshId (s : State) (fuel n : Nat) : Nat :=
  let m := if n % 2 ^ 32 = 0 then 1 else n % 2 ^ 32
  match fuel with
  | 0 => m
  | k + 1 => if s.launches.any (fun l => l.1 = m && !l.2.complete) then s.freshId k (m + 1) else m

/-- The side table of a code object; one that cannot be read counts as empty (R95, R96). -/
def State.readSide (s : State) (r : Region) (code header : Nat) : List Nat :=
  let n := bitsOf header 255 224
  match s.readRegion r (code + bitsOf header 223 192) (48 * n) with
  | some x => (List.range n).map (fun i => bitsOf x (384 * i + 383) (384 * i))
  | none => []

/-- Checks 4 to 11 of R426 on a record read in its region: the status of a refusal, or the objects it names. -/
def State.checkRecord (s : State) (r : Region) (n : Nat) (l : LaunchRec) (pager : Bool) : Except Nat LaunchObjs :=
  if !recordReserved n || !l.ok then .error 0xF2
  else
    match s.readObjs r l with
    | none => .error 0x09
    | some o =>
      let natsz := bitsOf o.header 127 96
      if o.badWord || decide (natsz ≤ l.entry) || (match l.handler with | some h => decide (natsz ≤ h) | none => false) then .error 0xF2
      else if !bitAt o.header 48 || bitsOf o.header 895 512 != deviceStamp then .error 0x15
      else if l.slots.any (fun w => w != 0 && !fmtValid w) || o.images.any (fun i => (recipeFault (i.2.headD 0) (i.2.drop 1)).isSome) then .error 0x02
      else if !l.fits then .error 0xF1
      else if !pager && !budgetFits r l then .error 0xF3
      else if l.coop && !l.coopFits then .error 0xF4
      else if r.det && decide (2 ^ 20 < l.teams) then .error 0xF5
      else .ok o

/-- A submission to Madder: its record, region block, what its completion completes, its entry's TAG and NOTIFY, the scope its groups acquire at, and whether it waits armed. -/
structure Accept where
  addr : Nat
  rcb : Nat
  origin : Origin
  tag : Word := 0
  notify : Bool := false
  acquire : Option Nat := none
  held : Bool := false
  producers : List Nat := []
  deriving DecidableEq, Repr

/-- Each page of host memory that the reads of an accepted record touched has its translation in link0's cache (R451, R519). -/
def State.touchLaunch (s : State) (r : Region) (a : Accept) (l : LaunchRec) (o : LaunchObjs) : State :=
  let spans := (if a.origin.isPager then [] else [(a.addr, 256)]) ++
    [(l.code, 112), (l.argAddr, 8 * o.args.length), (l.rcpTab, if l.rcpTab = 0 then 0 else 64), (l.sched, 64 * o.sched.length),
     (l.code + bitsOf o.header 223 192, 48 * bitsOf o.header 255 224)] ++ o.imageAt.map (fun i => (i.2, 32 * (AMap.get o.images i.1 []).length))
  spans.foldl (fun (acc : State) p => acc.touchHost (regionCtx r 0) p.1 p.2) s

/-- Accept a launch: the status of a refusal, or its identifier and the state that holds it (R426, R427, R407). -/
def State.accept (s : State) (a : Accept) : Except Nat (Nat × State) :=
  match s.region a.rcb with
  | .error e => .error e
  | .ok r =>
    match (if a.origin.isPager then s.readPhys a.addr 256 else s.readRegion r a.addr 256) with
    | none => .error 0x09
    | some n =>
      let l := recordOf a.addr n
      if a.addr % 64 != 0 then .error 0xF2
      else
        match s.checkRecord r n l a.origin.isPager with
        | .error e => .error e
        | .ok o =>
          let id := s.freshId (s.launches.length + 1) s.nextLaunch
          let native := l.code + bitsOf o.header 95 64
          let x : Launch :=
            { id := id, order := s.launchSeq, lrec := l, region := r, args := o.args, origin := a.origin, entry := wd (native + l.entry)
              handler := l.handler.map (fun h => wd (native + h)), native := native, side := s.readSide r l.code o.header
              recipes := o.images.map (fun i => (i.1, i.2.drop 1)), sched := o.sched
              shares := (List.range 8).map (fun d => (d, { lo := (ownRange l.teams d).1, hi := (ownRange l.teams d).2 }))
              held := a.held, notify := a.notify, tag := a.tag, producers := a.producers, acquire := a.acquire }
          let s1 := if l.dbgrp = 0 then s.touchLaunch r a l o
            else { s.touchLaunch r a l o with fab := { s.fab with closed := s.fab.closed.filter (· != memberKey l.dbgrp s.ctl.self) } }
          .ok (id, { s1.setLaunch id x with nextLaunch := (id + 1) % 2 ^ 32, launchSeq := s.launchSeq + 1 })

end Sys2Proof.Machine
end

