-- ==== Sys2Proof/Machine/Madder.lean ====
section
/-! DEFINITION. Madder's hardware queues, their arbitration, and the launches that kernels submit (R419 to R423, R430, R437, R442 to R448). -/

namespace Sys2Proof.Machine

open Host

/-! ### Queue entries (R421, R422) -/

/-- A queue entry. -/
structure QEntry where
  at_ : Nat
  kind : Nat
  dep : Bool
  notify : Bool
  addr : Nat
  value : Nat
  tag : Word
  /-- The entry breaks R423. -/
  bad : Bool
  deriving DecidableEq, Repr

/-- An entry's address is aligned as its kind requires, with bits [63:57] zero (R423). -/
def entryAddrOk (kind addr value : Nat) : Bool :=
  match kind with
  | 1 => addrOk addr 64
  | 2 => addrOk addr 64
  | 3 => addrOk addr 8
  | 4 => addrOk addr 8
  | 5 => true
  | 6 => decide (16 ≤ value) && decide (value ≤ 57) && addrOk addr (2 ^ value)
  | _ => false

/-- The 64 bytes of an entry. -/
def queueEntry (at_ n : Nat) : QEntry :=
  { at_ := at_, kind := bitsOf n 7 0, dep := bitAt n 8, notify := bitAt n 9, addr := bitsOf n 127 64, value := bitsOf n 191 128
    tag := wd (bitsOf n 511 448), bad := bitsOf n 63 10 != 0 || bitsOf n 447 192 != 0 || !entryAddrOk (bitsOf n 7 0) (bitsOf n 127 64) (bitsOf n 191 128) }

/-- The queue's ring is usable (R419, R420). -/
def Queue.usable (q : Queue) : Bool := decide (4 ≤ q.logsz) && decide (q.logsz ≤ 20) && q.base.toNat % 64 = 0

/-- Madder may take entries of the queue: it is enabled, announced, and no WAIT holds it (R421, R422). -/
def Queue.open_ (q : Queue) : Bool := q.enable && !q.err && q.qread != q.eff && !(q.taken.any (fun e => e.kind = 3))

/-- The entry at the head of a queue; one that cannot be read is bad. -/
def State.headEntry (s : State) (q : Nat) : QEntry :=
  let x := s.queue q
  let a := x.base.toNat + 64 * (x.qread.toNat % 2 ^ x.logsz)
  match (if x.usable then s.readPhys a 64 else none) with
  | some n => queueEntry a n
  | none => ⟨a, 0, false, false, 0, 0, 0, true⟩

/-- Madder serves queues and graphs: in BASIC and FULL, while no change of service awaits quiescence (R457, R458). -/
def State.serving (s : State) : Bool := (s.ctl.service = 2 || s.ctl.service = 3) && !s.ctl.calibrating

/-- The entry may be taken: DEP and SIGNAL wait for every earlier entry (R422). -/
def State.takeable (s : State) (q : Nat) : Bool :=
  let e := s.headEntry q
  s.serving && (s.queue q).open_ && !e.bad && (!(e.dep || e.kind = 4) || (s.queue q).taken.isEmpty)

/-- The effective priority of a queue; 0 without a region. -/
def State.queuePrio (s : State) (q : Nat) : Nat := (s.queueRegion q).prio

/-- Queues in round-robin order at a priority (R437). -/
def State.queueOrder (s : State) (prio : Nat) : List Nat :=
  let k := AMap.get s.chosen prio 0
  (List.range 64).map (fun i => (k + i) % 64)

/-- The queue whose head Madder takes next: strict priority, then round-robin (R437). -/
def State.pickQueue (s : State) : Option Nat :=
  (List.range 8).reverse.findSome? (fun p => (s.queueOrder p).find? (fun q => s.queuePrio q = p && s.takeable q))

/-- Take the head entry: QREAD advances, and the entry is among the taken. -/
def State.takeHead (s : State) (q : Nat) (e : QEntry) : State :=
  let x := s.queue q
  let t : QTaken := { idx := x.qread.toNat, kind := e.kind, tag := e.tag, addr := if e.kind = 1 then e.addr else e.at_, word := e.addr, value := e.value, notify := e.notify, region := s.queueRegion q }
  { s.setQueue q { x with qread := x.qread + 1, taken := x.taken ++ [t] } with chosen := AMap.put s.chosen (s.queuePrio q) (q + 1) }

/-! ### Submissions of running kernels (R437, R443, R444, R447) -/

/-- The pending D of an LNCH or LNCHD receives its value. -/
def State.answerLaunch (s : State) (x : Submission) (v : Nat) : State :=
  let g := s.group x.team x.grp
  if (AMap.find s.teams x.team).isNone then s
  else s.setGroup x.team x.grp { g with pends := g.pends.map (fun (p : Pend) =>
    if p.inst = x.inst && p.src = .unit then { p with vals := [(0, wd v)], src := .ready } else p) }

/-- Accept a submission, or refuse it with a notification (R443, R444). -/
def State.takeSubmission (s : State) (x : Submission) : State :=
  let l := s.launch x.launch
  let armed := l.armed.find? (fun a => a.1 = x.addr)
  match (if x.arm then armed else none) with
  | some a => s.answerLaunch x a.2
  | none =>
    if x.arm && decide (4 ≤ l.armed.length) then s.answerLaunch x 0
    else if l.ended.isSome then s.answerLaunch x 0
    else
      match s.accept { addr := x.addr, rcb := l.region.rcb, origin := if x.arm then .armed x.launch else .kernel x.launch
                       acquire := some x.scope, held := x.arm || l.region.det } with
      | .error e => (s.post l.region { kind := 2, status := e, addr := x.addr }).answerLaunch x 0
      | .ok (id, s1) =>
        let s2 := if x.arm then s1.setLaunch x.launch { s1.launch x.launch with armed := (s1.launch x.launch).armed ++ [(x.addr, id)] } else s1
        s2.answerLaunch x id

/-- The submission of the highest priority, the earliest of them. -/
def State.firstSubmission (s : State) : Option Submission :=
  (List.range 8).reverse.findSome? (fun p => s.subs.find? (fun x => (s.launch x.launch).region.prio = p))

/-- Take submissions while no queue of a higher priority has a head that can be taken (R437). -/
def State.pumpSubs (s : State) (fuel : Nat) : State :=
  match fuel with
  | 0 => s
  | n + 1 =>
    match s.firstSubmission with
    | none => s
    | some x =>
      if (match s.pickQueue with | some q => decide ((s.launch x.launch).region.prio < s.queuePrio q) | none => false) then s
      else (({ s with subs := s.subs.filter (fun y => y != x) } : State).takeSubmission x).pumpSubs n

/-- Take what submissions can be taken. -/
def State.takeSubs (s : State) : State := s.pumpSubs s.subs.length

/-! ### Queue events (R421 to R423) -/

/-- An event on the head of a queue: a bad head stops the queue; a head of the kind, chosen by arbitration, is taken. -/
def queueEvent (q : Nat) (kinds : List Nat) (s : State) (f : QEntry → Nat → State → State) : Outcome State Fault Refusal :=
  let e := s.headEntry q
  if !s.serving || !(s.queue q).open_ then .next s
  else if e.bad then .next (s.stopQueueWith q 0xF2 e.at_ e.tag.toNat).takeSubs
  else if s.pickQueue = some q && kinds.contains e.kind then .next (f e (s.queue q).qread.toNat s).takeSubs
  else .next s

/-- The status with which the region of a queue fails to resolve, if it does. -/
def State.queueStatus (s : State) (q : Nat) : Option Nat :=
  match s.region (s.queue q).rcb.toNat with
  | .ok _ => none
  | .error e => some e

/-- QUEUE_LAUNCH: the launch is accepted, or refused with a notification (R422, R426). -/
def execQueueLaunch (q : Nat) (s : State) : Outcome State Fault Refusal :=
  queueEvent q [1] s (fun e idx s0 =>
    let s1 := s0.takeHead q e
    match s1.accept { addr := e.addr, rcb := (s0.queue q).rcb.toNat, origin := .queue q idx, tag := e.tag, notify := e.notify
                      producers := if e.dep then (s0.queue q).producers else [] } with
    | .ok (_, s2) => s2
    | .error st => s1.finishEntry q idx 2 st 0 true)

/-- QUEUE_GRAPH: an instance starts with one arrival at its first node (R432). -/
def execQueueGraph (q : Nat) (s : State) : Outcome State Fault Refusal :=
  queueEvent q [2] s (fun e idx s0 =>
    let s1 := s0.takeHead q e
    match s0.region (s0.queue q).rcb.toNat with
    | .ok r =>
      { s1 with
        graphs := AMap.put s1.graphs s1.nextGraph
          { q := q, idx := idx, region := r, arrivals := [(e.addr, false)], producers := if e.dep then (s0.queue q).producers else [] }
        nextGraph := s1.nextGraph + 1 }
    | .error st => s1.finishEntry q idx 2 st 0 true)

/-- The word of a taken WAIT entry is looked at: the entry completes, waits on, or stops its queue (R422, R423, R519). -/
def State.tryWait (s : State) (q : Nat) (e : QTaken) : State :=
  match s.readRegion e.region e.word 8 with
  | none => (s.stopQueueWith q 0xF2 e.addr e.tag.toNat).dropEntry q e.idx
  | some v =>
    let s1 := s.touchHost (regionCtx e.region 0) e.word 8
    if e.value ≤ v then s1.finishEntry q e.idx 1 0 0 false else s1

/-- QUEUE_WAIT: the entry is taken and its word read (R422). -/
def execQueueWait (q : Nat) (s : State) : Outcome State Fault Refusal :=
  queueEvent q [3] s (fun e idx s0 =>
    match s0.queueStatus q with
    | some _ => s0.stopQueueWith q 0xF6 e.at_ e.tag.toNat
    | none => (s0.takeHead q e).tryWait q { idx := idx, kind := 3, tag := e.tag, addr := e.at_, word := e.addr, value := e.value, notify := e.notify, region := s0.queueRegion q })

/-- QUEUE_WAIT_SATISFIED: the word of a taken WAIT entry is read again (R422). -/
def execQueueWaitSatisfied (q : Nat) (s : State) : Outcome State Fault Refusal :=
  match (s.queue q).taken.find? (fun e => e.kind = 3) with
  | some e => .next (s.tryWait q e).takeSubs
  | none => .next s

/-- QUEUE_SIGNAL: VALUE is written to the word (R422). -/
def execQueueSignal (q : Nat) (s : State) : Outcome State Fault Refusal :=
  queueEvent q [4] s (fun e idx s0 =>
    match s0.region (s0.queue q).rcb.toNat with
    | .error _ => s0.stopQueueWith q 0xF6 e.at_ e.tag.toNat
    | .ok r =>
      let s1 := s0.takeHead q e
      match s1.writeVa (regionCtx r 0) e.addr (leBytes 8 e.value) with
      | some s2 => s2.finishEntry q idx 1 0 0 false
      | none => (s1.stopQueueWith q 0xF2 e.at_ e.tag.toNat).dropEntry q idx)

/-- QUEUE_NOP completes at once (R422). -/
def execQueueNop (q : Nat) (s : State) : Outcome State Fault Refusal :=
  queueEvent q [5] s (fun e idx s0 => (s0.takeHead q e).finishEntry q idx 1 0 0 false)

/-- QUEUE_INVAL: an invalidation of the region's context starts (R388, R422). -/
def execQueueInval (q : Nat) (s : State) : Outcome State Fault Refusal :=
  queueEvent q [6] s (fun e idx s0 =>
    match s0.region (s0.queue q).rcb.toNat with
    | .error _ => s0.stopQueueWith q 0xF6 e.at_ e.tag.toNat
    | .ok r =>
      let s1 := s0.takeHead q e
      { s1 with invals := s1.invals ++ [{ djid := r.djid, base := e.addr, log := e.value, queue := some (q, idx) }] })

/-- A candidate producer index (R421); a ring that is not usable stops the queue (R419). -/
def State.candidate (s : State) (q : Nat) (p : Word) : State :=
  let x := s.queue q
  if x.logsz < 4 || 20 < x.logsz then s.stopQueue q
  else
    let d := (p - x.qread).toNat
    if 2 ^ x.logsz < d then s.stopQueueWith q 0xF2 0 0
    else if d < (x.eff - x.qread).toNat then s
    else s.setQueue q { x with eff := p }

/-- QWRITE: the host's doorbell (R420, R421). -/
def execQwrite (q : Nat) (v : Word) (s : State) : Outcome State Fault Refusal :=
  .next ((s.setQueue (q % 64) { s.queue (q % 64) with qwrite := v }).candidate (q % 64) v)

/-- The doorbell word, which holds `v`, is to be taken: it has been written, or differs from the one taken last, or none has been taken since its address was set and the queue is enabled (R420; log 110). -/
def Queue.rings (x : Queue) (v : Word) : Bool :=
  x.doorDue || (match x.door with
    | none => x.enable
    | some w => w != v)

/-- QDOOR_CANDIDATE: a written doorbell word is read again, and once after its address is set (R420, R421; log 110). -/
def execQdoorCandidate (q : Nat) (s : State) : Outcome State Fault Refusal :=
  let x := s.queue q
  if x.qdoor = 0 then .next s
  else
    match s.readPhys (x.qdoor.toNat / 8 * 8) 8 with
    | none => .next s
    | some v =>
      if !x.rings (wd v) then .next s
      else .next ((s.setQueue q { x with door := some (wd v), doorDue := false }).candidate q (wd v))

/-- QUEUE_ERR_CLEAR: ERR clears and E becomes QREAD (R421). -/
def execQueueErrClear (q : Nat) (s : State) : Outcome State Fault Refusal :=
  let x := s.queue (q % 64)
  .next (s.setQueue (q % 64) { x with err := false, eff := x.qread })

/-! ### The device pager's launch (R430) -/

/-- A pager launch of a region is running. -/
def State.pagerRuns (s : State) (rcb : Nat) : Bool := s.launches.any (fun l => l.2.origin = .pager rcb && !l.2.complete)

/-- PAGER_LAUNCH_START: the ring of a region with a device pager holds unconsumed records, and no pager launch of it runs (R430). -/
def execPagerLaunchStart (rcb : Nat) (s : State) : Outcome State Fault Refusal :=
  match s.region rcb with
  | .error _ => .next s
  | .ok r =>
    if !(s.ctl.service = 2 || s.ctl.service = 3) || r.pager != 2 || s.pagerRuns rcb then .next s
    else if !(s.ringBad r.pprod r.pcons).isEmpty then .next (s.meetIndex r r.pprod r.pcons)
    else if s.ringUsed r.pprod r.pcons = 0 then .next s
    else
      match s.accept { addr := r.plaunch, rcb := rcb, origin := .pager rcb } with
      | .ok (_, s1) => .next s1
      | .error e => .next (s.post r { kind := 2, status := e, addr := r.plaunch })

/-! ### LNCH, LNCHD, LNTRG, GSIG (R442 to R448) -/

/-- LNCH and LNCHD: a release at the scope, then a submission; D is pending until acceptance (R443, R444). -/
def launchIssue (name : String) (arm : Bool) (f : RegForm) (s : State) : Outcome State Fault Refusal :=
  outsideTx name s (fun l s1 =>
    let g := s1.groupAt l.ref
    let self := l.self s1
    let a := g.readOpnd self f.a 0
    let scope := f.fs.toNat
    if self &&& g.live = 0 then .discard (s1.setGroupAt l.ref (g.writeOnce f.d 0))
    else
      match firstTrap
        [ if a.toNat % 64 != 0 then some (trapUniformAddr 0x07 0 a self false) else none,
          if fld a 63 57 != 0 then some (trapUniformAddr 0x08 1 a self false) else none ] with
      | some t => .trap t
      | none =>
        if logWaits g self then .hold s1
        else
          match s1.release l.ref.team l.ref.grp self scope none with
          | none => .hold s1
          | some s2 =>
            let g2 := s2.groupAt l.ref
            let x : Submission := { launch := (s2.team l.ref.team).launch, team := l.ref.team, grp := l.ref.grp, inst := g.nextInst, addr := a.toNat, scope := scope, arm := arm }
            let g3 := match f.d with
              | .g n => g2.addPend g.nextInst l.pc (192 + n.val) self 0 [] .unit
              | _ => g2
            let s3 := s2.setGroupAt l.ref g3
            .done ({ s3 with subs := s3.subs ++ [x] } : State).takeSubs)

/-- LNCH (R443). -/
def execLnch (f : RegForm) (s : State) : Outcome State Fault Refusal := launchIssue "LNCH" false f s
/-- LNCHD (R444). -/
def execLnchd (f : RegForm) (s : State) : Outcome State Fault Refusal := launchIssue "LNCHD" true f s

/-- Every non-exited thread of the team has executed LNTRG (R445). -/
def Team.allTriggered (t : Team) : Bool := t.groups.all (fun g => g.2.present &&& ~~~g.2.trigger = 0)

/-- Count a team as triggered (R445). -/
def State.triggerTeam (s : State) (team : Nat) : State :=
  let t := s.team team
  let l := s.launch t.launch
  if t.allTriggered && !l.triggered.contains t.linear then s.setLaunch t.launch { l with triggered := l.triggered ++ [t.linear] } else s

/-- LNTRG: a release at the scope, and the split's threads count as triggered (R445). -/
def execLntrg (f : RegForm) (s : State) : Outcome State Fault Refusal :=
  outsideTx "LNTRG" s (fun l s1 =>
    let g := s1.groupAt l.ref
    let self := l.self s1
    if self &&& g.live = 0 then .done s1
    else if logWaits g self then .hold s1
    else
      match s1.release l.ref.team l.ref.grp self f.fs.toNat none with
      | none => .hold s1
      | some s2 =>
        let g2 := s2.groupAt l.ref
        .done ((s2.setGroupAt l.ref { g2 with trigger := g2.trigger ||| self }).triggerTeam l.ref.team))

/-- GSIG: a store of one word with a release, once, which no race check sees (R446). -/
def execGsig (f : RegForm) (s : State) : Outcome State Fault Refusal :=
  outsideTx "GSIG" s (fun l s1 =>
    let g := s1.groupAt l.ref
    let self := l.self s1
    let a := g.readOpnd self f.a 0
    if self &&& g.live = 0 then .done s1
    else
      let acc : Acc := { thr := eventThread g self, ea := a, va := spanFrom a 8, val := (g.readOpnd self f.b 0).toNat }
      memIssue l s1 self none false none none [slotWords g self f.a, slotWords g self f.b]
        { op := .store, space := .glob, align := 8, cache := 0, order := .release, scope := f.fs.toNat, accs := [acc], party := self, untagged := true })

end Sys2Proof.Machine
end

