-- ==== Sys2Proof/Machine/Graphs.lean ====
section
/-! DEFINITION. Kernel graphs: nodes, arrivals, and the end of an instance (R431 to R434). -/

namespace Sys2Proof.Machine

open Host

/-- A graph node (R431). -/
structure GNode where
  kind : Nat
  nsucc : Nat
  sptr : Bool
  cmp : Nat
  npred : Nat
  nsptr : Nat
  arrived : Nat
  addr : Nat
  value : Nat
  slist : Nat
  /-- SUCC0 to SUCC3. -/
  inline : List Nat
  reserved : Nat
  deriving DecidableEq, Repr

/-- The fields of a node's 64 bytes. -/
def nodeOf (n : Nat) : GNode :=
  { kind := bitsOf n 3 0, nsucc := bitsOf n 6 4, sptr := bitAt n 7, cmp := bitsOf n 10 8, npred := bitsOf n 31 16, nsptr := bitsOf n 47 32
    arrived := bitsOf n 63 48, addr := bitsOf n 127 64, value := bitsOf n 191 128, slist := bitsOf n 255 192
    inline := (List.range 4).map (fun i => bitsOf n (319 + 64 * i) (256 + 64 * i)), reserved := bitsOf n 15 11 }

/-- COND and LOOP read a condition word and choose by BR. -/
def GNode.branches (n : GNode) : Bool := n.kind = 2 || n.kind = 3

/-- The node has a legal KIND, CMP, successor count and reserved bits (R431, R433). -/
def GNode.ok (n : GNode) : Bool :=
  decide (1 ≤ n.kind) && decide (n.kind ≤ 6) && n.reserved = 0 && decide (n.cmp ≤ 5) &&
    (if n.sptr then n.nsucc = 0 && decide (1 ≤ n.nsptr) && decide (n.nsptr ≤ 1024) && addrOk n.slist 8 else decide (n.nsucc ≤ 4)) &&
    (!n.branches || addrOk n.addr 8)

/-- A successor word is legal on a node: its reserved bits are zero, and BR is set only under COND and LOOP (R431, R433). -/
def succOk (branches : Bool) (w : Nat) : Bool := bitsOf w 63 57 = 0 && bitsOf w 5 2 = 0 && (branches || !bitAt w 1)

/-- The successor words of a node; `none` when they cannot be read (R431). -/
def State.successors (s : State) (r : Region) (n : GNode) : Option (List Nat) :=
  if n.sptr then (s.readRegion r n.slist (8 * n.nsptr)).map (fun x => (List.range n.nsptr).map (fun i => bitsOf x (64 * i + 63) (64 * i)))
  else some (n.inline.take n.nsucc)

/-- The arrival that a successor word sends: its node and BACK. -/
def succArrival (w : Nat) : Nat × Bool := (bitsOf w 56 6 * 64, bitAt w 0)

/-- cond of COND and LOOP (R432). -/
def condHolds (cmp w value : Nat) : Bool :=
  match cmp with
  | 0 => w = value
  | 1 => w != value
  | 2 => decide (w < value)
  | 3 => decide (w ≤ value)
  | 4 => decide (value < w)
  | _ => decide (value ≤ w)

/-- Instance `i`. -/
def State.graph (s : State) (i : Nat) : Option Graph := AMap.find s.graphs i
/-- Change an instance. -/
def State.mapGraph (s : State) (i : Nat) (f : Graph → Graph) : State :=
  match s.graph i with
  | some g => { s with graphs := AMap.put s.graphs i (f g) }
  | none => s

/-- TAG of the entry that started an instance. -/
def State.graphTag (s : State) (g : Graph) : Word := (((s.queue g.q).taken.find? (fun e => e.idx = g.idx)).map (fun e => e.tag)).getD 0

/-- A node starts (R432). -/
def State.startNode (s : State) (i : Nat) (g : Graph) (at_ : Nat) (n : GNode) : State :=
  let bad := s.mapGraph i (fun (x : Graph) => x.fail 0xF2)
  if !n.ok then bad
  else
    match s.successors g.region n with
    | none => bad
    | some ws =>
      let s := if n.sptr then s.touchHost (regionCtx g.region 0) n.slist (8 * n.nsptr) else s
      if !ws.all (succOk n.branches) then bad
      else
        let send := fun (x : State) (p : Nat → Bool) => x.mapGraph i (fun (y : Graph) => { y with arrivals := y.arrivals ++ (ws.filter p).map succArrival })
        match n.kind with
        | 1 =>
          match s.accept { addr := n.addr, rcb := g.region.rcb, origin := .node i at_, tag := s.graphTag g, producers := g.producers } with
          | .ok (id, s1) => s1.mapGraph i (fun (y : Graph) => { y with launches := AMap.put y.launches id ((ws.filter (fun w => !bitAt w 1)).map succArrival) })
          | .error e =>
            (s.post g.region { kind := 2, status := e, addr := n.addr, tag := (s.graphTag g).toNat }).mapGraph i (fun (y : Graph) => y.fail e)
        | 4 => send s (fun _ => true)
        | 5 => send (s.post g.region { kind := 4, addr := at_, tag := n.value }) (fun _ => true)
        | 6 => s.mapGraph i (fun (y : Graph) => { y with ended := true, arrivals := [] })
        | _ =>
          match s.readRegion g.region n.addr 8 with
          | none => bad
          | some w => send (s.touchHost (regionCtx g.region 0) n.addr 8) (fun x => bitAt x 1 != condHolds n.cmp w n.value)

/-- One arrival at a node: BACK starts it at once; another counts, and starts it when NPRED is reached (R432). -/
def State.arriveNode (s : State) (i : Nat) (g : Graph) (at_ : Nat) (back : Bool) : State :=
  let bad := s.mapGraph i (fun (x : Graph) => x.fail 0xF2)
  match (if addrOk at_ 64 then s.readRegion g.region at_ 64 else none) with
  | none => bad
  | some x =>
    let n := nodeOf x
    if back then (s.touchHost (regionCtx g.region 0) at_ 64).startNode i g at_ n
    else
      let reached := decide (max 1 n.npred ≤ n.arrived + 1)
      match s.writeVa (regionCtx g.region 0) (at_ + 6) (leBytes 2 (if reached then 0 else n.arrived + 1)) with
      | none => bad
      | some s1 => if reached then s1.startNode i g at_ n else s1

/-- GRAPH_NODE_ARRIVAL: the oldest arrival of an instance (R432); none while Madder takes no graph node (R458). -/
def execGraphNodeArrival (inst : Nat) (s : State) : Outcome State Fault Refusal :=
  match s.graph inst with
  | none => .next s
  | some g =>
    match g.arrivals with
    | [] => .next s
    | a :: rest =>
      if g.ended || !s.serving then .next s
      else
        let s1 := s.mapGraph inst (fun (x : Graph) => { x with arrivals := rest })
        .next ((s1.arriveNode inst { g with arrivals := rest } a.1 a.2).takeSubs)

/-- A launch of an instance has completed: its successors' arrivals go out (R432, R435). -/
def State.graphLaunchDone (s : State) (i id : Nat) (cores : List Nat) : State :=
  s.mapGraph i (fun (g : Graph) =>
    { g with launches := AMap.erase g.launches id, producers := (g.producers ++ cores).eraseDups
             arrivals := if g.ended then g.arrivals else g.arrivals ++ AMap.get g.launches id [] })

/-- GRAPH_INSTANCE_COMPLETE: the walk has ended and no launch of it runs: the entry completes (R434). -/
def execGraphInstanceComplete (inst : Nat) (s : State) : Outcome State Fault Refusal :=
  match s.graph inst with
  | none => .next s
  | some g =>
    if !g.ended || !g.launches.isEmpty then .next s
    else
      let s1 := { s with graphs := AMap.erase s.graphs inst }
      let q := s1.queue g.q
      let s2 := s1.setQueue g.q { q with producers := (q.producers ++ g.producers).eraseDups }
      .next ((if g.failed then s2.finishEntry g.q g.idx 5 g.status 0 true else s2.finishEntry g.q g.idx 1 0 0 false).takeSubs)

end Sys2Proof.Machine
end

