-- ==== Sys2Proof/Machine/Place.lean ====
section
/-! DEFINITION. Placing teams on cores, stealing, retirement and the completion of launches (R195 to R199, R265, R285, R341, R406 to R408, R435, R436, R438, R447). -/

namespace Sys2Proof.Machine

open Host

/-! ### What a core can take (R196, R265, R285, R341, R436) -/

/-- Effective priority of a launch; a pager launch runs at 7 (R430). -/
def Launch.prio (l : Launch) : Nat :=
  match l.origin with
  | .pager _ => 7
  | _ => l.region.prio

/-- A pager launch is exempt from budgets (R430). -/
def Launch.exempt (l : Launch) : Bool :=
  match l.origin with
  | .pager _ => true
  | _ => false

/-- Resident teams. -/
def State.residents (s : State) : List (Nat × Team) := s.teams.filter (fun t => t.2.saved.isNone)

/-- Groups resident on a core and not retired. -/
def State.groupsOn (s : State) (c : Nat) : List Group :=
  s.residents.flatMap (fun t => (t.2.groups.filter (fun g => g.2.core = c && !g.2.retired)).map (fun g => g.2))

/-- Resident teams of a core. -/
def State.teamsOn (s : State) (c : Nat) : List (Nat × Team) := s.residents.filter (fun t => t.2.onCore c)

/-- Groups of a launch's team that run on side 0, the leader, or 1, the follower (R198). -/
def LaunchRec.sideGroups (r : LaunchRec) (side : Nat) : Nat := if side = 0 then r.leaderGroups else r.ngrp - r.leaderGroups

/-- One core has room for its side of a team of a launch. -/
def State.coreFits (s : State) (l : Launch) (c side : Nat) : Bool :=
  let gs := s.groupsOn c
  let ts := s.teamsOn c
  let n := l.lrec.sideGroups side
  let lr := fun (t : Nat × Team) => (s.launch t.2.launch)
  decide ((gs.map (fun g => g.alloc)).sum + n * l.lrec.alloc ≤ 1536) && decide (gs.length + n ≤ 32) &&
    decide ((ts.map (fun t => (lr t).lrec.scratch)).sum + l.lrec.scratch ≤ 524288) &&
    ts.all (fun t => (lr t).lrec.tmask &&& l.lrec.tmask = 0 && (lr t).region.rr = l.region.rr &&
      (t.2.launch = l.id || (lr t).lrec.bmask &&& l.lrec.bmask = 0)) &&
    s.residents.all (fun t => clusterOf t.2.core != clusterOf c || t.2.launch = l.id || (lr t).lrec.rmask &&& l.lrec.rmask = 0)

/-- The cores of a team placed at a core. -/
def teamCores (paired : Bool) (c : Nat) : List Nat := if paired then [c, c + 1] else [c]

/-- Placing a team at a core keeps every budget of its region and the region's ancestors (R436). -/
def State.budgetsAllow (s : State) (l : Launch) (c : Nat) : Bool :=
  l.exempt || l.region.budgets.all (fun b =>
    let under := s.residents.filter (fun t => !(s.launch t.2.launch).exempt && (s.launch t.2.launch).region.budgets.any (fun x => x.1 = b.1))
    let cores := (under.flatMap (fun t => teamCores t.2.paired t.2.core) ++ teamCores l.lrec.paired c).eraseDups
    let sp := (under.map (fun t => (s.launch t.2.launch).lrec.scratch * (s.launch t.2.launch).lrec.teamCores)).sum + l.lrec.scratch * l.lrec.teamCores
    (b.2.1 = 0 || decide (cores.length ≤ b.2.1)) && (b.2.2.1 = 0 || decide (sp ≤ b.2.2.1)))

/-- A core, or the pair it leads, can take a team of a launch (R436). -/
def State.canTake (s : State) (l : Launch) (c : Nat) : Bool :=
  s.budgetsAllow l c && s.coreFits l c 0 && (!l.lrec.paired || (c % 2 = 0 && s.coreFits l (c + 1) 1))

/-- The lowest-numbered core of a die that can take a team (R436). -/
def State.coreFor (s : State) (l : Launch) (die : Nat) : Option Nat :=
  ((List.range 512).map (fun i => die * 512 + i)).find? (s.canTake l)

/-! ### Seating a team (R6, R198, R265, R285, R341, R424, R425) -/

/-- The lowest `n` free residency numbers of a core (R198). -/
def State.freeNumbers (s : State) (c n : Nat) : List Nat :=
  ((List.range 32).filter (fun i => !(s.groupsOn c).any (fun g => g.resid = i))).take n

/-- A fresh group of a launch (R6, R21). -/
def freshGroup (l : Launch) (gidx core resid : Nat) : Group :=
  { gidx := gidx, alloc := l.lrec.alloc, core := core, resid := resid, live := 0xFFFFFFFF, frames := freshFrames, splits := freshSplits 0xFFFFFFFF l.entry
    g := (l.args.zipIdx.filter (fun x => x.1 != 0)).map (fun x => (x.2, x.1))
    f := ((List.range 15).map (fun n => (n, launchFmt n (l.lrec.slots.getD n 0)))).filter (fun x => x.2 != 0) }

/-- Groups take a core's numbers in order; a retired group, which comes back with its restored team, takes none (R198, R199). -/
def giveNumbers (core : Nat) (nums : List Nat) (gs : List (Nat × Group)) : List (Nat × Group) :=
  match gs with
  | [] => []
  | g :: rest =>
    if g.2.retired then (g.1, { g.2 with core := core }) :: giveNumbers core nums rest
    else (g.1, { g.2 with core := core, resid := nums.headD 0 }) :: giveNumbers core (nums.drop 1) rest

/-- The groups of a team on the cores of its place, numbered (R198). -/
def State.seated (s : State) (l : Launch) (c : Nat) (groups : List (Nat × Group)) : List (Nat × Group) :=
  let n := l.lrec.sideGroups 0
  giveNumbers c (s.freeNumbers c 32) (groups.take n) ++ giveNumbers (c + 1) (s.freeNumbers (c + 1) 32) (groups.drop n)

/-- A slot with no resident group starts anew (R205, R334). -/
def State.freshSlots (s : State) (core : Nat) : State :=
  let c := s.core core
  let used := fun (slot : Nat) => (s.groupsOn core).any (fun g => g.resid % 4 = slot)
  s.setCore core { c with ptr := c.ptr.filter (fun x => used x.1), last := c.last.filter (fun x => used x.1), pick := c.pick.filter (fun x => used x.1), next := c.next.filter (fun x => used x.1) }

/-- Add a group to the age order of its slot, as the youngest (R204). -/
def State.addAge (s : State) (core resid team gidx : Nat) : State :=
  let c := s.core core
  let slot := resid % 4
  s.setCore core { c with ages := AMap.put c.ages slot ((AMap.get c.ages slot []) ++ [(team, gidx)]) }

/-- Take a group out of the age order and the greedy claim of its core. -/
def State.dropAge (s : State) (core team gidx : Nat) : State :=
  let c := s.core core
  s.setCore core { c with ages := c.ages.map (fun a => (a.1, a.2.filter (fun x => x != (team, gidx)))), last := c.last.filter (fun x => x.2.team != team || x.2.grp != gidx), next := c.next.filter (fun x => x.2.team != team || x.2.grp != gidx) }

/-- Ready a core for a team of a launch: the policy of an empty core, which is its pair's while the other core of the pair holds groups (log 97), the banks of a launch that comes to it, the team's tiles (R207, R265, R285). -/
def State.readyCore (s : State) (l : Launch) (c : Nat) (tiles : AMap Tile) : State :=
  let x := s.core c
  let empty := (s.teamsOn c).isEmpty
  let other := c / 2 * 2 + (1 - c % 2)
  let rr := if (s.teamsOn other).isEmpty then l.region.rr else (s.core other).rr
  let new := !(s.teamsOn c).any (fun t => t.2.launch = l.id)
  let gone := fun (p : BadPlace) => match p with
    | .book a b _ _ => a = c && new && bitAt l.lrec.bmask b
    | .tile a t _ => a = c && bitAt l.lrec.tmask t
    | _ => false
  (if s.bad.isEmpty then s else s.clearBad gone).setCore c { x with
    rr := if empty then rr else x.rr, rrNext := if empty then l.region.rr else x.rrNext
    banks := if new then x.banks.filter (fun b => !bitAt l.lrec.bmask b.1) else x.banks
    tiles := (List.range 4).foldl (fun (m : AMap Tile) t => if bitAt l.lrec.tmask t then AMap.put m t (AMap.get tiles t {}) else m) x.tiles }

/-- Fill the recipe slots of a launch that comes to a cluster (R341). -/
def State.readyCluster (s : State) (l : Launch) (k : Nat) : State :=
  if s.residents.any (fun t => clusterOf t.2.core = k && t.2.launch = l.id) then s
  else
    let x := s.cluster k
    s.setCluster k { x with recipes := (List.range 8).foldl (fun (m : AMap (List Nat)) n =>
      if bitAt l.lrec.rmask n then (match AMap.find l.recipes n with | some cells => AMap.put m n cells | none => AMap.erase m n) else m) x.recipes }

/-- The first team of a launch: its amax rings are zero, and a DET launch advances the phase counters (R341, R412). -/
def State.startLaunch (s : State) (id : Nat) : State :=
  let l := s.launch id
  if l.started then s
  else
    let s1 := (List.range 8).foldl (fun (acc : State) d =>
      acc.setDie d { acc.die d with rings := (acc.die d).rings.filter (fun r => !bitAt l.lrec.ringMask (r.1 / 16)) }) s
    let s2 := if l.region.det then (s1.advancePhase 4 520).getD s1 else s1
    s2.setLaunch id { l with started := true }

/-- Producer cores write back where a consumer core is another one; the consumer core invalidates (R435, R443). -/
def State.handOver (s : State) (producers : List Nat) (c : Nat) : State :=
  let s1 := if producers.all (· = c) then s else producers.foldl (fun (acc : State) p => acc.releaseL1 p none) s
  s1.acquireL1 c none

/-- Make a team resident at a core: a fresh one, or a saved one with its groups and tiles. -/
def State.seat (s : State) (team : Nat) (t : Team) (c : Nat) (groups : List (Nat × Group)) (tiles : AMap Tile) : State :=
  let id := t.launch
  let l := s.launch id
  let cores := teamCores t.paired c
  let s1 := (cores.zipIdx.foldl (fun (acc : State) x =>
    acc.readyCore l x.1 (tiles.filterMap (fun y => if y.1 / 4 = x.2 then some (y.1 % 4, y.2) else none))) s).readyCluster l (clusterOf c)
  let gs := s.seated l c groups
  let s2 := (cores.foldl (fun (acc : State) x => acc.freshSlots x) s1).setTeam team { t with core := c, groups := gs, epoch := s.nextTeam }
  let s3 := { s2 with nextTeam := s2.nextTeam + 1 }
  let s4 := (gs.filter (fun g => !g.2.retired)).foldl (fun (acc : State) g => acc.addAge g.2.core g.2.resid team g.1) s3
  let s5 := cores.foldl (fun (acc : State) k => acc.handOver l.producers k) s4
  s5.setLaunch id { s5.launch id with cores := ((s5.launch id).cores ++ cores).eraseDups }

/-- Place a fresh team of a launch at a core, and release the entries of its schedule at stage 0 (R361, R436). -/
def State.place (s : State) (id linear c : Nat) : State :=
  let s0 := s.startLaunch id
  let l := s0.launch id
  let team := s0.nextTeam
  let t : Team := { launch := id, linear := linear, core := c, paired := l.lrec.paired }
  let s1 := s0.seat team t c ((List.range l.lrec.ngrp).map (fun g => (g, freshGroup l g c 0))) []
  let s2 := if l.lrec.coop then s1.setLaunch id { s1.launch id with places := AMap.put (s1.launch id).places linear c } else s1
  s2.releases team

/-! ### Shares (R406 to R408) -/

/-- The share of a die in a launch. -/
def Launch.share (l : Launch) (d : Nat) : DieShare := (AMap.find l.shares d).getD {}
/-- Replace a share. -/
def Launch.setShare (l : Launch) (d : Nat) (x : DieShare) : Launch := { l with shares := AMap.put l.shares d x }

/-- The launch may have teams placed: it runs, and is not held back (R441, R447). -/
def Launch.placing (l : Launch) : Bool := !l.complete && l.ended.isNone && !l.held

/-- A DET launch may start: no other runs, it is the earliest accepted, and no sweep is outstanding (R408, R412). -/
def State.detMayStart (s : State) (l : Launch) : Bool :=
  !l.region.det || l.started ||
    (!s.sweepOwed && s.launches.all (fun x => x.1 = l.id || !x.2.region.det || x.2.complete || (!x.2.started && (x.2.ended.isSome || decide (l.order < x.2.order)))))

/-- Launches by priority, and within one in the order of acceptance (R407, R437). -/
def State.launchOrder (s : State) : List Launch :=
  (List.range 8).reverse.flatMap (fun p =>
    let mine := (s.launches.filter (fun l => l.2.placing && l.2.prio = p)).map (fun l => (l.2.order, l.1))
    (mine.foldl (fun (acc : List (Nat × Nat)) x => insertPair x acc) []).map (fun x => s.launch x.2))

/-- The next linear index that a die places for a launch: a discarded team's first, then its claim counter's (R327, R407). -/
def Launch.nextOn (l : Launch) (d : Nat) : Option Nat :=
  match l.redo.find? (fun x => x.1 = d) with
  | some x => some x.2
  | none => if (l.share d).lo < (l.share d).hi then some (l.share d).lo else none

/-- Note that a die has taken a linear index. -/
def Launch.took (l : Launch) (d linear : Nat) : Launch :=
  if l.redo.contains (d, linear) then { l with redo := l.redo.erase (d, linear) }
  else l.setShare d { l.share d with lo := (l.share d).lo + 1, running := (l.share d).running + 1 }

/-! ### Retirement (R126, R216, R316, R407) -/

/-- Nothing of the group is still to be performed (R126). -/
def State.groupQuiet (s : State) (team grp : Nat) : Bool :=
  let g := s.group team grp
  g.oplog.isEmpty && (s.groupStores team grp).isEmpty && !s.remotePending team grp &&
    s.cores.all (fun c => c.2.order.all (fun o => o.team != team || o.grp != grp) && c.2.loads.all (fun x => x.team != team || x.grp != grp)) &&
    s.clusters.all (fun c => c.2.ops.all (fun o => o.team != team ||
      (if o.scheduled then (s.team team).groups.any (fun x => !x.2.retired && x.1 != grp) else o.grp != grp)))

/-- The private bytes of a group (R215, R424). -/
def State.privCells (s : State) (team grp : Nat) : List Cell :=
  let g := s.group team grp
  let l := (s.launchOf team).lrec
  s.areaCells (s.xctx team g.core) (l.privBase (s.team team).linear g.gidx) (32 * l.privSize)

/-- The group retires: its private lines go without write-back, its private bytes are undefined, its core's resources are free (R197, R216; log 17). -/
def State.retireGroup (s : State) (team grp : Nat) : State :=
  let g := s.group team grp
  let s1 := (s.setCore g.core { s.core g.core with
    l1 := (s.core g.core).l1.filter (fun e => e.2.priv != some (team, grp)) }).unsettle g.core (s.privCells team grp)
  (s1.setGroup team grp { g with retired := true, live := 0, dem := 0, pends := [], deferred := [], tx := none, splits := List.replicate 8 {} }).dropAge g.core team grp

/-- Steal at most seven times in a row (R407). -/
def Launch.steal (l : Launch) (d fuel : Nat) : Launch :=
  match fuel with
  | 0 => l.setShare d { l.share d with done := true }
  | n + 1 =>
    let v := (d + 1 + (l.share d).steals) % 8
    let k := ((l.share v).hi - (l.share v).lo) / 2
    let l1 := l.setShare d { l.share d with steals := (l.share d).steals + 1 }
    if k = 0 then l1.steal d n
    else
      let top := (l1.share v).hi
      (l1.setShare v { l1.share v with hi := top - k }).setShare d { l1.share d with lo := top - k, hi := top }

/-- A team of the launch has retired on a die: it counts as triggered, and a die that owns no more teams steals (R407, R445). -/
def Launch.teamRetired (l : Launch) (d linear : Nat) : Launch :=
  let x := l.share d
  let l1 := { l.setShare d { x with running := x.running - 1 } with
              retired := l.retired + 1,
              triggered := if l.triggered.contains linear then l.triggered else l.triggered ++ [linear] }
  let y : DieShare := l1.share d
  if y.running = 0 && decide (y.hi ≤ y.lo) && l.redo.all (fun x => x.1 != d) && !y.done && !l.lrec.coop && l.ended.isNone then l1.steal d 7 else l1

/-- The groups of a team have all retired. -/
def Team.finished (t : Team) : Bool := t.groups.all (fun g => g.2.retired)

/-- The team retires when its last group has, with a release at package scope on its cores, which counts as its trigger (R208, R445). -/
def State.retireTeam (s : State) (team : Nat) : State :=
  let t := s.team team
  if t.finished then
    let l := s.launch t.launch
    let s1 := (teamCores t.paired t.core).foldl (fun (acc : State) c => acc.releaseL1 c none) s
    ({ s1 with teams := AMap.erase s1.teams team } : State).setLaunch t.launch (l.teamRetired (dieOf t.core) t.linear)
  else s

/-- GROUP_RETIRE: a group whose threads have all exited, or that was stopped, retires once what it issued is performed (R126, R316). -/
def execGroupRetire (team grp : Nat) (s : State) : Outcome State Fault Refusal :=
  let t := s.team team
  match AMap.find t.groups grp with
  | none => .next s
  | some g =>
    if g.retired || t.saved.isSome || t.restoring || !(g.present = 0 || g.stopped) || !s.groupQuiet team grp || s.releaseHeld (teamCores t.paired t.core) then .next s
    else .next ((s.retireGroup team grp).settleBars team |>.retireTeam team)

/-! ### Completion (R438, R441, R447) -/

/-- Add 1 to the word at DONEADDR; a word that cannot be written is skipped with a notification (R438). -/
def State.countDoneAddr (s : State) (l : Launch) : State :=
  if l.lrec.doneAddr = 0 then s
  else
    let x := regionCtx l.region 0
    match s.madderCells x l.lrec.doneAddr 8 .write with
    | some cs => s.pokes cs (leBytes 8 ((leNat (cs.map s.peek) + 1) % 2 ^ 64))
    | none => s.post l.region { kind := 1, status := 9, launch := l.id, addr := l.lrec.addr, tag := l.tag.toNat }

/-- Launches that a launch's completion lets start: those it started or armed in a DET region, and its armed successors (R447). -/
def State.unholdAll (s : State) (id : Nat) : State :=
  { s with launches := s.launches.map (fun x =>
      if x.2.held && (x.2.origin = .kernel id || x.2.origin = .armed id) then (x.1, { x.2 with held := false, producers := (x.2.producers ++ (s.launch id).cores).eraseDups }) else x) }

/-- What a completed launch lets proceed (R422, R432, R438). -/
def State.originDone (s : State) (l : Launch) : State :=
  match l.origin with
  | .queue q idx =>
    let s1 := s.finishEntry q idx 1 0 l.id false
    s1.setQueue q { s1.queue q with producers := ((s1.queue q).producers ++ l.cores).eraseDups }
  | .node i _ => s.graphLaunchDone i l.id l.cores
  | _ => s

/-- LAUNCH_COMPLETE: the last team has retired; or the teams of an ended launch have all left (R438, R441). -/
def execLaunchComplete (id : Nat) (s : State) : Outcome State Fault Refusal :=
  let l := s.launch id
  if l.complete || (AMap.find s.launches id).isNone then .next s
  else if l.ended.isSome then
    if s.teams.any (fun t => t.2.launch = id && t.2.saved.isNone) then .next s
    else
      let s1 := ({ s with teams := s.teams.filter (fun t => t.2.launch != id) } : State).setLaunch id { l with complete := true }
      .next (if l.lrec.dbgrp = 0 then s1 else s1.closeMember l.lrec.dbgrp s1.ctl.self)
  else if decide (l.retired < l.lrec.teams) || s.releaseHeld l.cores then .next s
  else
    let s1 := l.cores.foldl (fun (acc : State) c => acc.releaseL1 c none) s
    let s2 := (s1.countDoneAddr l).setLaunch id { l with complete := true, armed := [] }
    let s3 := (s2.originDone l).unholdAll id
    .next ((if l.lrec.dbgrp = 0 then s3 else s3.closeMember l.lrec.dbgrp s3.ctl.self).takeSubs)

/-- ARMED_SUCCESSOR_START: every team of the arming launch has triggered (R447). -/
def execArmedSuccessorStart (id : Nat) (s : State) : Outcome State Fault Refusal :=
  let l := s.launch id
  match l.origin with
  | .armed a =>
    let x := s.launch a
    if !l.held || l.complete || x.region.det then .next s
    else if x.shares.all (fun d => decide (d.2.hi ≤ d.2.lo)) && x.redo.isEmpty && !x.held &&
        (s.launchTeams a).all (fun t => t.2.allTriggered || x.triggered.contains t.2.linear) then
      let s1 := s.setLaunch id { l with held := false }
      .next (s1.setLaunch a { s1.launch a with armed := (s1.launch a).armed.filter (fun y => y.2 != id) })
    else .next s
  | _ => .next s

end Sys2Proof.Machine
end

