-- ==== Sys2Proof/Machine/Image.lean ====
section
/-! DEFINITION. The context images of a saved team: what a save keeps, and the bytes of the team and group images (R281, R328, R330, R332, R333). -/

namespace Sys2Proof.Machine

/-! ### Stop addresses and live sets (R95, R328) -/

/-- The addresses a group's splits and spill entries continue from (R328). -/
def Group.stopAddrs (g : Group) : List Word :=
  g.usedSplits.map (fun i => (g.split i).pc) ++ g.spill.map (fun e => if e.park then e.token + 8 else e.pc)

/-- The group takes a full save (R328). -/
def Group.takesFull (g : Group) (l : Launch) : Bool :=
  g.forced || l.side.isEmpty || g.usedSplits.any (fun i => (g.split i).handler || (g.split i).st = 7) ||
    g.stopAddrs.any (fun a => (l.sideAt a).isNone)

/-- The union of the live sets at a group's stop addresses: VLIVE, GLIVE and KLIVE (R95, R328). -/
def Group.liveSets (g : Group) (l : Launch) : Nat × Nat × Nat :=
  g.stopAddrs.foldl (fun (acc : Nat × Nat × Nat) a =>
    let e := (l.sideAt a).getD 0
    (acc.1 ||| bitsOf e 255 64, acc.2.1 ||| bitsOf e 303 256, acc.2.2 ||| bitsOf e 311 305)) (0, 0, 0)

/-- The largest SPLIVE at a group's stop addresses. -/
def Group.spLive (g : Group) (l : Launch) : Nat := g.stopAddrs.foldl (fun n a => max n (bitsOf ((l.sideAt a).getD 0) 63 32)) 0

/-- What a save keeps: all registers, or the live ones (R329). -/
structure Kept where
  full : Bool
  v : Nat
  g : Nat
  k : Nat
  deriving DecidableEq, Repr

/-- What a save of a group keeps. -/
def Group.kept (g : Group) (l : Launch) : Kept :=
  if g.takesFull l then ⟨true, 2 ^ g.alloc - 1, 2 ^ 48 - 1, 2 ^ 7 - 1⟩
  else let x := g.liveSets l; ⟨false, x.1 % 2 ^ g.alloc, x.2.1, x.2.2⟩

/-- Registers that are not kept read zero after the restore (R329). -/
def Group.reduce (g : Group) (x : Kept) : Group :=
  { g with v := g.v.filter (fun e => bitAt x.v (e.1 / 32)), g := g.g.filter (fun e => bitAt x.g e.1), k := g.k.filter (fun e => bitAt x.k (e.1 - 1)) }

/-! ### Sizes and places (R332, R333, R436) -/

/-- Bytes of a group image. -/
def groupImageSize (alloc : Nat) : Nat := 0x5800 + 256 * alloc

/-- GIMGOFF of a team image with so many scratchpad bytes per core. -/
def gimgOff (paired : Bool) (sp : Nat) : Nat := (0x89000 + sp * (if paired then 2 else 1) + 255) / 256 * 256

/-- Bytes of a team image. -/
def LaunchRec.imageSize (r : LaunchRec) (sp : Nat) : Nat := gimgOff r.paired sp + r.ngrp * groupImageSize r.alloc

/-- Images in memory: base, size, and the launch's chain of regions. -/
def State.images (s : State) : List (Nat × Nat × Region) :=
  s.teams.filterMap (fun t => t.2.saved.map (fun a => (a, (s.launch t.2.launch).lrec.imageSize t.2.spBytes, (s.launch t.2.launch).region)))

/-- The lowest 256-byte aligned place of a save area where an image of `n` bytes overlaps none of those at given places (R333). -/
def placeBeside (taken : List (Nat × Nat)) (r : Region) (n : Nat) : Option Nat :=
  let starts := r.saveBase :: taken.map (fun x => (x.1 + x.2 + 255) / 256 * 256)
  (ascending (starts.filter (fun a => decide (r.saveBase ≤ a)))).find? (fun a =>
    decide (a + n ≤ r.saveBase + r.saveSize) && decide (a + n ≤ physEnd) && taken.all (fun x => decide (a + n ≤ x.1) || decide (x.1 + x.2 ≤ a)))

/-- The place of the next image of a region (R333). -/
def State.imagePlace (s : State) (r : Region) (n : Nat) : Option Nat := placeBeside (s.images.map (fun x => (x.1, x.2.1))) r n

/-- Images of some regions and sizes all find places, one after another (R437). -/
def placesFor (taken : List (Nat × Nat)) (xs : List (Region × Nat)) : Bool :=
  match xs with
  | [] => true
  | x :: rest =>
    match placeBeside taken x.1 x.2 with
    | some a => placesFor (taken ++ [(a, x.2)]) rest
    | none => false

/-- Images of a region and its descendants may grow by `n` bytes (R428, R437). -/
def State.hbmAllows (s : State) (r : Region) (n : Nat) : Bool :=
  r.budgets.all (fun b => b.2.2.2 = 0 ||
    decide (((s.images.filter (fun x => x.2.2.budgets.any (fun y => y.1 = b.1))).map (fun x => x.2.1)).sum + n ≤ b.2.2.2))

/-! ### Bytes -/

/-- Bytes of equal cells one after another. -/
def cellsBytes (n w : Nat) (f : Nat → Nat) : List Byte := (List.range n).flatMap (fun i => leBytes w (f i))

/-- The split-table entry of a split (R97). -/
def splitBits (g : Group) (i : Nat) : Nat :=
  let sp := g.split i
  if sp.st = 0 then 0
  else
    let f := g.frame sp.frame
    sp.pc.toNat + f.token.toNat * 2 ^ 128 + sp.mask.toNat * 2 ^ 192 + sp.st * 2 ^ 228 + i * 2 ^ 233 + sp.frame * 2 ^ 236 + f.depth * 2 ^ 239 +
      (match sp.wait with | .bar n _ => n * 2 ^ 242 | _ => 0)

/-- A token frame (R99). -/
def frameBits (f : Frame) : Nat := if f.valid then f.token.toNat + 2 ^ 64 + f.parent * 2 ^ 66 + f.depth * 2 ^ 69 else 0

/-- A spill entry (R107). -/
def spillBits (e : Spill) : Nat :=
  let pc := if e.park then e.token else e.pc
  fld pc 56 3 + natOfBool e.park * 2 ^ 57 + e.frame * 2 ^ 58 + e.owner * 2 ^ 61 +
    wrapNat 32 (sgn (e.token - pc) / 8) * 2 ^ 64 + e.mask.toNat * 2 ^ 96

/-- Where the words of a pending reply go, from the image's start: its window entry, or its register (R330). -/
def Pend.imgOff (p : Pend) : Nat :=
  if p.windowed then 0x3400 + 288 * p.window + 32
  else if 192 ≤ p.reg then 0x380 + 8 * (p.reg - 192) else 0x5800 + 256 * p.reg

/-- A pending-reply entry (R330, R332). SEQ and PEER are those of its first unanswered request. -/
def replyBits (s : State) (team grp : Nat) (p : Pend) : Nat :=
  let r := ((s.fab.reqs ++ s.fab.queue).find? (fun x => match x.owner with | .thread t g _ i => t = team && g = grp && i = p.inst | _ => false)).getD
    { pkt := { (default : Packet) with eseq := 0 }, owner := .thread team grp 0 p.inst }
  let split := match r.owner with | .thread _ _ i _ => i | _ => 0
  2 ^ 69 + split * 2 ^ 71 + natOfBool r.sx * 2 ^ 74 + (lowBit 8 r.size % 8) * 2 ^ 75 + p.reg * 2 ^ 78 + r.pkt.dest * 2 ^ 86 + p.imgOff * 2 ^ 96 +
    p.mask.toNat * 2 ^ 128 + (r.pkt.eseq % 2 ^ 32) * 2 ^ 160 + p.pc.toNat * 2 ^ 192

/-- An operand-log entry of 2,176 bytes (R332). -/
def logBytes (e : LogEntry) : List Byte :=
  let slot := fun (i : Nat) => e.slots.getD i none
  leBytes 128 (e.pc.toNat + e.w0.toNat * 2 ^ 64 + e.w1.toNat * 2 ^ 128 + e.active.toNat * 2 ^ 192 + e.split * 2 ^ 224 + 2 ^ 232 +
      natOfBits 7 (fun i => (slot i).isSome) * 2 ^ 233 + (e.event % 2 ^ 16) * 2 ^ 240) ++
    (List.range 7).flatMap (fun i => cellsBytes 32 8 (fun t => (((slot i).getD []).getD t 0).toNat)) ++
    cellsBytes 32 8 (fun t => (AMap.get e.rngc t 0).toNat)

/-- The log entry of an abandoned global stream: its operand words are A's descriptor, the stream's address and B's descriptor (R298, R311, R332). -/
def streamBytes (o : MatrixOp) : List Byte :=
  let row := fun (w : Word) => leBytes 8 w.toNat ++ List.replicate 248 (0 : Byte)
  leBytes 128 (o.pc.toNat + o.w0.toNat * 2 ^ 64 + o.active.toNat * 2 ^ 192 + o.split * 2 ^ 224 + 2 ^ 232 + o.opmask * 2 ^ 233 + (o.event % 2 ^ 16) * 2 ^ 240) ++
    row o.a ++ row o.c ++ row o.b ++ List.replicate 1024 (0 : Byte) ++ cellsBytes 32 8 (fun t => (AMap.get o.rngc t 0).toNat)

/-- A window entry of 288 bytes (R332). -/
def windowBytes (p : Pend) : List Byte :=
  leBytes 32 (1 + p.reg * 2 ^ 8 + natOfBits 128 (fun i => bitAt (AMap.get p.cnt (i / 4) 0) (i % 4)) * 2 ^ 64 +
      (if p.arrived then p.mask.toNat else 0) * 2 ^ 192 + p.disc.toNat * 2 ^ 224) ++
    cellsBytes 32 8 (fun t => (AMap.get p.vals t 0).toNat)

/-- The pending write that a list holds at a number. -/
def pendAt (ps : List Pend) (f : Pend → Nat) (i : Nat) : Option Pend := ps.find? (fun p => f p = i)

/-- Pending writes that wait for a reply (R330), and those in the window area (R332). -/
def Group.replies (g : Group) : List Pend := g.pends.filter (fun p => p.src = .remote)
def Group.windows (g : Group) : List Pend := g.pends.filter (fun p => p.windowed)

/-- The control word of a group image (R332). -/
def groupControl (g : Group) (x : Kept) (logs : Nat) : Nat :=
  let tx : Option Nat := g.tx.map (fun (t : Tx) => (t.abort.map (fun (a : Nat × Nat) => a.1)).getD 5)
  0x47435A56 + 2 ^ 32 + g.alloc * 2 ^ 40 + g.gidx * 2 ^ 48 + natOfBool x.full * 2 ^ 54 + natOfBool g.idem * 2 ^ 55 + natOfBool tx.isSome * 2 ^ 56 +
    tx.getD 0 * 2 ^ 64 + (g.replies.length % 128) * 2 ^ 72 + (logs % 8) * 2 ^ 80 + (g.windows.length % 64) * 2 ^ 83 + x.k * 2 ^ 89 + g.live.toNat * 2 ^ 96 +
    g.dem.toNat * 2 ^ 128 + x.g * 2 ^ 160 + g.event * 2 ^ 208 + (g.ackcnt % 2 ^ 16) * 2 ^ 224

/-- A group image (R332). -/
def groupImage (s : State) (team : Nat) (g : Group) (x : Kept) (streams : List MatrixOp) : List Byte :=
  let zeros := fun (n : Nat) => List.replicate n (0 : Byte)
  let logs := (g.oplog.map logBytes ++ streams.map streamBytes).take 4
  leBytes 64 (groupControl g x logs.length) ++ leBytes 24 x.v ++ zeros 0xA8 ++ cellsBytes 8 32 (splitBits g) ++
    cellsBytes 8 16 (fun i => frameBits (g.frame i)) ++ cellsBytes 8 4 (fun k => if k = 0 then 0 else (AMap.get g.k k 0).toNat) ++ zeros 0x60 ++
    cellsBytes 16 8 (fun n => (g.readF n).toNat) ++ cellsBytes 48 8 (fun n => (g.readG n).toNat) ++ cellsBytes 32 8 (fun t => (g.readRng t).toNat) ++
    cellsBytes 13 8 (fun i => (AMap.get g.trap (if i = 12 then 0x2D else 0x20 + i) 0).toNat) ++ zeros 0x98 ++
    cellsBytes 32 8 (fun t => (AMap.get g.trapAddr t 0).toNat) ++ cellsBytes 32 16 (fun i => ((g.spill[i]?).map spillBits).getD 0) ++
    cellsBytes 64 32 (fun i => ((pendAt g.replies (fun p => p.entry) i).map (replyBits s team g.gidx)).getD 0) ++
    logs.flatMap id ++ zeros (2176 * (4 - logs.length)) ++
    (List.range 32).flatMap (fun i => match pendAt g.windows (fun p => p.window) i with | some p => windowBytes p | none => zeros 288) ++
    cellsBytes (32 * g.alloc) 8 (fun i => (AMap.get g.v i 0).toNat)

/-- The control word of a team image (R333). -/
def teamControl (t : Team) (r : LaunchRec) : Nat :=
  0x54435A56 + 2 ^ 32 + r.ngrp * 2 ^ 40 + natOfBool t.paired * 2 ^ 47 + natOfBool t.fullSave * 2 ^ 48 + r.tmask * 2 ^ 52 + r.bmask * 2 ^ 56 +
    natOfBits 16 (fun i => i % 2 = 0 && ((AMap.find t.savedTiles (i / 2)).map (fun (x : Tile) => x.invalid)).getD false) * 2 ^ 64 + t.spBytes * 2 ^ 80 +
    gimgOff t.paired t.spBytes * 2 ^ 112 + t.launch * 2 ^ 144 + t.linear * 2 ^ 176

/-- A named barrier in the image: arrivals, Q and E. -/
def barrierBits (b : Barrier) : Nat := b.arrivals % 2 ^ 16 + (b.q % 2 ^ 16) * 2 ^ 16 + (b.e % 2 ^ 32) * 2 ^ 32

/-- A bank image as a save stores it: no entries of a bound plane (R283). -/
def Bank.savedImage (b : Bank) : List Byte :=
  let strip := fun (p : Plane) => if bitAt p.config 10 then { p with entries := [] } else p
  ({ b with p0 := strip b.p0, p1 := strip b.p1 } : Bank).image

/-- The team image up to the group images (R333): control word, barriers, banks of the leader, tiles, and scratchpad. -/
def teamImage (s : State) (team : Nat) (t : Team) (r : LaunchRec) : List Byte :=
  let zeros := fun (n : Nat) => List.replicate n (0 : Byte)
  let head := leBytes 64 (teamControl t r) ++ zeros 0xC0 ++ cellsBytes 128 8 (fun n => barrierBits ((AMap.find t.bars n).getD {})) ++
    (List.range 8).flatMap (fun b => match AMap.find t.savedBanks b with | some x => x.savedImage | none => zeros 4224) ++ zeros 0x700 ++
    (List.range 8).flatMap (fun i => match AMap.find t.savedTiles i with | some x => cellsBytes 16384 4 (fun j => (AMap.get x.vals j 0).toNat) | none => zeros 65536)
  let sp := (List.range (if t.paired then 2 else 1)).flatMap (fun side => (List.range t.spBytes).map (fun o => s.readSp team side o))
  let pad := gimgOff t.paired t.spBytes - (0x89000 + sp.length)
  head ++ sp ++ zeros pad

end Sys2Proof.Machine
end

