-- ==== Sys2Proof/Machine/Remote.lean ====
section
/-! DEFINITION. Remote access: RLD, RST, RATOM, RCAS, RSIG and DRED at the source, the requests they send, and the answers (R461, R465 to R472, R476 to R490). -/

namespace Sys2Proof.Machine

open Host

/-! ### Issue of a thread access (R465 to R472) -/

/-- The four thread accesses. -/
inductive RemKind where
  | load | store | atomic | cas
  deriving DecidableEq, Repr

/-- One thread's access, with its operands read: the peer word, the address, and the data, operand or new value, and comparand. -/
structure RemAcc where
  thr : Nat
  peer : Word
  addr : Word
  val : Nat
  cmp : Nat
  deriving DecidableEq, Repr

/-- The peer package of an access. -/
def RemAcc.pkg (a : RemAcc) : Nat := a.peer.toNat % 1024

/-- SIZE in bytes (R465). -/
def remSize (f : RegForm) : Nat := 2 ^ (f.mod.toNat / 64 % 8)
/-- ORDER (R465). -/
def remOrder (f : RegForm) : Nat := f.mod.toNat / 2 % 8
/-- OPC (R465). -/
def remOpc (f : RegForm) : Nat := f.mod.toNat / 16 % 4 * 2 + natOfBool (RegForm.flag f)

/-- The threads an access runs in: the event thread of a uniform one, else the active ones; writes leave out demoted threads (R12, R465, R473). -/
def remThreads (k : RemKind) (f : RegForm) (g : Group) (self : Half) : List Nat :=
  let act := g.active self f.mask
  match k, isUni f.d with
  | .load, true => [eventThread g self]
  | .load, false => threadsOf act
  | _, true => if self &&& g.live = 0 then [] else [eventThread g self]
  | _, false => threadsOf (act &&& g.live)

/-- The accesses of an instruction. -/
def remAccs (k : RemKind) (f : RegForm) (g : Group) (self : Half) : List RemAcc :=
  (remThreads k f g self).map (fun t =>
    let n := remSize f
    let low := fun o : Opnd => (g.readOpnd self o t).toNat % 2 ^ (8 * n)
    { thr := t, peer := g.readOpnd self f.a t, addr := g.readOpnd self f.b t
      val := match k with | .store => low f.d | _ => low f.c
      cmp := low f.d })

/-- A trap on a value of each failing thread. -/
def remTrap (code aux : Nat) (write : Bool) (bad : List (Nat × Word)) : Option TrapReq :=
  match bad with
  | [] => none
  | _ => some (accTrap code aux write (bad.map (fun x => { thr := x.1, ea := x.2 })))

/-- The first PROT check of R467 that a thread's access fails: its cause, and the failing value. -/
def State.remProt (s : State) (x : RemAcc) : Option (Nat × Word) :=
  if x.peer.toNat / 1024 != 0 then some (0x10, x.peer)
  else if !s.routeValid x.pkg then some (0x11, x.peer)
  else if 2 ^ 57 ≤ x.addr.toNat then some (0x01, x.addr)
  else none

/-- The checks of R467 on thread accesses: ALIGN in any thread comes first; a PROT trap names the failing value of each failing thread, and has the cause of the lowest (R211). -/
def State.remCheck (s : State) (write : Bool) (n : Nat) (xs : List RemAcc) : Option TrapReq :=
  let bad := xs.filterMap (fun x => (s.remProt x).map (fun c => (x.thr, c)))
  firstTrap [
    remTrap 0x07 0 write ((xs.filter (fun x => x.addr.toNat % n != 0)).map (fun x => (x.thr, x.addr))),
    remTrap 0x08 ((bad.head?.map (fun b => b.2.1)).getD 0) write (bad.map (fun b => (b.1, b.2.2)))]

/-- Replies that a group awaits (R332, R472). -/
def State.replyCount (s : State) (team grp : Nat) : Nat :=
  ((s.fab.reqs ++ s.fab.queue).filter (fun r => match r.owner with
    | .thread t g _ _ => t = team && g = grp && r.reg.isSome
    | _ => false)).length

/-- Distinct peers, ascending (R468). -/
def peersOf (xs : List RemAcc) : List Nat := ascending (xs.map RemAcc.pkg)

/-- The bytes that stores to one block write, as (offset in the block, byte): a higher thread's byte remains (R470). -/
def blockBytes (n : Nat) (xs : List RemAcc) : List (Nat × Byte) :=
  xs.foldl (fun (acc : List (Nat × Byte)) x =>
    let mine := (leBytes n x.val).zipIdx.map (fun b => (x.addr.toNat % 256 + b.2, b.1))
    acc.filter (fun e => !mine.any (fun m => m.1 = e.1)) ++ mine) []

/-- The VA, length, data and COUNT of a STORE of a block's bytes. Bytes with gaps are followed by a mask of one bit per byte, and COUNT is 1 (log 27). -/
def storeSpan (block : Nat) (bs : List (Nat × Byte)) : Nat × Nat × List Byte × Nat :=
  let lo := bs.foldl (fun n e => min n e.1) 256
  let hi := bs.foldl (fun n e => max n (e.1 + 1)) 0
  let at_ := fun o => bs.find? (fun e => e.1 = lo + o)
  let data := (List.range (hi - lo)).map (fun o => match at_ o with | some e => e.2 | none => 0)
  if bs.length = hi - lo then (block * 256 + lo, hi - lo, data, 0)
  else (block * 256 + lo, hi - lo, data ++ leBytes ((hi - lo + 7) / 8) (natOfBits (hi - lo) (fun o => (at_ o).isSome)), 1)

/-- A request packet of a group. -/
def State.requestPacket (s : State) (l : Latch) (dest op va len : Nat) (acq rel : Bool) (data : List Byte) : Packet :=
  { eseq := 0, djid := (s.launchOf l.ref.team).region.djid, dest := dest, src := s.ctl.self, va := va, len := len, op := op, resp := false, rel := rel, acq := acq
    resent := false, rtag := rtagOf (s.groupAt l.ref) l.ref.grp, asz := false, sub := 0, index := 0, tile := 0, core := 0, count := 0, data := data }

/-- Buffered remote accesses of the open transaction to the bytes of a load (R253). -/
def seenThrough (g : Group) (peer va n : Nat) : List TxAcc :=
  match g.openTx with
  | some t => t.accs.filter (fun x => match x.remote with
      | some (p, a) => p = peer && decide (a < va + n) && decide (va < a + x.acc.va.length)
      | none => false)
  | none => []

/-- The address and length of a LOAD: where the transaction has buffered an atomic wider than the load, the aligned word of the atomic is read, so that its result is formed on the value at home (R253). -/
def loadSpan (g : Group) (peer va n : Nat) : Nat × Nat :=
  if (seenThrough g peer va n).any (fun x => decide (n < x.acc.va.length) && (match x.op with | .atomic _ => true | _ => false)) then (va / 8 * 8, 8) else (va, n)

/-- The requests of an instruction to one peer (R469 to R471). -/
def State.remRequests (s : State) (k : RemKind) (f : RegForm) (l : Latch) (xs : List RemAcc) : List RemoteReq :=
  let g := s.groupAt l.ref
  let n := remSize f
  let acq := k != .store && remOrder f = 2
  let rel := remOrder f = 3
  let owner : ReqOwner := .thread l.ref.team l.ref.grp l.ref.split g.nextInst
  let base : RemoteReq :=
    { pkt := s.requestPacket l 0 0 0 0 acq rel [], owner := owner, pc := l.pc, w0 := l.w0, size := n, reg := if k = .store then none else destField f.d, uniform := isUni f.d }
  match k with
  | .store =>
    (peersOf xs).flatMap (fun p =>
      let mine := xs.filter (fun x => x.pkg = p)
      (ascending (mine.map (fun x => x.addr.toNat / 256))).map (fun b =>
        let ys := mine.filter (fun x => x.addr.toNat / 256 = b)
        let q := storeSpan b (blockBytes n ys)
        { base with
          pkt := { s.requestPacket l p 0x02 q.1 q.2.1 false rel q.2.2.1 with count := q.2.2.2 }
          parts := ys.map (fun y => (y.thr, 0, y.addr.toNat)) }))
  | _ =>
    (peersOf xs).flatMap (fun p => (xs.filter (fun x => x.pkg = p)).map (fun x =>
      let va := x.addr.toNat
      let pkt := match k with
        | .load => s.requestPacket l p 0x01 (loadSpan g p va n).1 (loadSpan g p va n).2 acq false []
        | .atomic => { s.requestPacket l p 0x03 va n acq rel (leBytes n x.val) with asz := n = 8, sub := remOpc f, count := natOfBool (f.d = .vz) }
        | _ => { s.requestPacket l p 0x04 va (2 * n) acq rel (leBytes n x.cmp ++ leBytes n x.val) with asz := n = 8 }
      { base with
        pkt := pkt, parts := [(x.thr, 0, va)]
        sx := match k with | .load => RegForm.flag f | .atomic => n = 4 && (remOpc f = 4 || remOpc f = 5) | _ => false
        buffered := if k = .load then seenThrough g p (loadSpan g p va n).1 (loadSpan g p va n).2 else [] }))

/-- Buffer a remote store or atomic of the open transaction: a second peer, or a peer after a local store, aborts with code 2, a seventeenth line with code 1 (R253, R473). -/
def Tx.addRemote (t : Tx) (op : MemOp) (djid n : Nat) (x : RemAcc) : Tx :=
  if t.abort.isSome then t
  else
    let home := 8 + x.pkg
    let va := x.addr.toNat
    let t' := { t with
      accs := t.accs ++ [{ op := op, acc := { thr := x.thr, ea := x.addr, va := spanFrom x.addr n, val := x.val }, remote := some (x.pkg, va), djid := djid }]
      home := some home }
    if t.home.getD home != home then { t with abort := some (2, 0) }
    else if 16 < t'.lines.length then { t with abort := some (1, 0) }
    else t'

/-- The class of an access inside a transaction is disallowed (R253). -/
def remDisallowed (k : RemKind) (f : RegForm) : Bool :=
  match k with
  | .load => remOrder f = 2
  | .store => remOrder f = 3
  | .atomic => f.d != .vz || remOrder f != 1
  | .cas => true

/-- The access traps DETOP in a DET region whatever its threads have done (R489). -/
def remDetOp (k : RemKind) (f : RegForm) : Bool :=
  match k with
  | .load => remOrder f = 2
  | .store => remOrder f = 3
  | .atomic => f.d != .vz || remOrder f != 1
  | .cas => true

/-- Source fields of an access. -/
def remSources (k : RemKind) (f : RegForm) : List Opnd :=
  match k with
  | .load => [f.a, f.b]
  | .store => [f.a, f.b]
  | _ => [f.a, f.b, f.c]

/-- The body of RLD, RST, RATOM and RCAS (R465 to R473, R480 to R482). -/
def remoteBody (k : RemKind) (f : RegForm) (l : Latch) (s1 : State) : Res :=
  let g := s1.groupAt l.ref
  let self := l.self s1
  let team := l.ref.team
  let grp := l.ref.grp
  let xs := remAccs k f g self
  let ts := xs.map (fun x => x.thr)
  let n := remSize f
  let stores := k != .load
  let acq := k != .store && remOrder f = 2
  let rel := remOrder f = 3
  let reply := k != .store && f.d != .vz
  if uniformBad f.d (remSources k f) then .trap trapUniform
  else if g.openTx.isSome && remDisallowed k f then doneGroup l s1 (g.abortTx 7 0)
  else if g.openTx.isSome && stores && (g.openTx.bind (fun t => t.abort)).isSome then .done s1
  else
    match firstTrap [if s1.det team && (remDetOp k f || g.arrived.any (fun a => ts.contains (a % 32))) then some trapDetOp else none, s1.remCheck stores n xs] with
    | some t => .trap { t with txAbort := g.openTx.isSome && stores }
    | none =>
      match g.openTx, stores with
      | some t, true =>
        let op : MemOp := if k = .store then .store else .atomic (.int (remOpc f))
        let djid := (s1.launchOf team).region.djid
        doneGroup l s1 { g with tx := some ((peersOf xs).foldl (fun (acc : Tx) p => (xs.filter (fun x => x.pkg = p)).foldl (fun (u : Tx) x => u.addRemote op djid n x) acc) t) }
      | _, _ =>
        if (acq || rel) && logWaits g self then .hold s1
        else if s1.acquirePending team grp ts then .hold s1
        else if xs.any (fun x => s1.blockBusy team grp x.pkg (x.addr.toNat / 256) none) then .hold s1
        else if reply && decide (64 < s1.replyCount team grp + xs.length) then .hold s1
        else if rel && (peersOf xs).any (fun p => s1.releasePending team grp p ts) then .hold s1
        else
          match (if rel then s1.releaseLocal team grp (if isUni f.d then self else maskOf (fun t => ts.contains t)) f.fs.toNat none else some s1) with
          | none => .hold s1
          | some s2 =>
            let g2 := s2.groupAt l.ref
            let mask := if isUni f.d then (if ts.isEmpty then 0 else self) else maskOf (fun t => ts.contains t)
            let g3 := match reply, destField f.d with
              | true, some r => (g2.addPend g2.nextInst l.pc r mask f.la.toNat [] .remote).fromMemory g2.nextInst (xs.map (fun x => (x.thr, x.addr)))
              | _, _ => g2
            let s3 := s2.setGroupAt l.ref g3
            .done (s3.sendAll (s2.remRequests k f l xs))

/-- RLD (R469). -/
def execRld (f : RegForm) (s : State) : Outcome State Fault Refusal := issue "RLD" s (remoteBody .load f)
/-- RST (R470). -/
def execRst (f : RegForm) (s : State) : Outcome State Fault Refusal := issue "RST" s (remoteBody .store f)
/-- RATOM (R471). -/
def execRatom (f : RegForm) (s : State) : Outcome State Fault Refusal := issue "RATOM" s (remoteBody .atomic f)
/-- RCAS (R471). -/
def execRcas (f : RegForm) (s : State) : Outcome State Fault Refusal := issue "RCAS" s (remoteBody .cas f)

/-! ### RSIG (R476) -/

/-- RSIG: a TBARRIVE request after a release at `.dom` (R467, R476, R481). -/
def execRsig (f : RegForm) (s : State) : Outcome State Fault Refusal :=
  outsideTx "RSIG" s (fun l s1 =>
    let g := s1.groupAt l.ref
    let self := l.self s1
    let a := g.readOpnd self f.a 0
    let b := g.readOpnd self f.b 0
    let count := match f.c with | .g _ => (g.readOpnd self f.c 0).toNat % 2 ^ 20 | _ => 1
    let peer := fld a 21 12
    let ts := threadsOf self
    let bad := fun (p : Bool) (code aux : Nat) (w : Word) => if p then some (trapUniformAddr code aux w self true) else none
    if self &&& g.live = 0 then .done s1
    else
      match firstTrap [bad (b.toNat % 16 != 0) 0x07 0 b, bad (a.toNat / 2 ^ 22 != 0) 0x08 0x10 a, bad (!s1.routeValid peer) 0x08 0x11 a,
          bad (b.toNat / 2 ^ 32 != 0) 0x08 0x12 b] with
      | some t => .trap t
      | none =>
        if count = 0 then .done s1
        else if logWaits g self || s1.acquirePending l.ref.team l.ref.grp ts || s1.releasePending l.ref.team l.ref.grp peer ts then .hold s1
        else
          match s1.releaseLocal l.ref.team l.ref.grp self 5 none with
          | none => .hold s1
          | some s2 =>
            let pkt := { s2.requestPacket l peer 0x05 b.toNat 0 false true [] with core := a.toNat % 4096, count := count }
            let r : RemoteReq :=
              { pkt := pkt, owner := .thread l.ref.team l.ref.grp l.ref.split g.nextInst, pc := l.pc, w0 := l.w0, parts := [(eventThread g self, 0, b.toNat)] }
            .done (s2.sendAll [r]))

/-! ### DRED (R486, R487) -/

/-- DRED: the words of the named threads enter the combining tree, and the destination waits for the result (R486). -/
def execDred (f : RegForm) (s : State) : Outcome State Fault Refusal :=
  issue "DRED" s (fun l s1 =>
    let g := s1.groupAt l.ref
    let self := l.self s1
    let act := g.active self f.mask
    let la := s1.launchOf l.ref.team
    let n := match f.b with | .g _ => (g.readOpnd self f.b 0).toNat % 16 | _ => 8
    if uniformBad f.d [f.a] then .trap trapUniform
    else if n = 0 || decide (8 < n) || (isUni f.d && decide (1 < n)) then .trap trapOperand
    else if s1.fab.phases.any (fun p => p.launch = la.id && !p.hbar && p.waiting) then .hold s1
    else
      let words := (List.range n).map (fun i => g.readOpnd self f.a i)
      let inst := g.nextInst
      let mask := if isUni f.d then self else act &&& maskOf (fun t => decide (t < n))
      let g1 := match destField f.d with
        | some r => g.addPend inst l.pc r mask f.la.toNat [] .remote
        | none => g
      let v : TreeVal := { op := f.fs.toNat, size := f.mod.toNat / 64 % 8, n := n, words := words }
      .done ((s1.setGroupAt l.ref g1).contribute la.id la.lrec.dbgrp false v (fun p =>
        { p with team := l.ref.team, grp := l.ref.grp, split := l.ref.split, inst := inst, pc := l.pc, w0 := l.w0, active := self, waiting := true })))

/-! ### Answers (R477, R478, R482) -/

/-- The split that holds a thread now, or else the one named. -/
def Group.splitHolding (g : Group) (t dflt : Nat) : Nat :=
  (g.usedSplits.find? (fun i => (g.split i).mask.getLsbD t)).getD dflt

/-- A trap of an instruction whose answers failed stands to be presented on its split (R315). -/
def State.remTrapLater (s : State) (team grp split inst : Nat) (pc w0 : Word) (t : TrapReq) : State :=
  let g := s.group team grp
  let i := g.splitHolding ((t.addrs.head?.map (fun x => x.1)).getD 32) split
  s.setGroup team grp { g with deferred := g.deferred ++ [{ split := i, inst := inst, trap := ⟨{ t with deferred := t.deferred || g.passed i pc w0 }, pc, w0, 0, (g.split i).pc⟩ }] }

/-- A deferred REMFAULT of an instruction (R315, R478). -/
def State.remFault (s : State) (team grp split inst : Nat) (pc w0 : Word) (cause : Nat) (xs : List (Nat × Nat)) (write : Bool) : State :=
  s.remTrapLater team grp split inst pc w0
    { code := 0x0F, aux := cause, addrs := xs.map (fun x => (x.1, wd x.2)), pages := rangePages xs write true, deferred := true }

/-- Add a thread's value to a pending write. -/
def Group.collect (g : Group) (inst reg thr : Nat) (x : Word) : Group :=
  { g with pends := g.pends.map (fun p => if p.inst = inst && p.reg = reg then { p with vals := AMap.set p.vals thr x 0 } else p) }

/-- The value of a reply: the buffered accesses of the transaction applied, and the extension (R253, R469, R471). -/
def RemoteReq.value (r : RemoteReq) (data : List Byte) : Word :=
  let n := if r.pkt.op = 0x01 then max r.size r.pkt.len else r.size
  let off := if r.pkt.op = 0x01 then ((r.parts.head?.map (fun p => p.2.2)).getD r.pkt.va) - r.pkt.va else 0
  let old := leNat (data.take n)
  let v := r.buffered.foldl (fun (acc : Nat) x =>
    let a := (x.remote.map (fun p => p.2)).getD 0
    let m := x.acc.va.length
    -- bytes of the access's word as the load sees them, other bytes zero
    let cur := leNat ((List.range m).map (fun i => if r.pkt.va ≤ a + i ∧ a + i < r.pkt.va + n then BitVec.ofNat 8 (acc >>> (8 * (a + i - r.pkt.va))) else 0))
    let new := match x.op with
      | .atomic o => atomVal o m cur x.acc.val x.acc.cmp
      | _ => x.acc.val
    (List.range m).foldl (fun (w : Nat) i =>
      if r.pkt.va ≤ a + i ∧ a + i < r.pkt.va + n then putBits w (8 * (a + i - r.pkt.va)) 8 ((new >>> (8 * i)) % 256) else w) acc) old
  let x := v / 2 ^ (8 * off) % 2 ^ (8 * r.size)
  if r.sx then wordOfInt (sextNat (8 * r.size) x) else wd x

/-- An instruction all of whose requests are answered: its acquire acts, its results can arrive, or its failures are raised for the lowest failing peer (R468, R478, R482). -/
def State.finishRemote (s : State) (r : RemoteReq) : State :=
  match r.owner with
  | .thread team grp split inst =>
    if (s.fab.reqs ++ s.fab.queue).any (fun x => x.owner = r.owner) then s
    else
      let mine := s.fab.fails.filter (fun x => x.team = team && x.grp = grp && x.inst = inst)
      let s1 := { s with fab := { s.fab with fails := s.fab.fails.filter (fun x => !(x.team = team && x.grp = grp && x.inst = inst)) } }
      let s2 := if r.pkt.acq then s1.acquire team grp (fld r.w0 51 48) none else s1
      match mine with
      | [] =>
        let g := s2.group team grp
        s2.setGroup team grp { g with pends := g.pends.map (fun p => if p.inst = inst && p.src = .remote then { p with src := .ready } else p) }
      | x :: rest =>
        let low := rest.foldl (fun (a : RemoteFail) y => if y.peer < a.peer || (y.peer = a.peer && y.thr < a.thr) then y else a) x
        let xs := (ascending (mine.map (fun y => y.thr))).filterMap (fun t => (mine.find? (fun y => y.thr = t)).map (fun y => (t, y.va)))
        let g := (s2.group team grp).cancel inst
        let i := g.splitHolding low.thr split
        let addrs := xs.map (fun y => (y.1, wd y.2))
        match low.why with
        | .race aux =>
          (s2.setGroup team grp g).present ⟨team, grp, i⟩ ⟨{ code := 0x0C, aux := aux, addrs := addrs, pages := rangePages xs low.write true }, r.pc, r.w0, 0, (g.split i).pc⟩
        | .overflow =>
          (s2.setGroup team grp g).regionTrap ⟨team, grp, i⟩ ⟨{ code := 0x16, deferred := true }, r.pc, r.w0, 0, (g.split i).pc⟩
        | .uce cause => s2.remTrapLater team grp split inst r.pc r.w0 (trapUce cause addrs)
        | .status cause => s2.remFault team grp split inst r.pc r.w0 cause xs low.write
  | _ => s

/-- How an answer says that the access was not performed: a status, or COUNT 2, 5 or 6 (R416, R417, R478, R490; log 28). -/
def answerFails (p : Packet) : Option RemoteWhy :=
  if p.sub != 0 then some (.status p.sub)
  else match p.count with
    | 2 => some (.race p.va)
    | 5 => some (.uce p.index)
    | 6 => some .overflow
    | _ => none

/-- A thread request is answered: its values are kept, or its threads fail (R477, R478). -/
def State.threadAnswered (s : State) (r : RemoteReq) (p : Packet) : State :=
  match r.owner with
  | .thread team grp _ inst =>
    let write := r.pkt.op != 0x01
    match answerFails p with
    | some why =>
      let fs := r.parts.map (fun x => ({ team := team, grp := grp, inst := inst, peer := r.pkt.dest, thr := x.1, va := x.2.2, why := why, write := write } : RemoteFail))
      ({ s with fab := { s.fab with fails := s.fab.fails ++ fs } } : State).finishRemote r
    | none =>
      let g := s.group team grp
      let g1 := match r.reg with
        | some reg => r.parts.foldl (fun (acc : Group) x => acc.collect inst reg (if 192 ≤ reg then 0 else x.1) (r.value p.data)) g
        | none => g
      let s1 := (s.setGroup team grp g1).finishRemote r
      if p.count = 4 && r.pkt.op = 0x02 then s1.e2e team grp (if p.index = 0 then (s.team team).launch else 0) p.va ⟨{ code := 0x10 }, r.pc, r.w0, 0, 0⟩ else s1
  | _ => s

/-- The answer to a line or the commit of a transaction (R473): a status gives code 4, and COUNT of the commit's answer the code. -/
def State.txAnswered (s : State) (r : RemoteReq) (p : Packet) : State :=
  match r.owner with
  | .tx team grp =>
    let g := s.group team grp
    match g.tx with
    | some t =>
      if t.answer.isSome then s
      else if p.sub != 0 then s.setGroup team grp { g with tx := some { t with answer := some 4 } }
      else if r.pkt.op = 0x0A then s.setGroup team grp { g with tx := some { t with answer := some p.count } }
      else s
    | none => s
  | _ => s

/-- The answer to a DRAIN request (R307, R488). -/
def State.drainAnswered (s : State) (core id : Nat) (p : Packet) : State :=
  match (s.core core).order.find? (fun o => o.id = id && !o.copy) with
  | some o => if p.sub != 0 then s.matrixTrap core o { code := 0x0F, aux := p.sub } else s.answerDrain core id (if p.count = 1 then 3 else 0)
  | none => s

/-- The request a response answers (R464). -/
def State.requestOf (s : State) (p : Packet) : Option RemoteReq :=
  s.fab.reqs.find? (fun r => r.pkt.dest = p.src && r.pkt.eseq = p.eseq)

/-- Apply an answer to its request. -/
def State.applyAnswer (s : State) (r : RemoteReq) (p : Packet) : State :=
  let s1 := { s with fab := { s.fab with reqs := s.fab.reqs.filter (fun x => !(x.pkt.dest = r.pkt.dest && x.pkt.eseq = r.pkt.eseq)) } }
  let s2 := match r.owner with
    | .thread _ _ _ _ => s1.threadAnswered r p
    | .engine k tag => s1.pieceAnswered k tag r p
    | .tx _ _ => s1.txAnswered r p
    | .drain core id => s1.drainAnswered core id p
    | .reduce g k h => s1.takeResult g k h p
  s2.pump.sendAllPieces

/-- Take a packet out of those delivered. -/
def State.consume (s : State) (p : Packet) : State := { s with fab := { s.fab with inbox := s.fab.inbox.erase p } }

/-- The group of a request is saved in an image (R330). -/
def State.frozen (s : State) (r : RemoteReq) : Bool :=
  match r.owner with
  | .thread team _ _ _ => (s.team team).saved.isSome
  | _ => false

/-- REMOTE_RESPONSE: a response answers its request; one with none is dropped (R477, R479). The bytes of a GETREAD wait while a commit holds a line of theirs (R254). -/
def execRemoteResponse (p : Packet) (s : State) : Outcome State Fault Refusal :=
  if !p.resp || !s.fab.inbox.contains p then .next s
  else
    match s.requestOf p with
    | none => .next (s.consume p)
    | some r => if s.frozen r || cellsLocked s.lockedLines r.cells then .next s else .next ((s.consume p).applyAnswer r p)

/-- The request that an event names. -/
def State.requestNamed (s : State) (dest cls eseq : Nat) : Option RemoteReq :=
  if cls = 0 then s.fab.reqs.find? (fun r => r.pkt.dest = dest && r.pkt.eseq = eseq) else none

/-- REQUEST_RESEND: a copy of an unanswered request goes out with RESENT (R479). -/
def execRequestResend (dest cls eseq : Nat) (s : State) : Outcome State Fault Refusal :=
  match s.requestNamed dest cls eseq with
  | some r => .next (s.emit { r.pkt with resent := true })
  | none => .next s

/-- The reduction of a launch that waits for its result. -/
def State.dredOf (s : State) (launch : Nat) : Option TreePhase := s.fab.phases.find? (fun p => p.launch = launch && !p.hbar && p.waiting)

end Sys2Proof.Machine
end

