-- ==== Sys2Proof/Machine/Slots.lean ====
section
/-! DEFINITION. What a slot may issue: hazards and the scoreboard (R201, R202, R73, R112, R332), room in the structures of issued work (R113, R295, R348), readiness, policies and co-issue (R14, R104, R111, R192, R200 to R207). -/

namespace Sys2Proof.Machine

open Host

/-! ### Hazards -/

/-- The instruction is long-latency (R71). -/
def longLatency (op : Nat) : Bool :=
  [0x70, 0x72, 0x74, 0x76, 0x78, 0x98, 0x90, 0x91, 0x92, 0x15, 0x16, 0x44, 0x45, 0x46, 0x47, 0x48, 0x49, 0x60, 0x61, 0xAD, 0xAE, 0xB0, 0xB1, 0xB3, 0xB4,
   0xD0, 0xD1, 0xD2, 0xD3, 0xD4, 0xD5, 0xD6, 0xD7].contains op

/-- A pending write holds an instruction of split mask `self` and active set `act` that names its register: outside its window for some active thread (R201, R202); for a g-register also in every split that does not hold the window's thread (R73). -/
def Pend.blocks (p : Pend) (self act : Half) : Bool :=
  if 192 ≤ p.reg then !(self.getLsbD p.winThread && p.openFor 0) && p.disc = 0
  else act &&& p.mask &&& ~~~p.disc &&& maskOf (fun t => !p.openFor t) != 0

/-- Cells of the recipe that a CPY of a core names (R364). -/
def State.recipeOf (s : State) (core : Nat) (f : RegForm) : List Nat := (AMap.find (s.cluster (clusterOf core)).recipes f.fs.toNat).getD []

/-- The codebook banks an instruction names: by its BANK field, by the descriptor of a coded B, by the CBDEC cells of its recipe (R270, R299, R355). -/
def State.banksNamed (s : State) (r : SplitRef) (i : Instr) : List Nat :=
  let g := s.groupAt r
  let coded := fun (f : RegForm) =>
    let d := (mmaOperands f g (g.split r.split).mask).2.1
    if descCb d then [fld d 45 43] else []
  match i with
  | .mma f => coded f
  | .mmas f => coded f
  | .cpy f => ((s.recipeOf g.core f).filter (fun c => cellKind c = 9)).map (fun c => cellSlot c % 8)
  | _ =>
    match viewOf i with
    | .fmt _ f => if f.xa || f.xb then [f.bank.toNat] else []
    | .reg op f => if op = 0xAE then [f.mod.toNat / 64 % 8] else if 0xA8 ≤ op && op ≤ 0xAF then [f.fs.toNat % 8] else []
    | _ => []

/-- A bank image that is still to be loaded holds the instructions that name the bank (R281). -/
def State.imageHolds (s : State) (r : SplitRef) (i : Instr) : Bool :=
  let core := (s.groupAt r).core
  (s.banksNamed r i).any (fun b => s.teams.any (fun t => t.2.saved.isNone && t.2.groups.any (fun g => g.2.core = core && g.2.oplog.any (fun e => match e.req.book with
      | some u => u.bank = b && u.kind = .image
      | none => false))))

/-- Another split of the group holds a thread (R112). -/
def Group.elsewhere (g : Group) (i t : Nat) : Bool := g.usedSplits.any (fun j => j != i && (g.split j).mask.getLsbD t)

/-- Register writes that an instruction adds to its scoreboard bank: each register of a tuple (R201). -/
def Uses.adds (u : Uses) : Nat := u.writes.length

/-- A thread access of the split in a DET region whose tag check has no answer yet: a remote one, or one logged for a page (R320, R414). -/
def State.unchecked (s : State) (r : SplitRef) (self : Half) : Bool :=
  s.det r.team &&
    ((s.fab.reqs ++ s.fab.queue).any (fun q => match q.owner with
      | .thread t n _ _ => t = r.team && n = r.grp && q.parts.any (fun p => self.getLsbD p.1)
      | _ => false) || (s.groupAt r).oplog.any (fun e => !e.req.untagged && e.active &&& self != 0))

/-- The instruction is held back by a hazard (R201, R202, R112), a full scoreboard bank (R201), a full window area (R332), a bank image under load (R281), an access of a DET region whose tag check is unanswered (R414). -/
def State.hazard (s : State) (r : SplitRef) (i : Instr) : Bool :=
  let g := s.groupAt r
  let self := (g.split r.split).mask
  let u := usesOf i
  let act := g.active self u.mask
  let named := u.writes ++ u.reads
  s.imageHolds r i || g.pends.any (fun p => named.contains p.reg && p.blocks self act) ||
    (crossThreads g self i).any (fun x => g.elsewhere r.split x.2 && g.pends.any (fun p => p.reg = x.1 && (p.mask &&& ~~~p.disc).getLsbD x.2)) ||
    (decide (0 < u.adds) && decide (24 < (g.pends.filter (fun p => p.mask &&& self != 0)).length + u.adds)) ||
    (decide (0 < u.adds) && longLatency u.op && decide (0 < u.la) && decide (32 < (g.pends.filter (fun p => p.windowed)).length + u.adds)) ||
    s.unchecked r self

/-- A hazard of the instruction is a result that waits for a window of threads of another split (R73, R112, R202). -/
def State.windowHolds (s : State) (r : SplitRef) (i : Instr) : Bool :=
  let g := s.groupAt r
  let self := (g.split r.split).mask
  let u := usesOf i
  g.pends.any (fun p => (u.writes ++ u.reads ++ (crossThreads g self i).map (fun x => x.1)).contains p.reg &&
    (threadsOf (p.mask &&& ~~~p.disc)).any (fun t => p.openFor t && !self.getLsbD (if 192 ≤ p.reg then p.winThread else t)))

/-! ### Room in the structures of issued work (R113, R295, R341, R348) -/

/-- Range-lock entries of the ranges of an operation. -/
def State.entriesOf (s : State) (op : EngineOp) (rs : List RangeUse) : Nat :=
  (rs.flatMap (s.lockEntries 0 0 op.core (s.launch op.launch).region.djid)).length

/-- The operation queue or the range-lock table of a cluster cannot take what an engine command registers. One that traps registers nothing. -/
def State.planFull (s : State) (k : Nat) (plan : Except TrapReq (EngineOp × List RangeUse)) : Bool :=
  match plan with
  | .error _ => false
  | .ok (op, rs) => decide (32 ≤ (s.cluster k).ops.length) || decide (64 < (s.cluster k).locks.length + s.entriesOf op rs)

/-- A full structure of work already issued cannot accept the instruction: the array order of its core, of both cores for a paired one; the operation queue; the range-lock table. A matrix instruction that parks behind a paired one waits in state 5 instead (R113, R200, R208, R295, R348). -/
def State.noRoom (s : State) (r : SplitRef) (i : Instr) : Bool :=
  let g := s.groupAt r
  let self := (g.split r.split).mask
  let k := clusterOf g.core
  let live := self &&& g.live != 0
  let order := fun (f : RegForm) =>
    let paired := s.drivesPair r.team g f
    if paired then !(s.core g.core).orderRoom || !(s.core (g.core + 1)).orderRoom
    else !s.pairBlocks r.team g.core && !(s.core g.core).orderRoom
  let alone := !s.pairBlocks r.team g.core && !(s.core g.core).orderRoom
  let locks := decide (64 ≤ (s.cluster k).locks.length)
  let op := fun (kind : EngineKind) => newOp kind s r.team r.grp r.split g.core 0 0
  match i with
  | .mma f => order f || (f.mod.getLsbD 0 && locks)
  | .mmas f => order f || (f.mod.getLsbD 0 && locks)
  | .mzero f => order f
  | .mlda f => order f
  | .mdrain f => live && (order f || (drainMode f.mod.toNat = 1 && locks))
  | .marm _ => live && alone
  | .mwait _ => alone
  | .msel24 _ => alone
  | .cpy f => live && s.planFull k (s.cpyPlan (op .cpy) (commandWord g self f.a) (AMap.find (s.cluster k).recipes f.fs.toNat) g.readF self none)
  | .gath f => live && s.planFull k (s.listPlan false (op .gath) (commandWord g self f.a) (g.readOpnd self f.b 0) (g.readOpnd self f.c 0) (listSize f) self none)
  | .scat f => live && s.planFull k (s.listPlan true (op .scat) (commandWord g self f.a) (g.readOpnd self f.b 0) (g.readOpnd self f.c 0) (listSize f) self none)
  | .rget f => live && s.planFull k (s.bulkPlan false (op .rget) (commandWord g self f.a) self none)
  | .rput f => live && s.planFull k (s.bulkPlan true (op .rput) (commandWord g self f.a) self none)
  | _ => false

/-! ### Classes and pairs (R111, R112, R14, R114) -/

/-- Execution class of an opcode for co-issue: 0 is never co-issued (R111). -/
def issueClass (op : Nat) : Nat :=
  if (1 ≤ op && op ≤ 0x0C) || (0x10 ≤ op && op ≤ 0x3E) then 1
  else if (0x40 ≤ op && op ≤ 0x55) || (0x57 ≤ op && op ≤ 0x5B) then 2
  else if (0x70 ≤ op && op ≤ 0x7B) || (0x90 ≤ op && op ≤ 0x92) || op = 0x98 || op = 0x99 then 3
  else if 0x60 ≤ op && op ≤ 0x6A then 4
  else 0

/-- Shared registers an instruction names: g and k fields, mask registers as 240 + k, format slots as 1000 + n. -/
def sharedOf (i : Instr) (xs : List Nat) : List Nat :=
  let u := usesOf i
  xs.filter (fun r => decide (192 ≤ r)) ++ (if u.mask.k.val = 0 then [] else [240 + u.mask.k.val])

/-- Format slots that an instruction's own fields read, the second slot of FCVT, FDOT, FSUM and FBSCL among them, and the one it writes (R14, R190). -/
def slotsOf (i : Instr) : List Nat × List Nat :=
  match viewOf i with
  | .fmt op f =>
    (if op = 0x51 || op = 0x52 || op = 0x53 || op = 0x57 then [f.slot.toNat, fmtLit f % 16] else [f.slot.toNat], [])
  | .mem op f => if op = 0x72 || op = 0x73 || op = 0x76 || op = 0x77 || op = 0x92 then ([f.fs.toNat], []) else ([], [])
  | .reg op f =>
    if op = 0x5A then ([], [f.fs.toNat]) else if op = 0x5B || op = 0x61 || op = 0xAE || op = 0xB6 then ([f.fs.toNat], [])
    else if op = 0xB4 && drainMode f.mod.toNat = 0 then ([drainSlot f.mod.toNat], []) else ([], [])
  | _ => ([], [])

/-- Format slots an instruction reads and the ones it writes: those of its fields, of the tile descriptors of an MMA, of the cells of a CPY's recipe (R14, R290, R353). -/
def State.slotsAt (s : State) (r : SplitRef) (i : Instr) : List Nat × List Nat :=
  let g := s.groupAt r
  let descs := fun (f : RegForm) =>
    let ops := mmaOperands f g (g.split r.split).mask
    ([descSlot ops.1, descSlot ops.2.1], [])
  match i with
  | .mma f => descs f
  | .mmas f => descs f
  | .cpy f => (((s.recipeOf g.core f).filter (fun c => [0, 3, 6, 7].contains (cellKind c))).map cellSlot, [])
  | _ => slotsOf i

/-- The instruction reads or writes a trap register (R114). -/
def usesTrapRegs (i : Instr) : Bool :=
  match i with
  | .srd f => srTrap (fieldOf f.b)
  | .swr f => srTrap (fieldOf f.b)
  | _ => false

/-- One of two instructions writes a g-register, a k-register or a format slot that the other reads or writes (R14). -/
def sharedClash (a b : Instr) : Bool :=
  let ua := usesOf a
  let ub := usesOf b
  let wa := (ua.writes.filter (fun r => decide (192 ≤ r))) ++ (slotsOf a).2.map (1000 + ·)
  let wb := (ub.writes.filter (fun r => decide (192 ≤ r))) ++ (slotsOf b).2.map (1000 + ·)
  let na := sharedOf a (ua.writes ++ ua.reads) ++ ((slotsOf a).1 ++ (slotsOf a).2).map (1000 + ·)
  let nb := sharedOf b (ub.writes ++ ub.reads) ++ ((slotsOf b).1 ++ (slotsOf b).2).map (1000 + ·)
  wa.any nb.contains || wb.any na.contains

/-- One of two splits' instructions writes a format slot that the other's reads or writes (R192). -/
def State.slotClash (s : State) (p q : SplitRef) (a b : Instr) : Bool :=
  let x := s.slotsAt p a
  let y := s.slotsAt q b
  x.2.any (y.1 ++ y.2).contains || y.2.any (x.1 ++ x.2).contains

/-- Two instructions are of one class that is co-issued (R111). -/
def sameClass (a b : Instr) : Bool := issueClass (usesOf a).op != 0 && issueClass (usesOf a).op = issueClass (usesOf b).op

/-- Two instructions of splits `lo` and `hi` of one group may issue in one cycle (R14, R111, R112, R114). -/
def mayPair (g : Group) (lo hi : Nat) (a b : Instr) : Bool :=
  let self := (g.split hi).mask
  sameClass a b && !sharedClash a b &&
    !((crossThreads g self b).any (fun x => !self.getLsbD x.2) && (usesOf a).writes.any (usesOf b).reads.contains) &&
    !(((g.split lo).handler && usesTrapRegs b) || ((g.split hi).handler && usesTrapRegs a))

/-! ### Readiness (R200, R328) -/

/-- The split may issue: in state 1 or 6, with no deferred trap waiting, and not stopped for a pre-emption. -/
def Group.issuable (g : Group) (i : Nat) : Bool :=
  let sp := g.split i
  (sp.st = 1 || sp.st = 6) && !sp.halted && !(g.deferred.any (fun d => d.split = i))

/-- The group has issued all the instructions it may issue before a save (R328). -/
def State.exhausted (s : State) (r : SplitRef) : Bool := (s.team r.team).preempt && decide (2048 ≤ (s.groupAt r).preCount)

/-- The core has selected a matrix instruction in this cycle already (R295). -/
def State.matrixTaken (s : State) (core : Nat) (i : Instr) : Bool :=
  let op := (usesOf i).op
  decide (0xB0 ≤ op) && decide (op ≤ 0xB7) && (s.core core).matrixAt = s.ctl.clk + 1

/-- The split is ready: fetched and decoded, held by no hazard, its class able to accept it, and not found in this cycle to wait for something else. A split that cannot fetch or decode is ready to trap (R200). -/
def State.isReady (s : State) (r : SplitRef) : Bool :=
  (s.groupAt r).issuable r.split && !s.exhausted r && !s.tried.contains r &&
    (match s.upcoming r with | some i => !s.hazard r i && !s.matrixTaken (s.groupAt r).core i && !s.noRoom r i | none => true)

/-- A team of a COOP launch does not issue while one of its launch still waits to be restored (R331, R406). -/
def State.heldBack (s : State) (t : Team) : Bool :=
  t.restoring || ((s.launch t.launch).lrec.coop && s.teams.any (fun x => x.2.launch = t.launch && x.2.restoring))

/-- Groups resident on a core and bound to a slot that may issue, as (residency number, team, group), ascending. -/
def State.slotGroups (s : State) (core slot : Nat) : List (Nat × Nat × Nat) :=
  (List.range 8).flatMap (fun j => s.teams.flatMap (fun t =>
    if t.2.saved.isSome || s.heldBack t.2 then []
    else t.2.groups.filterMap (fun g =>
      if g.2.core = core && g.2.resid = slot + 4 * j && !g.2.stopped && !g.2.retired then some (g.2.resid, t.1, g.1) else none)))

/-- A split stops for a pending pre-emption at a listed address (R328). -/
def Group.haltSplits (g : Group) (l : Launch) : Group :=
  { g with splits := g.splits.map (fun sp =>
      if (sp.st = 1 || sp.st = 2 || sp.st = 6) && (sp.handler || (l.sideAt sp.pc).isSome) then { sp with halted := true } else sp) }

/-- A split in state 2 goes back to state 1 or 6 to be looked at again, whether a hazard or its meaning held it (R200, R201; log 2). -/
def Split.again (sp : Split) : Split :=
  if sp.st = 2 && (sp.wait = .none || sp.wait = .held) then { sp with st := sp.ready, wait := .none } else sp

/-- A split in state 1 whose instruction a hazard holds is in state 2 (R200). -/
def State.checkHazard (s : State) (r : SplitRef) : State :=
  let sp := s.splitAt r
  if sp.st = 1 && !sp.halted then
    match s.upcoming r with
    | some i => if s.hazard r i then s.setSplitAt r { sp with st := 2 } else s
    | none => s
  else s

/-- Look at the hazards of every split of a group. -/
def State.checkHazards (s : State) (team grp : Nat) : State :=
  (List.range 8).foldl (fun (acc : State) i => acc.checkHazard ⟨team, grp, i⟩) s

/-- Before selection the splits of a group are looked at again, the runnable ones fuse, and those at a listed address stop (R104, R200, R328). -/
def State.prepare (s : State) (team grp : Nat) : State :=
  let g := s.group team grp
  let s1 := (s.setGroup team grp { g with splits := g.splits.map Split.again }).checkHazards team grp
  let g1 := (s1.group team grp).fuseRunnable 40
  let g2 := if (s.team team).preempt then g1.haltSplits (s.launchOf team) else g1
  (s1.setGroup team grp g2).checkHazards team grp

/-! ### Policies (R203 to R206) -/

/-- Ready splits of a group. -/
def State.readySplits (s : State) (team grp : Nat) : List Nat :=
  (List.range 8).filter (fun i => s.isReady ⟨team, grp, i⟩)

/-- A list from its first element after `k`, wrapping. -/
def wrapAfter (k : Nat) (xs : List Nat) : List Nat := xs.filter (fun x => k < x) ++ xs.filter (fun x => x ≤ k)

/-- The urgent ready split with the highest count, ties to the lower residency number and entry (R206). -/
def urgentPick (s : State) (cands : List (Nat × Nat × List Nat)) : Option SplitRef :=
  let all := cands.flatMap (fun c => (c.2.2.filter (fun i => ((s.group c.1 c.2.1).split i).urgent)).map (fun i => (⟨c.1, c.2.1, i⟩ : SplitRef)))
  all.foldl (fun (best : Option SplitRef) r =>
    match best with
    | none => some r
    | some b => if (s.splitAt b).waitCnt < (s.splitAt r).waitCnt then some r else some b) none

/-- Greedy-then-oldest: the group that issued in the last cycle unless it yielded, else the oldest; of it the split that issued then, else its lowest (R204, R335). -/
def gtoPick (s : State) (core slot : Nat) (cands : List (Nat × Nat × List Nat)) : Option SplitRef :=
  let c := s.core core
  let last := AMap.find c.last slot
  let of := fun (team grp : Nat) => cands.find? (fun (x : Nat × Nat × List Nat) => x.1 = team && x.2.1 = grp)
  let greedy := last.bind (fun p => if p.claim then of p.team p.grp else none)
  let oldest := (((AMap.find c.ages slot).getD []).findSome? (fun (a : Nat × Nat) => of a.1 a.2)).orElse (fun _ => cands.head?)
  (greedy.orElse (fun _ => oldest)).map (fun x =>
    match last with
    | some p => ⟨x.1, x.2.1, if p.team = x.1 && p.grp = x.2.1 && x.2.2.contains p.split then p.split else x.2.2.headD 0⟩
    | none => ⟨x.1, x.2.1, x.2.2.headD 0⟩)

/-- Round-robin (R205, R334). -/
def rrPick (s : State) (core slot : Nat) (cands : List (Nat × Nat × List Nat)) : Option SplitRef :=
  let p := (AMap.find (s.core core).ptr slot).getD 31
  let resid := fun (x : Nat × Nat × List Nat) => (s.group x.1 x.2.1).resid
  match cands.filter (fun x => p < resid x) ++ cands.filter (fun x => resid x ≤ p) with
  | [] => none
  | x :: _ => some ⟨x.1, x.2.1, (wrapAfter (s.group x.1 x.2.1).lastSplit x.2.2).headD 0⟩

/-- The lowest other split of a list whose instruction satisfies `p` beside the one of split `r`; `p` takes the lower entry, the higher, and their instructions. -/
def State.beside (s : State) (r : SplitRef) (ready : List Nat) (p : Nat → Nat → Instr → Instr → Bool) : Option Nat :=
  match s.upcoming r with
  | none => none
  | some a => ready.find? (fun j => j != r.split &&
      (match s.upcoming ⟨r.team, r.grp, j⟩ with
       | some b => if r.split < j then p r.split j a b else p j r.split b a
       | none => false))

/-- R14 keeps two splits' instructions from issuing in one cycle though R203 would look at the pair, or R192 names the two (log 97). -/
def State.apart (s : State) (r : SplitRef) (lo : Nat) (hi : Nat) (a b : Instr) : Bool :=
  (sameClass a b && sharedClash a b) || s.slotClash { r with split := lo } { r with split := hi } a b

/-- The lowest other ready split that must not issue in the cycle of split `r`. -/
def State.clashing (s : State) (r : SplitRef) (ready : List Nat) : Option Nat := s.beside r ready (s.apart r)

/-- Of the ready splits that must not issue in one cycle, the lower goes first: from a split down to the first that has no lower one to let pass, with the one that then goes next (R14, R192). -/
def State.lowest (s : State) (r : SplitRef) (ready : List Nat) (next : Option SplitRef) (fuel : Nat) : SplitRef × Option SplitRef :=
  match fuel with
  | 0 => (r, next)
  | n + 1 =>
    match s.clashing r (ready.filter (fun j => decide (j < r.split))) with
    | some j => s.lowest { r with split := j } ready (some r) n
    | none => (r, next.orElse (fun _ => (s.clashing r ready).map (fun j => { r with split := j })))

/-- The second instruction of the cycle: the lowest other ready split of the group whose instruction may pair and lets no lower one pass (R14, R192, R203, R111). -/
def State.partner (s : State) (r : SplitRef) (ready : List Nat) : Option Nat :=
  s.beside r (ready.filter (fun j => (s.clashing { r with split := j } (ready.filter (fun x => decide (x < j) && x != r.split))).isNone)) (mayPair (s.groupAt r))

/-- A ready split was not selected in a cycle; at 192 it becomes urgent (R206). -/
def State.countWait (s : State) (r : SplitRef) : State :=
  let sp := s.splitAt r
  if sp.st = 0 then s else s.setSplitAt r { sp with waitCnt := sp.waitCnt + 1, urgent := sp.urgent || decide (192 ≤ sp.waitCnt + 1) }

/-- What the slot selected in its last turn has issued: the waits of the others count, the pointer and the entry that issued last move, and the greedy claim is its group's (R204 to R206, R335). A slot that issued nothing leaves no claim. -/
def State.settlePick (s : State) (core slot : Nat) : State :=
  let c := s.core core
  let none_ := s.setCore core { c with pick := AMap.erase c.pick slot, last := AMap.erase c.last slot, next := AMap.erase c.next slot }
  match AMap.find c.pick slot with
  | none => none_
  | some p =>
    match p.chosen.find? (fun r => !p.missed.contains r) with
    | none => none_
    | some r =>
      let s1 := s.setCore core { c with
        pick := AMap.erase c.pick slot, last := AMap.put c.last slot ⟨r.team, r.grp, r.split, p.resid, !p.yielded⟩
        ptr := AMap.put c.ptr slot p.resid
        next := match p.next with | some q => AMap.put c.next slot q | none => AMap.erase c.next slot }
      let s2 := match AMap.find (s1.team r.team).groups r.grp with
        | some g => s1.setGroup r.team r.grp { g with lastSplit := r.split }
        | none => s1
      p.passed.foldl State.countWait s2

/-- The execution resource of a split's next instruction: that of its class, and outside the classes of R111 one for each block of sixteen opcodes (R206; log 97). -/
def resourceOf (i : Instr) : Nat :=
  let op := (usesOf i).op
  if issueClass op = 0 then 16 + op / 16 else issueClass op

/-- The resources that the urgent splits of the slot reserve until they issue. One that a full structure holds back, or a result that waits for another split's instructions, reserves none: the work it waits for must go on (R113, R206; log 97). -/
def State.reserved (s : State) (groups : List (Nat × Nat × Nat)) : List Nat :=
  groups.flatMap (fun x => (List.range 8).filterMap (fun i =>
    let r : SplitRef := ⟨x.2.1, x.2.2, i⟩
    let sp := s.splitAt r
    if sp.urgent && !sp.halted && (sp.st = 1 || sp.st = 2 || sp.st = 6) then
      (s.upcoming r).bind (fun w => if s.noRoom r w || s.windowHolds r w then none else some (resourceOf w))
    else none))

/-- The resource of a split's next instruction is reserved. -/
def State.kept (s : State) (kept : List Nat) (r : SplitRef) : Bool :=
  match s.upcoming r with
  | some i => kept.contains (resourceOf i)
  | none => false

/-- The ready splits of each group of a slot: none that an urgent split's reservation keeps out (R200, R206). -/
def State.candidates (s : State) (groups : List (Nat × Nat × Nat)) : List (Nat × Nat × List Nat) :=
  let kept := s.reserved groups
  (groups.map (fun x => (x.2.1, x.2.2, (s.readySplits x.2.1 x.2.2).filter (fun i =>
    (s.splitAt ⟨x.2.1, x.2.2, i⟩).urgent || !s.kept kept ⟨x.2.1, x.2.2, i⟩)))).filter (fun x => !x.2.2.isEmpty)

/-- The ready splits of a split's group among the candidates. -/
def readyBeside (cands : List (Nat × Nat × List Nat)) (r : SplitRef) : List Nat :=
  match cands.find? (fun x => x.1 = r.team && x.2.1 = r.grp) with
  | some x => x.2.2
  | none => []

/-- The split that the slot's last cycle put off, if it is ready (R14). -/
def State.putOff (s : State) (core slot : Nat) (cands : List (Nat × Nat × List Nat)) : Option SplitRef :=
  match AMap.find (s.core core).next slot with
  | some r => if (readyBeside cands r).contains r.split then some r else none
  | none => none

/-- What a slot selects first, and the split it puts off to its next cycle: an urgent split, else the one that its last cycle put off, else the policy's; of two that must not issue in one cycle the lower (R14, R192, R203 to R206). -/
def State.choose (s : State) (core slot : Nat) (cands : List (Nat × Nat × List Nat)) : Option (SplitRef × Option SplitRef) :=
  let put := s.putOff core slot cands
  let down := fun (r : SplitRef) => s.lowest r (readyBeside cands r) none 8
  match urgentPick s cands, put with
  | some r, _ =>
    let d := down r
    some (d.1, d.2.orElse (fun _ => put.filter (fun q => q != d.1)))
  | none, some r => some (r, (s.clashing r (readyBeside cands r)).map (fun j => { r with split := j }))
  | none, none => (if (s.core core).rr then rrPick s core slot cands else gtoPick s core slot cands).map down

/-- The next instruction of a split is a matrix instruction. -/
def State.matrixNext (s : State) (r : SplitRef) : Bool :=
  match s.upcoming r with
  | some i => decide (0xB0 ≤ (usesOf i).op) && decide ((usesOf i).op ≤ 0xB7)
  | none => false

/-- Queue what a slot has selected: the first instruction, and its partner; of two the lower entry goes first (R111, R203). -/
def State.select (s : State) (core slot : Nat) (cands : List (Nat × Nat × List Nat)) (r : SplitRef) (next : Option SplitRef) : State :=
  let c := s.core core
  let g := s.groupAt r
  let mate := s.partner r (readyBeside cands r)
  let queued := match mate with
    | some j => if j < r.split then [{ r with split := j }, r] else [r, { r with split := j }]
    | none => [r]
  let passed := (cands.flatMap (fun x => x.2.2.map (fun i => (⟨x.1, x.2.1, i⟩ : SplitRef)))).filter (fun q => !queued.contains q)
  let s1 := s.setCore core { c with
    matrixAt := if s.matrixNext r then s.ctl.clk + 1 else c.matrixAt
    pick := AMap.put c.pick slot { chosen := r :: (mate.map (fun j => { r with split := j })).toList, resid := g.resid, passed := passed, next := next } }
  { s1 with issueQ := s1.issueQ ++ queued, mates := s1.mates ++ (queued.drop 1).map (fun q => ⟨q, g.trap, g.trapAddr⟩) }

/-- A slot has its turn: in the cycle that runs if it follows the slots that have had theirs, else in the next (R275, R348; log 2). -/
def State.turnOf (s : State) (core slot : Nat) : State :=
  let k := 4 * core + slot + 1
  { (if k ≤ s.slotAt then s.newCycle else s) with slotAt := k }

/-- Nothing that the slot selected in this turn has issued: it selects again (R200). -/
def State.selectsAgain (s : State) (core slot : Nat) : Bool :=
  s.slotAt = 4 * core + slot && (match AMap.find (s.core core).pick slot with | some p => p.void | none => false)

/-- SLOT_SELECT: one cycle of one slot chooses what issues (R203 to R206). -/
def execSlotSelect (core slot : Nat) (s : State) : Outcome State Fault Refusal :=
  let s0 := s.turnOf core slot
  let groups := s0.slotGroups core slot
  let s1 := if s.selectsAgain core slot then s0
    else groups.foldl (fun (acc : State) x => acc.prepare x.2.1 x.2.2) (s0.settlePick core slot)
  let cands := s1.candidates groups
  match s1.choose core slot cands with
  | none => .next (s1.setCore core { s1.core core with pick := AMap.erase (s1.core core).pick slot })
  | some (r, next) => .next (s1.select core slot cands r next)

/-- SPLIT_URGENT (R206). -/
def execSplitUrgent (r : SplitRef) (s : State) : Outcome State Fault Refusal :=
  let sp := s.splitAt r
  if 192 ≤ sp.waitCnt then .next (s.setSplitAt r { sp with urgent := true }) else .next s

end Sys2Proof.Machine
end

