-- ==== Sys2Proof/Machine/Preempt.lean ====
section
/-! DEFINITION. Pre-emption: the choice of victims, stopping, saving, discarding and restoring teams, and the dispatch of new ones (R117, R283, R311, R327 to R331, R361, R406, R436, R437). -/

namespace Sys2Proof.Machine

open Host

/-! ### Dispatch (R406, R407, R436) -/

/-- A saved team of the die waits to be restored, at the priority or above (R436). -/
def State.restoreWaits (s : State) (d prio : Nat) : Bool :=
  s.teams.any (fun t => t.2.saved.isSome && dieOf t.2.core = d && (s.launch t.2.launch).ended.isNone && decide (prio ≤ (s.launch t.2.launch).prio))

/-- Place the teams of a list of (die, linear) in turn; `none` when one has no core (R406). -/
def State.placeAll (s : State) (id : Nat) (xs : List (Nat × Nat)) : Option State :=
  match xs with
  | [] => some s
  | x :: rest =>
    match s.coreFor (s.launch id) x.1 with
    | none => none
    | some c => ((s.place id x.2 c).setLaunch id (((s.place id x.2 c).launch id).took x.1 x.2)).placeAll id rest

/-- Every team of a launch, with the die that owns it. -/
def Launch.allTeams (l : Launch) : List (Nat × Nat) :=
  (List.range 8).flatMap (fun d => (List.range ((l.share d).hi - (l.share d).lo)).map (fun i => (d, (l.share d).lo + i)))

/-- The package runs launches (R457). -/
def State.running (s : State) : Bool := s.ctl.service = 2 || s.ctl.service = 3

/-! ### Restore (R283, R311, R331, R406) -/

/-- A saved team's groups as they resume: replies that came are in their registers, and no split is stopped (R117, R330). -/
def Group.resume (g : Group) : Group :=
  let r := g.settleAll (g.pends.map (fun (p : Pend) => if p.src = .ready then { p with arrived := true } else p))
  { r.1 with pends := r.2, preCount := 0, forced := false, splits := g.splits.map (fun sp => { sp with halted := false, waitCnt := 0, urgent := false }), lastSplit := 7 }

/-- No reply is awaited by a saved team's groups (R331). -/
def Team.replied (t : Team) : Bool := t.groups.all (fun g => g.2.replies.isEmpty)

/-- Enter an abandoned stream again, at the end of its core's order; `none` where an order or the range-lock table has no room (R295, R311). -/
def State.requeue (s : State) (c : Nat) (o : MatrixOp) : Option State :=
  let x := s.core c
  if !x.orderRoom || (o.paired && !(s.core (c + 1)).orderRoom) then none else
  let lo := o.spans.1.foldl (fun n y => min n y.1) (2 ^ 64)
  let hi := o.spans.1.foldl (fun n y => max n (y.1 + y.2)) 0
  match (if o.lock.isSome then (s.lockRange c (s.launchOf o.team).region.djid lo hi o.spans.2).map (fun r => (r.1, some r.2)) else some (s, none)) with
  | none => none
  | some (s1, k) =>
    let full := { o with id := x.nextOp, waits := [], lock := k }
    let s2 := s1.setCore c { s1.core c with order := (s1.core c).order ++ [full] }
    some (if o.paired then s2.setCore (c + 1) { s2.core (c + 1) with order := (s2.core (c + 1)).order ++ [{ full with copy := true }] } else s2)

/-- Enter every abandoned stream of a team again. -/
def State.requeueAll (s : State) (c : Nat) (xs : List (Nat × MatrixOp)) : Option State :=
  match xs with
  | [] => some s
  | x :: rest => (s.requeue (c + x.1) x.2).bind (fun s1 => s1.requeueAll c rest)

/-- The backing addresses of the bound planes of a team's saved banks, with side, bank and plane. -/
def Team.boundPlanes (t : Team) : List (Nat × Nat × Bool × Word) :=
  t.savedBanks.flatMap (fun b => [false, true].filterMap (fun i =>
    if (b.2.plane i).bound then some (b.1 / 8, b.1 % 8, i, (b.2.plane i).back) else none))

/-- Make a saved team resident at a core; `none` when its streams find no room. Its banks come from the image only where the core holds no team of its launch (R283, R331). -/
def State.restoreAt (s : State) (team c : Nat) : Option State :=
  let t := s.team team
  let held := (s.teamsOn c).any (fun x => x.2.launch = t.launch)
  let t1 : Team := { t with
    saved := none, preempt := false, savedTiles := [], savedOps := [], sp := t.sp.filter (fun e => decide (e.1 % 2 ^ 32 < t.spBytes))
    savedBanks := if held then [] else t.savedBanks.filter (fun b => b.2.p0.bound || b.2.p1.bound)
    restoring := !held && !t.boundPlanes.isEmpty }
  let s1 := s.seat team t1 c (t.groups.map (fun g => (g.1, g.2.resume))) t.savedTiles
  let s2 := if held then s1 else t.savedBanks.foldl (fun (acc : State) b => (acc.setCore (c + b.1 / 8) ((acc.core (c + b.1 / 8)).setBank (b.1 % 8) b.2)).freshBank (c + b.1 / 8) (b.1 % 8)) s1
  s2.requeueAll c t.savedOps

/-- Write a reloaded plane's entries; without words the plane holds no valid entry. -/
def State.loadPlane (s : State) (c bank : Nat) (i : Bool) (ws : Option Nat) : State :=
  let x := s.core c
  let b := x.bank bank
  let p := b.plane i
  let q : Plane := match ws with
    | some n => { p with entries := (List.range 256).foldl (fun (m : AMap Word) j => AMap.set m j (wd (bitsOf n (64 * j + 63) (64 * j))) 0) [] }
    | none => { p with entries := [], valid := 0 }
  (s.setCore c (x.setBank bank (b.setPlane i q))).misread (fun p => match p with | .book a n side _ => a = c && n = bank && side = i | _ => false)

/-- Reload the bound planes of a restored team: pages that need the pager are requested, and the team waits for them; its logged instructions are replayed after the reload (R283). -/
def State.reload (s : State) (team : Nat) : State :=
  let t := s.team team
  let r := (s.launchOf team).region
  let x := s.xctx team t.core
  let asked := (s.die (dieOf t.core)).requests.any (fun q => q.waiters.contains (.restore team))
  let bytes := t.boundPlanes.flatMap (fun p => (List.range 2048).map (fun i => (0, p.2.2.2.toNat + i)))
  let m := s.xlateChunks x .read (chunksOf (bytes.map (fun b => b.2)))
  let scan := scanPages m false bytes
  if asked then s
  else if !scan.needs.isEmpty then
    (s.requestPages (dieOf t.core) r.djid r { launch := (s.launchOf team).id, engine := true } (.restore team) scan.needs).1
  else
    let s1 := t.boundPlanes.foldl (fun (acc : State) p =>
      (acc.touchHost x p.2.2.2.toNat 2048).loadPlane (t.core + p.1) p.2.1 p.2.2.1 ((acc.readVa x p.2.2.2.toNat 2048).map leNat)) s
    (s1.setTeam team { s1.team team with restoring := false, savedBanks := [] }).replayAll

/-- Saved teams of a COOP launch, and its discarded ones, come back together, each to its die and cluster (R406). -/
def State.coopRestore (s : State) (id : Nat) (saved : List Nat) : Option State :=
  match saved with
  | [] =>
    (s.launch id).redo.foldl (fun (acc : Option State) x => acc.bind (fun a =>
      let l := a.launch id
      let old := AMap.get l.places x.2 0
      (((List.range 8).map (fun i => clusterOf old * 8 + i)).find? (a.canTake l)).map (fun c =>
        (a.place id x.2 c).setLaunch id (((a.place id x.2 c).launch id).took x.1 x.2)))) (some s)
  | team :: rest =>
    let l := s.launch id
    match ((List.range 8).map (fun i => clusterOf (s.team team).core * 8 + i)).find? (s.canTake l) with
    | none => none
    | some c => (s.restoreAt team c).bind (fun s1 => s1.coopRestore id rest)

/-- Saved teams of a launch. -/
def State.savedTeams (s : State) (id : Nat) : List Nat := (s.teams.filter (fun t => t.2.launch = id && t.2.saved.isSome)).map (fun t => t.1)

/-- Bring a COOP launch back, once every one of its teams is saved or discarded and no reply is awaited (R406). -/
def State.tryCoop (s : State) (id : Nat) : Option State :=
  if (s.launchTeams id).all (fun t => t.2.saved.isSome && t.2.replied) then s.coopRestore id (s.savedTeams id) else none

/-- Place one team of a launch on a die, or every team of a COOP launch at once; on no die before its saved teams of that priority or above are restored (R406, R436). -/
def State.tryPlace (s : State) (l : Launch) (d : Nat) : Option State :=
  if !s.detMayStart l || s.releaseHeld l.producers || s.restoreWaits d l.prio || (l.lrec.coop && (List.range 8).any (fun e => s.restoreWaits e l.prio)) then none
  else if l.lrec.coop then
    if !l.redo.isEmpty then s.tryCoop l.id else if l.started then none else s.placeAll l.id l.allTeams
  else
    match l.nextOn d with
    | none => none
    | some n => (s.coreFor l d).map (fun c => (s.place l.id n c).setLaunch l.id (((s.place l.id n c).launch l.id).took d n))

/-- TEAM_PLACE: a die's dispatcher places one team, of the first launch in order that has one it can place (R436). -/
def execTeamPlace (die : Nat) (s : State) : Outcome State Fault Refusal :=
  if !s.running || 8 ≤ die then .next s
  else .next ((s.launchOrder.findSome? (fun l => s.tryPlace l die)).getD s)

/-- The launch has a team that waits for a core of the die (R437). -/
def State.waitsOn (s : State) (l : Launch) (d : Nat) : Bool :=
  s.detMayStart l && !s.restoreWaits d l.prio &&
    (if l.lrec.coop then
        if l.redo.isEmpty then !l.started && (s.placeAll l.id (l.allTeams.filter (fun x => x.1 = d))).isNone
        else l.redo.any (fun x => x.1 = d) && (s.launchTeams l.id).all (fun t => t.2.saved.isSome) && (s.tryCoop l.id).isNone
     else (l.nextOn d).isSome && (s.coreFor l d).isNone && ((List.range 512).any (fun i => s.budgetsAllow l (d * 512 + i))))

/-- The saved team of a die that is restored next: the highest priority, the earliest accepted launch, the lowest team (R436). -/
def State.nextRestore (s : State) (d : Nat) : Option (Nat × Team) :=
  let ts := s.teams.filter (fun t => t.2.saved.isSome && dieOf t.2.core = d && (s.launch t.2.launch).ended.isNone)
  let better := fun (a b : Nat × Team) =>
    let x := s.launch a.2.launch
    let y := s.launch b.2.launch
    decide (y.prio < x.prio) || (x.prio = y.prio && decide (x.order < y.order)) || (x.order = y.order && decide (a.2.linear < b.2.linear))
  ts.foldl (fun (best : Option (Nat × Team)) t => match best with | none => some t | some b => if better t b then some t else some b) none

/-- TEAM_RESTORE: a saved team comes back to the lowest core of its die that can take it, before the die claims a new team of its priority or below; a restored one waits for its bound planes (R331, R436). -/
def execTeamRestore (team core : Nat) (s : State) : Outcome State Fault Refusal :=
  let t := s.team team
  let l := s.launch t.launch
  let d := dieOf t.core
  if !s.running || (AMap.find s.teams team).isNone then .next s
  else if t.saved.isNone then (if t.restoring then .next (s.reload team) else .next s)
  else if (s.nextRestore d).map (fun x => x.1) != some team || s.launchOrder.any (fun x => decide (l.prio < x.prio) && s.waitsOn x d) then .next s
  else if l.lrec.coop then .next (((s.tryCoop t.launch).map State.replayAll).getD s)
  else if !t.replied || s.coreFor l d != some core then .next s
  else .next (((s.restoreAt team core).map State.replayAll).getD s)

/-! ### Choosing a victim (R327, R437) -/

/-- The team is discarded when pre-empted: its launch is idempotent, or every group that has threads left, and at least one has, set IDEM (R327; log 94). -/
def State.discardable (s : State) (t : Team) : Bool :=
  (s.launch t.launch).lrec.idem || (s.launch t.launch).region.idem ||
    (t.groups.all (fun g => g.2.present = 0 || g.2.idem) && t.groups.any (fun g => g.2.present != 0))

/-- A tile of the team is armed (R311). -/
def State.armedTile (s : State) (t : Team) : Bool :=
  (teamCores t.paired t.core).any (fun c => (List.range 4).any (fun i => bitAt (s.launch t.launch).lrec.tmask i && ((s.core c).tile i).armed.isSome))

/-- The region of a team and the size of the image that its save writes; none for a team that is discarded. -/
def State.imageOf (s : State) (t : Team) : Option (Region × Nat) :=
  let l := s.launch t.launch
  if s.discardable t then none else some (l.region, l.lrec.imageSize l.lrec.scratch)

/-- The images that teams already asked to stop have still to write. -/
def State.imagesDue (s : State) : List (Region × Nat) := (s.teams.filter (fun t => t.2.preempt && t.2.saved.isNone)).filterMap (fun t => s.imageOf t.2)

/-- Images can be saved beside those that are due: each finds a place, and no budget is passed (R333, R437). -/
def State.imagesFit (s : State) (xs : List (Region × Nat)) : Bool :=
  let all := s.imagesDue ++ xs
  placesFor (s.images.map (fun x => (x.1, x.2.1))) all &&
    xs.all (fun x => x.1.budgets.all (fun b => b.2.2.2 = 0 ||
      decide (((s.images.filter (fun i => i.2.2.budgets.any (fun y => y.1 = b.1))).map (fun i => i.2.1)).sum +
        ((all.filter (fun i => i.1.budgets.any (fun y => y.1 = b.1))).map (fun i => i.2)).sum ≤ b.2.2.2)))

/-- Nothing defers the pre-emption of a team (R311, R361). -/
def State.takeableTeam (s : State) (t : Team) : Bool :=
  let l := s.launch t.launch
  t.saved.isNone && !t.restoring && l.ended.isNone && !s.armedTile t && (s.discardable t || decide (l.sched.length ≤ t.released.length))

/-- A resident team can be the victim of a waiting team of a priority: it, or every team of its COOP launch, can be taken, and the images fit (R437). -/
def State.victimOk (s : State) (t : Team) (prio : Nat) : Bool :=
  let l := s.launch t.launch
  let all := if l.lrec.coop then (s.launchTeams t.launch).map (fun x => x.2) else [t]
  decide (l.prio < prio) && !t.preempt && all.all s.takeableTeam && s.imagesFit (all.filterMap s.imageOf)

/-- The highest priority at which a team waits for a die's cores. -/
def State.waitingPrio (s : State) (d : Nat) : Option Nat :=
  let saved := (s.nextRestore d).bind (fun x => if (s.coreFor (s.launch x.2.launch) d).isNone then some (s.launch x.2.launch).prio else none)
  match (s.launchOrder.find? (fun l => s.waitsOn l d)).map (fun l => l.prio), saved with
  | some p, some q => some (max p q)
  | some p, none => some p
  | none, q => q

/-- The team of a die that Madder pre-empts now: the lowest priority, the most recently accepted launch, the highest core; one at a time (R437). -/
def State.victim (s : State) (d : Nat) : Option Nat :=
  let here := s.residents.filter (fun t => dieOf t.2.core = d)
  if here.any (fun t => t.2.preempt) then none
  else
    match s.waitingPrio d with
    | none => none
    | some p =>
      let better := fun (a b : Nat × Team) =>
        let x := s.launch a.2.launch
        let y := s.launch b.2.launch
        decide (x.prio < y.prio) || (x.prio = y.prio && decide (y.order < x.order)) || (x.order = y.order && decide (b.2.core < a.2.core))
      (((here.filter (fun t => s.victimOk t.2 p)).foldl (fun (best : Option (Nat × Team)) t =>
        match best with | none => some t | some b => if better t b then some t else some b) none)).map (fun t => t.1)

/-! ### Stopping (R326, R328) -/

/-- Every used split of a group stops where it is. -/
def Group.haltAll (g : Group) : Group := { g with splits := g.splits.map (fun sp => if sp.st = 0 then sp else { sp with halted := true }) }

/-- Ask a team to stop: a discardable one stops at once, another runs forward to listed addresses (R327, R328). -/
def State.askStop (s : State) (team : Nat) : State :=
  let t := s.team team
  let t1 := t.mapGroups (fun g => { (if s.discardable t then g.haltAll else g.haltSplits (s.launch t.launch)) with preCount := 0, forced := false })
  s.setTeam team { t1 with preempt := true }

/-- PREEMPT_REQUEST: Madder pre-empts a team, or every team of a COOP launch (R406, R437). -/
def execPreemptRequest (team : Nat) (s : State) : Outcome State Fault Refusal :=
  let t := s.team team
  if !s.running || s.victim (dieOf t.core) != some team then .next s
  else if (s.launch t.launch).lrec.coop then
    .next ((s.teams.filter (fun x => x.2.launch = t.launch && x.2.saved.isNone)).foldl (fun (acc : State) x => acc.askStop x.1) s)
  else .next (s.askStop team)

/-- A split counts as stopped: it is free, at a stop, parked (a fetch parks it in state 2), or in a handler or before one (R321, R328). -/
def Split.stoppedNow (sp : Split) : Bool :=
  sp.st = 0 || sp.halted || sp.st = 3 || sp.st = 4 || sp.st = 5 || sp.st = 7 || (sp.st = 6 && sp.handler) ||
    (match sp.wait with | .fetch _ => sp.st = 2 | _ => false)

/-- PREEMPT_FORCE_STOP: after 2,048 instructions the group stops where it is and takes a full save (R328). -/
def execPreemptForceStop (team grp : Nat) (s : State) : Outcome State Fault Refusal :=
  let g := s.group team grp
  if !(s.team team).preempt || decide (g.preCount < 2048) || g.forced || g.splits.all Split.stoppedNow then .next s
  else .next (s.setGroup team grp { g.haltAll with forced := true })

/-! ### Saving (R329, R330) -/

/-- The matrix instructions of a team that a save abandons: its stalled streams (R311). One that stands behind such a stream completes first, as every other does. -/
def State.abandoned (s : State) (team : Nat) (t : Team) : List (Nat × MatrixOp) :=
  (teamCores t.paired t.core).zipIdx.flatMap (fun c =>
    ((s.core c.1).order.filter (fun o => o.team = team && !o.copy && o.stalled)).map (fun x => (c.2, x)))

/-- An operation waits for the pager: it stays in its cluster, and starts when its team is resident again (R363; log 100). A pre-emption waits for an RGET or RPUT to complete (R475). -/
def EngineOp.stalled (o : EngineOp) : Bool := !o.started && !o.waits.isEmpty && o.kind != .rget && o.kind != .rput

/-- Every access, matrix instruction and engine command of a team has completed, is logged or has stalled, and every local result is formed (R329, R363). -/
def State.teamQuiet (s : State) (team : Nat) (t : Team) : Bool :=
  let left := s.abandoned team t
  s.stores.all (fun p => p.team != team) && s.tbNow.all (fun u => u.tb.team != team) &&
    s.clusters.all (fun c => c.2.ops.all (fun o => o.team != team || o.stalled)) &&
    s.cores.all (fun c => c.2.loads.all (fun x => x.team != team) &&
      c.2.order.all (fun o => o.team != team || o.copy || left.any (fun x => x.2.inst = o.inst && x.2.grp = o.grp))) &&
    t.groups.all (fun g => g.2.pends.all (fun p => p.src = .ready || p.src = .logged || p.src = .remote || left.any (fun x => x.2.inst = p.inst && x.2.grp = g.1)) &&
      (match g.2.tx with | some x => !x.sent || x.answer.isSome | none => true) && g.2.committing.isNone &&
      g.2.splits.all (fun sp => match sp.wait with | .promo _ => false | _ => true)) && !s.armedTile t

/-- Take the abandoned streams out of their orders. -/
def State.dropStreams (s : State) (c : Nat) (xs : List (Nat × MatrixOp)) : State :=
  xs.foldl (fun (acc : State) x => acc.dropOp (c + x.1) x.2) s

/-- Number the pending writes for the image's tables. -/
def numberPends (i j : Nat) (ps : List Pend) : List Pend :=
  match ps with
  | [] => []
  | p :: rest => { p with entry := i, window := j } :: numberPends (if p.src = .remote then i + 1 else i) (if p.windowed then j + 1 else j) rest

/-- A group as it is frozen: results that are formed are in their registers or held for their windows, its transaction is aborted and its buffer discarded, what its peers have not acknowledged is counted (R255, R329, R330). -/
def State.freeze (s : State) (team : Nat) (g : Group) : Group :=
  let r := g.settleAll (g.pends.map (fun (p : Pend) => if p.src = .ready then { p with arrived := true } else p))
  let g1 : Group := { r.1 with pends := r.2 }
  let g2 : Group := { g1.abortTx 5 0 with tx := (g1.abortTx 5 0).tx.map (fun x => { x with accs := [] }) }
  let acks := (s.outstanding.filter (fun q => s.ofGroup team g.gidx q && q.reg.isNone && q.pkt.op != 0x01)).length
  { g2 with pends := numberPends 0 0 g2.pends, ackcnt := acks }

/-- Private bytes of a team's groups on its cores are written back and leave the L1s, and everything else dirty is written back (R216, R329). -/
def State.flushTeam (s : State) (team : Nat) (t : Team) : State :=
  (teamCores t.paired t.core).foldl (fun (acc : State) c =>
    let mine := fun (b : L1Byte) => match b.priv with | some o => o.1 = team | none => false
    let a1 := (acc.writeBack c (fun _ b => mine b)).releaseL1 c none
    a1.setCore c { a1.core c with l1 := (a1.core c).l1.filter (fun e => !mine e.2) }) s

/-- Save a team at an address: its images are written and its cores are free (R283, R311, R329 to R333). -/
def State.saveTeam (s : State) (team addr : Nat) : State :=
  let t := s.team team
  let l := s.launch t.launch
  let streams := s.abandoned team t
  let s1 := (s.dropStreams t.core streams).flushTeam team t
  let frozen := t.groups.map (fun g => (g.1, s1.freeze team g.2))
  let full := frozen.any (fun g => !g.2.retired && g.2.takesFull l)
  let live := frozen.foldl (fun n g => max n (if g.2.retired then 0 else g.2.spLive l)) 0
  let sp := if full then l.lrec.scratch else min live l.lrec.scratch
  let cores := (teamCores t.paired t.core).zipIdx
  let t1 : Team := { t with
    groups := frozen.map (fun g => (g.1, g.2.reduce (g.2.kept l))), saved := some addr, preempt := false, fullSave := full, spBytes := sp
    savedTiles := cores.flatMap (fun c => ((List.range 4).filter (fun i => bitAt l.lrec.tmask i)).map (fun i => (4 * c.2 + i, (s1.core c.1).tile i)))
    savedBanks := cores.flatMap (fun c => ((List.range 8).filter (fun b => bitAt l.lrec.bmask b)).map (fun b => (8 * c.2 + b, { (s1.core c.1).bank b with before := none })))
    savedOps := streams }
  let s2 := s1.setTeam team t1
  let s3 := s2.writePhys addr (teamImage s2 team t1 l.lrec)
  let base := addr + gimgOff t.paired sp
  let s4 := t1.groups.foldl (fun (acc : State) g =>
    acc.writePhys (base + g.1 * groupImageSize l.lrec.alloc)
      (groupImage s2 team g.2 (((AMap.find frozen g.1).getD g.2).kept l) ((streams.filter (fun x => x.2.grp = g.1)).map (fun x => x.2)))) s3
  t1.groups.foldl (fun (acc : State) g => acc.dropAge g.2.core team g.1) s4

/-- Discard a team: its die runs it again from the entry (R327). -/
def State.discard (s : State) (team : Nat) : State :=
  let t := s.team team
  let l := s.launch t.launch
  let mine := fun (o : ReqOwner) => match o with | .thread x _ _ _ => decide (x = team) | .tx x _ => decide (x = team) | _ => false
  let s1 := (s.dropStreams t.core (s.abandoned team t)).flushTeam team t
  let s2 := t.groups.foldl (fun (acc : State) g => acc.dropAge g.2.core team g.1) s1
  let s3 := { s2 with
    clusters := s2.clusters.map (fun (c : Nat × Cluster) => (c.1, { c.2 with
      ops := c.2.ops.filter (fun o => o.team != team), locks := c.2.locks.filter (fun k => c.2.ops.all (fun o => o.team != team || o.seq != k.seq)) }))
    teams := AMap.erase s2.teams team
    fab := { s2.fab with reqs := s2.fab.reqs.filter (fun r => !mine r.owner), queue := s2.fab.queue.filter (fun r => !mine r.owner)
                         phases := s2.fab.phases.map (fun (p : TreePhase) => if p.team = team && !p.hbar then { p with waiting := false } else p)
                         fails := s2.fab.fails.filter (fun f => f.team != team) } }
  s3.setLaunch t.launch { l with redo := l.redo ++ [(dieOf t.core, t.linear)] }

/-- PREEMPT_SAVE: once every group has stopped and nothing local is outstanding, the team is discarded or saved (R327, R329). -/
def execPreemptSave (team : Nat) (s : State) : Outcome State Fault Refusal :=
  let t := s.team team
  if !t.preempt || t.saved.isSome || !(t.groups.all (fun g => g.2.splits.all Split.stoppedNow)) || !s.teamQuiet team t || s.releaseHeld (teamCores t.paired t.core) then .next s
  else if s.discardable t then .next ((s.discard team).releasesAt (clusterOf t.core))
  else
    let l := s.launch t.launch
    match (if s.hbmAllows l.region (l.lrec.imageSize l.lrec.scratch) then s.imagePlace l.region (l.lrec.imageSize l.lrec.scratch) else none) with
    | some a => .next ((s.saveTeam team a).releasesAt (clusterOf t.core))
    | none => .next s

/-! ### Replies after the freeze (R330) -/

/-- Change one byte of package memory at a physical address. -/
def State.mapPhys (s : State) (pa : Nat) (f : Nat → Nat) : State := s.writePhys pa (leBytes 1 (f ((s.readPhys pa 1).getD 0)))

/-- Write an answered pending reply into its image: data or FAIL, then VALID, then PENDCNT. -/
def State.replyIn (s : State) (base : Nat) (p : Pend) (failed : Bool) : State :=
  let ts := (threadsOf p.mask).filter (fun t => 192 ≤ p.reg || p.mask.getLsbD t)
  let s1 := if failed then s
    else if 192 ≤ p.reg && !p.windowed then s.writePhys (base + p.imgOff) (leBytes 8 (AMap.get p.vals 0 0).toNat)
    else ts.foldl (fun (acc : State) t => acc.writePhys (base + p.imgOff + 8 * t) (leBytes 8 (AMap.get p.vals (if 192 ≤ p.reg then 0 else t) 0).toNat)) s
  let e := base + 0xA00 + 32 * p.entry
  (s1.mapPhys (e + 8) (fun b => b % 32 + b / 64 % 2 * 64 + b / 128 * 128 + (if failed then (if b / 64 % 2 = 1 then 0 else 64) else 0))).mapPhys (base + 9)
    (fun b => b / 128 * 128 + (b % 128 - 1))

/-- What an answer writes into the image of a saved group: the registers it completes, FAIL, or one acknowledgement less (R330). A resident group has no image. -/
def State.toImage (s s1 : State) (team grp inst : Nat) (ack : Bool) : State :=
  match (s.team team).saved with
  | none => s1
  | some addr =>
    let base := addr + gimgOff (s.team team).paired (s.team team).spBytes + grp * groupImageSize (s.launchOf team).lrec.alloc
    let before := (s.group team grp).replies.filter (fun x => x.inst = inst)
    let g := s1.group team grp
    let done := g.pends.filter (fun x => x.inst = inst && x.src = .ready && before.any (fun y => y.id = x.id))
    let failed := g.deferred.any (fun d => d.inst = inst)
    let s2 := if failed then before.foldl (fun (acc : State) x => acc.replyIn base x true) s1 else done.foldl (fun (acc : State) x => acc.replyIn base x false) s1
    if before.isEmpty && ack && decide (0 < g.ackcnt) then
      let s3 := s2.setGroup team grp { s2.group team grp with ackcnt := g.ackcnt - 1 }
      s3.writePhys (base + 28) (leBytes 2 (g.ackcnt - 1))
    else if failed then s2.setGroup team grp ((s2.group team grp).cancel inst)
    else s2

/-- REPLY_TO_IMAGE: a reply for a saved group is written into its image by the endpoint (R330). -/
def execReplyToImage (p : Packet) (s : State) : Outcome State Fault Refusal :=
  if !p.resp || !s.fab.inbox.contains p then .next s
  else
    match s.requestOf p with
    | none => .next s
    | some r =>
      match r.owner with
      | .thread team grp _ inst =>
        if (s.team team).saved.isNone then .next s else .next (s.toImage ((s.consume p).applyAnswer r p) team grp inst r.reg.isNone)
      | _ => .next s

/-- REMOTE_TIMEOUT: a request of a thread, an engine operation or a commit ends with status 7; of a saved group, in its image (R330, R478). A drain and a reduction have timeouts of their own. -/
def execRemoteTimeout (dest cls eseq : Nat) (s : State) : Outcome State Fault Refusal :=
  match s.requestNamed dest cls eseq with
  | some r =>
    let t := s.applyAnswer r (responseTo r.pkt 7 [])
    match r.owner with
    | .drain _ _ => .next s
    | .reduce _ _ _ => .next s
    | .thread team grp _ inst => .next (s.toImage t team grp inst r.reg.isNone)
    | _ => .next t
  | none => .next s

/-- DRED_RESULT: the tree's result is written, or the phase failed; of a saved group, in its image (R330, R486, R487). -/
def execDredResult (launch : Nat) (s : State) : Outcome State Fault Refusal :=
  match s.dredOf launch with
  | none => .next s
  | some p =>
    match p.result with
    | none => .next s
    | some v =>
      let s1 := s.dropPhase p.dbgrp p.phase false
      if v.status != 0 then .next (s.toImage (s1.remFault p.team p.grp p.split p.inst p.pc p.w0 v.status [(lowBit 32 p.active.toNat, 0)] false) p.team p.grp p.inst false)
      else
        let g := s1.group p.team p.grp
        .next (s.toImage (s1.setGroup p.team p.grp { g with pends := g.pends.map (fun (x : Pend) =>
          if x.inst = p.inst && x.src = .remote then
            { x with src := .ready, vals := (v.words.zipIdx).foldl (fun (acc : AMap Word) (w : Word × Nat) => AMap.set acc w.2 w.1 0) [] }
          else x) }) p.team p.grp p.inst false)

/-- DRED_PHASE_TIMEOUT: a phase not complete after 10 ms fails with cause 7; of a saved group, in its image (R330, R487). -/
def execDredPhaseTimeout (launch : Nat) (s : State) : Outcome State Fault Refusal :=
  match s.dredOf launch with
  | none => .next s
  | some p =>
    if p.result.isSome then .next s
    else .next (s.toImage ((s.setPhase { p with waiting := false }).remFault p.team p.grp p.split p.inst p.pc p.w0 7 [(lowBit 32 p.active.toNat, 0)] false) p.team p.grp p.inst false)
end Sys2Proof.Machine
end

