-- ==== Sys2Proof/Machine/Host.lean ====
section
/-! DEFINITION. The host's side: BAR0 and BAR2, invalidations, service states, Smalt, power, scrubbing, notification and signal events (R388, R399, R439, R449 to R460, R492, R493). -/

namespace Sys2Proof.Machine

open Host

/-! ### Registers (R420, R449, R452, R454, R492, R493) -/

/-- The status word of the device control block, offset 0x040 (R452). -/
def Control.status (c : Control) : Nat :=
  c.service % 8 + c.failcode.toNat * 2 ^ 8 + c.dieok.toNat * 2 ^ 16 + natOfBool c.calbusy * 2 ^ 24 + natOfBool c.calfail * 2 ^ 25 +
    natOfBool (0 < c.steps) * 2 ^ 26 + natOfBool c.inverr * 2 ^ 27

/-- The register block of a queue (R420). -/
def Queue.reg (q : Queue) (off : Nat) : Nat :=
  match off with
  | 0x00 => q.base.toNat
  | 0x08 => q.logsz % 32 + natOfBool q.enable * 2 ^ 5 + natOfBool q.err * 2 ^ 6
  | 0x10 => q.rcb.toNat
  | 0x18 => q.qwrite.toNat
  | 0x20 => q.qread.toNat
  | 0x28 => q.qdoor.toNat
  | _ => 0

/-- The register block of a port (R493). -/
def Port.reg (x : Port) (off : Nat) : Nat :=
  match off with
  | 0x00 => x.lstate + x.width * 2 ^ 4 + x.part * 2 ^ 6 + x.laneFail.toNat * 2 ^ 8 + x.ackSeq * 2 ^ 24 + x.txSeq * 2 ^ 36 + x.vcTop * 2 ^ 49 +
      x.peerVc * 2 ^ 52 + natOfBool x.session * 2 ^ 55 + natOfBool x.short * 2 ^ 56 + natOfBool x.peerRun * 2 ^ 57
  | 0x08 => x.peerPkg + x.peerPort * 2 ^ 10 + natOfBool x.enable * 2 ^ 15 + x.laneMask.toNat * 2 ^ 16
  | 0x18 => x.replays % 2 ^ 32 + (x.tagFail % 2 ^ 16) * 2 ^ 32 + (x.retrains % 2 ^ 16) * 2 ^ 48
  | _ => 0

/-- Two 32-bit words of a die's error log as one register (R454). -/
def Die.errorReg (d : Die) (off : Nat) : Nat :=
  if off = 40 then (AMap.get d.errors 40 0).toNat else (AMap.get d.errors off 0).toNat % 2 ^ 32 + ((AMap.get d.errors (off + 4) 0).toNat % 2 ^ 32) * 2 ^ 32

/-- The ports whose session's peer has given its measurements, with the peer's package (R504). -/
def State.measuredPeers (s : State) : List (Nat × Nat) := s.fab.ports.filterMap (fun p => p.2.measured.map (fun q => (p.1, q)))

/-- What a 64-bit read of BAR0 at an 8-byte aligned offset returns; an unlisted offset reads zero (R449). -/
def State.readReg (s : State) (off : Nat) : Nat :=
  if off < 0x40 then (Config.identity (off / 8)).toNat
  else if off = 0x40 then s.ctl.status
  else if off = 0x50 then s.ctl.pwrcap
  else if off = 0x58 then s.ctl.pwrnow
  else if off = 0x60 then s.ctl.tjmax % 256 + s.ctl.tinlet % 256 * 256
  else if off = 0x68 then s.clock / 10
  else if off = 0x70 then s.ctl.scrub
  else if off = 0x78 then s.ctl.invctx
  else if off = 0x80 then s.ctl.invbase.toNat
  else if off = 0x90 then s.ctl.invdone.toNat
  else if 0x800 ≤ off ∧ off < 0xA40 then (s.port ((off - 0x800) / 32)).reg (off % 32)
  else if off = 0xA40 then s.ctl.self
  else if off = 0xA48 then s.fab.rtBase.toNat
  else if off = 0xA50 then s.fab.rctBase.toNat
  else if off = 0xA58 then s.fab.ctBase.toNat
  else if off = 0xA68 then s.fab.rtGen % 2 ^ 32 + (s.fab.rtErr % 2 ^ 16) * 2 ^ 32
  else if off = 0xA70 then s.fab.fevt
  else if off = 0xA78 then s.fab.fvec + s.fab.drops * 2 ^ 32
  else if 0x1000 ≤ off ∧ off < 0x2000 then (s.queue ((off - 0x1000) / 64)).reg (off % 64)
  else if 0x2000 ≤ off ∧ off < 0x2800 then (s.die ((off - 0x2000) / 256)).errorReg (off % 256)
  else if 0x3000 ≤ off ∧ off < 0x4000 then (Config.smaltMailbox (off - 0x3000) s.measuredPeers).toNat
  else if 0x10000 ≤ off ∧ off < 0x18000 then (AMap.get s.ctl.msixTable off (msixInit off)).toNat
  else if 0x18000 ≤ off ∧ off < 0x18100 then natOfBits 64 (fun i => s.msix.contains ((off - 0x18000) * 8 + i))
  else 0

/-- A host write to a queue's registers; QBASE to QDOOR (R420, R421). QWRITE has its own event. -/
def State.writeQueueReg (s : State) (q off : Nat) (v : Word) : State :=
  let x := s.queue q
  match off with
  | 0x00 => s.setQueue q { x with base := v }
  | 0x08 =>
    let y := if v.getLsbD 6 then { x with err := false, eff := x.qread } else x
    s.setQueue q { y with enable := v.getLsbD 5, logsz := fld v 4 0 }
  | 0x10 => s.setQueue q { x with rcb := v }
  | 0x28 => s.setQueue q { x with qdoor := v, door := none }
  | _ => s

/-- A host write of 0 to counters of an error log clears them; anything else is ignored (R454). -/
def State.writeErrorLog (s : State) (d off : Nat) (v : Word) : State :=
  let clear := fun (x : State) (o : Nat) (half : Nat) =>
    if half = 0 && decide (o ≤ 32) then x.setDie d { x.die d with errors := AMap.erase (x.die d).errors o } else x
  clear (clear s off (fld v 31 0)) (off + 4) (fld v 63 32)

/-- Writing 0 to a port's counter clears it (R493). -/
def Port.clearCounters (x : Port) (v : Word) : Port :=
  { x with replays := (if fld v 31 0 = 0 then 0 else x.replays), tagFail := (if fld v 47 32 = 0 then 0 else x.tagFail)
           retrains := if fld v 63 48 = 0 then 0 else x.retrains }

/-- A vector that is no longer masked sends the message it owes (R449). -/
def State.sendPending (s : State) (v : Nat) : State :=
  if s.msix.contains v && !s.msixMasked v then ({ s with msix := s.msix.filter (fun x => x != v) } : State).raiseMsix v else s

/-- REGISTER_WRITE: a 64-bit host write to a register that has no event of its own (R449, R452, R492, R493). -/
def execRegisterWrite (off : Nat) (v : Word) (s : State) : Outcome State Fault Refusal :=
  let c := s.ctl
  let f := s.fab
  if off = 0x40 then .next { s with ctl := { c with inverr := c.inverr && !v.getLsbD 27, calfail := c.calfail && !v.getLsbD 25 } }
  else if off = 0x50 then .next { s with ctl := { c with pwrcap := max 2000 (min 10000 (fld v 13 0)) } }
  else if off = 0x70 then .next { s with ctl := { c with scrub := fld v 15 0 } }
  else if off = 0x78 then .next { s with ctl := { c with invctx := fld v 15 0 } }
  else if off = 0x80 then .next { s with ctl := { c with invbase := v } }
  else if off = 0xA48 then .next { s with fab := { f with rtBase := v } }
  else if off = 0xA58 then .next { s with fab := { f with ctBase := v } }
  else if off = 0xA70 then .next { s with fab := { f with fevt := f.fevt ^^^ (f.fevt &&& v.toNat) } }
  else if off = 0xA78 then .next { s with fab := { f with fvec := fld v 10 0, drops := if fld v 63 32 = 0 then 0 else f.drops } }
  else if 0x800 ≤ off ∧ off < 0xA40 then
    if off % 32 = 0x18 then .next (s.setPort ((off - 0x800) / 32) ((s.port ((off - 0x800) / 32)).clearCounters v)) else .next s
  else if 0x1000 ≤ off ∧ off < 0x2000 then .next (s.writeQueueReg ((off - 0x1000) / 64) (off % 64) v)
  else if 0x2000 ≤ off ∧ off < 0x2800 then .next (s.writeErrorLog ((off - 0x2000) / 256) (off % 256) v)
  else if 0x10000 ≤ off ∧ off < 0x18000 then .next (({ s with ctl := { c with msixTable := AMap.set c.msixTable off v (msixInit off) } } : State).sendPending ((off - 0x10000) / 16))
  else .next s

/-! ### BAR2 (R450) -/

/-- The cells of a BAR2 access that lie in physical memory. -/
def bar2Cells (off n : Nat) : List Cell := (List.range n).filterMap (fun i => (physKey 0 (off + i)).map (fun k => ({ loc := .mem k, path := .home } : Cell)))

/-- A byte that a host read of BAR2 returns: all ones beyond physical memory; none while a commit holds the line, for which the read waits (R254, R450). -/
def State.readBar2 (s : State) (off : Nat) : Option Byte :=
  if cellsLocked s.lockedLines (bar2Cells off 1) then none
  else some (match physKey 0 off with
    | some k => s.mem.read k
    | none => 0xFF)

/-- BAR2_WRITE: the bytes are written at their homes; beyond physical memory they are dropped. A write to a line that a commit holds waits (R254, R450). -/
def execBar2Write (off : Nat) (bytes : List Byte) (s : State) : Outcome State Fault Refusal :=
  let cs := bar2Cells off bytes.length
  if cellsLocked s.lockedLines cs then .next s else .next ((s.writePhys off bytes).notice cs)

/-- BAR2_READ leaves the package as it is; what it returns is `readBar2` (R450). -/
def execBar2Read (_off _n : Nat) (s : State) : Outcome State Fault Refusal := .next s

/-! ### Invalidations (R388, R451, R452) -/

/-- A waiting store reaches a host page of a range. -/
def PStore.onHost (p : PStore) (base size : Nat) : Bool :=
  p.cells.any (fun c => match c.loc with | .host _ a => decide (base ≤ a / 4096 * 4096 + 4095) && decide (a / 4096 * 4096 < base + size) | _ => false)

/-- An engine operation that has started still has host bytes of a range to write. -/
def EngineOp.onHost (o : EngineOp) (base size : Nat) : Bool :=
  o.writes.any (fun w => w.bytes.any (fun b => match b.1.loc with | .host _ a => decide (base ≤ a / 4096 * 4096 + 4095) && decide (a / 4096 * 4096 < base + size) | _ => false))

/-- ATS_INVALIDATE: cached host translations of a range of I/O addresses are dropped, once every request that used them has completed (R451). -/
def execAtsInvalidate (base size : Nat) (s : State) : Outcome State Fault Refusal :=
  if s.stores.any (fun p => p.onHost base size) || s.clusters.any (fun c => c.2.ops.any (fun o => o.onHost base size)) then .next s
  else .next { s with atc := s.atc.filter (fun e =>
    let a := e.1 % 2 ^ 40 * 4096
    !(decide (a < base + size) && decide (base < a + 4096))) }

/-- INVGO: a host invalidation starts; a LOG outside 16 to 57 sets INVERR (R452). -/
def execInvgo (log : Nat) (s : State) : Outcome State Fault Refusal :=
  let n := log % 64
  if n < 16 || 57 < n then .next { s with ctl := { s.ctl with inverr := true } }
  else .next { s with invals := s.invals ++ [{ djid := s.ctl.invctx, base := s.ctl.invbase.toNat, log := n }] }

/-- The range of an invalidation meets [lo, hi). -/
def Inval.meets (x : Inval) (lo hi : Nat) : Bool := decide (lo < x.base + 2 ^ x.log) && decide (x.base < hi)

/-- What used an entry that an invalidation drops is still to be performed: a waiting store, an engine operation under way (R388). -/
def State.invalBusy (s : State) (x : Inval) : Bool :=
  s.stores.any (fun p => (s.launch p.launch).region.djid = x.djid && p.cells.any (fun c => match c.loc with | .sp _ _ _ => false | _ => x.meets c.va (c.va + 1))) ||
    s.teams.any (fun t => (s.launch t.2.launch).region.djid = x.djid && t.2.groups.any (fun g => match g.2.tx with
      | some u => u.abort.isNone && u.accs.any (fun a => a.remote.isNone && a.acc.cells.any (fun c => match c.loc with | .sp _ _ _ => false | _ => x.meets c.va (c.va + 1)))
      | none => false)) ||
    s.clusters.any (fun k => k.2.ops.any (fun o => o.started && k.2.locks.any (fun r => r.seq = o.seq && r.sp.isNone && r.djid = x.djid && x.meets r.lo r.hi)))

/-- A leaf is dropped by an invalidation. -/
def Inval.drops (x : Inval) (l : Leaf) : Bool := l.djid = x.djid && x.meets l.base (l.base + 2 ^ l.log)

/-- INVALIDATION_COMPLETE: the oldest invalidation completes: every TLB has dropped its range, and its users have ended (R388, R452). -/
def execInvalidationComplete (s : State) : Outcome State Fault Refusal :=
  match s.invals with
  | [] => .next s
  | x :: rest =>
    if s.invalBusy x then .next s
    else
      let s1 := { s with
        invals := rest
        cores := s.cores.map (fun (c : Nat × Core) => (c.1, { c.2 with tlb := c.2.tlb.filter (fun l => !x.drops l) }))
        dies := s.dies.map (fun (d : Nat × Die) => (d.1, { d.2 with tlb := d.2.tlb.filter (fun l => !x.drops l) })) }
      match x.queue with
      | some (q, idx) => .next (s1.finishEntry q idx 1 0 0 false).takeSubs
      | none => .next { s1 with ctl := { s1.ctl with invdone := s1.ctl.invdone + 1 } }

/-! ### Notifications (R439) -/

/-- SYSC splits of launches of a region try again (R325). -/
def State.wakeSysc (s : State) (nprod : Nat) : State :=
  { s with teams := s.teams.map (fun t =>
      if (s.launch t.2.launch).region.nprod = nprod then (t.1, t.2.mapGroups (fun g => g.wakeIf (fun w => w = .sysc))) else t) }

/-- Post what is held for one ring of a region, as its notification ring or its pager ring. -/
def State.postHeld (s : State) (prod : Nat) (r : Region) : State :=
  if prod = r.nprod then
    let s1 := s.useRing r r.nprod r.ncons
    let s2 := s1.drainRing prod (s1.ring r).held
    if s2.ringRoom r then s2.wakeSysc r.nprod else s2
  else
    let s1 := s.useRing r r.pprod r.pcons
    s1.drainPager prod (s1.pagerRing r).held

/-- HELD_RECORD_POST: records held for a ring are posted while it has room, and SYSC splits that wait for it go on (R325, R419, R439). -/
def execHeldRecordPost (rcb : Nat) (s : State) : Outcome State Fault Refusal :=
  .next ((s.rings.filter (fun x => x.2.region.rcb = rcb)).foldl (fun (acc : State) x => acc.postHeld x.1 x.2.region) s)

/-- MSIX_COALESCE: the window closes and the vector is raised once (R439). -/
def execMsixCoalesce (rcb : Nat) (s : State) : Outcome State Fault Refusal :=
  .next ((s.rings.filter (fun x => x.2.region.rcb = rcb && x.2.window)).foldl (fun (acc : State) x =>
    ({ acc with rings := AMap.put acc.rings x.1 { x.2 with window := false } } : State).raiseMsix x.2.region.msix) s)

/-! ### Service states (R457, R458) -/

/-- No launch runs (R458). -/
def State.quiescent (s : State) : Bool := s.launches.all (fun l => l.2.complete)

/-- REQFULL: in BASIC, with no change under way, a calibration is asked for (R458). -/
def execReqfull (s : State) : Outcome State Fault Refusal :=
  if s.ctl.service = 2 && !s.ctl.calibrating then .next { s with ctl := { s.ctl with calbusy := true, calibrating := true } } else .next s

/-- REQBASIC: in FULL, with no change under way, the return to BASIC is asked for (R458). -/
def execReqbasic (s : State) : Outcome State Fault Refusal :=
  if s.ctl.service = 3 && !s.ctl.calibrating then .next { s with ctl := { s.ctl with calibrating := true } } else .next s

/-- CALIBRATION_DONE: at quiescence the package enters FULL, the last calibration good, or stays in BASIC with CALFAIL; or it returns to BASIC (R458). -/
def execCalibrationDone (ok : Bool) (s : State) : Outcome State Fault Refusal :=
  if !s.ctl.calibrating || !s.quiescent then .next s
  else
    let c := { s.ctl with calibrating := false, calbusy := false }
    if !s.ctl.calbusy then .next { s with ctl := { c with service := 2, steps := 0 } }
    else if ok then .next { s with ctl := { c with service := 3, steps := 0, calfail := false } }
    else .next { s with ctl := { c with calfail := true } }

/-- CALIBRATION_TIMEOUT: the calibration counts as failed (R458). -/
def execCalibrationTimeout (s : State) : Outcome State Fault Refusal :=
  if s.ctl.calbusy then execCalibrationDone false s else .next s

/-- The package stops in FAILED with a code: nothing issues, and of the agenda only what the host and the supply do happens (R455, R457, R459, R460; `step`). -/
def State.failed (s : State) (code : BitVec 8) : State :=
  { s with ctl := { s.ctl with service := 4, failcode := code, calbusy := false, calibrating := false, recovery := false }, issueQ := [], mates := [], latch := none }

/-- An event that happens in FAILED too: host accesses, Smalt's own work, the sensors and the supply (R455, R456, R459, R460; log 112). -/
def happensInFailed (i : Instr) : Bool :=
  match i with
  | .packageReset _ _ _ => true
  | .recoveryImageLoad _ _ _ _ _ _ => true
  | .spdmRequest _ => true
  | .registerWrite _ _ => true
  | .bar2Write _ _ => true
  | .bar2Read _ _ => true
  | .supplyFault => true
  | .thermalTrip => true
  | .clockStepDown _ _ _ => true
  | .clockStepUp _ _ _ => true
  | .scrub _ _ _ _ _ => true
  | _ => false

/-- Memory is zero, and the L2 slices, L1s and TLBs are invalid (R457). -/
def State.zeroed (s : State) : State :=
  { s with
    mem := [], l2 := [], l2tags := []
    bad := s.bad.filter (fun b => match b.place with | .l1 _ _ => false | .l2 _ => false | .hbm _ => false | _ => true)
    cores := s.cores.map (fun (c : Nat × Core) => (c.1, { c.2 with l1 := [], pinned := [], tlb := [] }))
    dies := s.dies.map (fun (d : Nat × Die) => (d.1, { d.2 with tlb := [] })) }

/-- Bring-up after the image check: self-tests, then BASIC with memory zero (R457). -/
def State.bringUp (s : State) (dies : BitVec 8) (stackBits : BitVec 16) : State :=
  let s1 := { s with ctl := { s.ctl with dieok := dies, stackok := stackBits, recovery := false, failcode := 0, service := 1 } }
  if dies != 0xFF then s1.failed 2
  else if stackBits != 0xFFFF then s1.failed 3
  else { s1.zeroed with ctl := { s1.ctl with service := 2 } }

/-- What a reset leaves: everything as after reset but the fuses, the host's memory, the events to come and the model's own counters (R455, R457). -/
def State.clear (s : State) : State :=
  { State.reset with
    agenda := s.agenda, free := s.free, turn := s.turn, host := s.host, nextTeam := s.nextTeam
    ctl := { State.reset.ctl with minSvn := s.ctl.minSvn, resets := s.ctl.resets + 1 } }

/-- Smalt accepts an image: its signature, its form, and a security version of at least the fused minimum (R455). -/
def imageAccepted (x : BootImage) (least : Nat) : Bool := x.sigOk && x.formOk && decide (least ≤ x.version)

/-- The fused minimum after images that were accepted: one that asks raises it to its version (R455). -/
def raisedMin (least : Nat) (xs : List BootImage) : Nat := xs.foldl (fun m x => if x.raise then max m x.version else m) least

/-- PACKAGE_RESET: Smalt verifies the images; a rejected one leaves the package in FAILED with the recovery mailbox open (R455, R457). -/
def execPackageReset (images : List BootImage) (diesOk : BitVec 8) (stacksOk : BitVec 16) (s : State) : Outcome State Fault Refusal :=
  if images.all (fun x => imageAccepted x s.ctl.minSvn) then
    let s0 := s.clear
    .next (({ s0 with ctl := { s0.ctl with minSvn := raisedMin s.ctl.minSvn images } } : State).bringUp diesOk stacksOk)
  else
    let s1 := s.clear.failed 1
    .next { s1 with ctl := { s1.ctl with recovery := true } }

/-- RECOVERY_IMAGE_LOAD: an image with a good signature, form and version is taken; it raises the fused minimum only when it asks (R455). -/
def execRecoveryImageLoad (sigOk formOk : Bool) (version : Nat) (raise : Bool) (diesOk : BitVec 8) (stacksOk : BitVec 16) (s : State) :
    Outcome State Fault Refusal :=
  let x : BootImage := ⟨sigOk, formOk, version, raise⟩
  if s.ctl.recovery && imageAccepted x s.ctl.minSvn then
    .next (({ s with ctl := { s.ctl with minSvn := raisedMin s.ctl.minSvn [x] } } : State).bringUp diesOk stacksOk)
  else .next s

/-- SPDM_REQUEST: Smalt's answer, `Config.spdmAnswer`, changes no state (R456). -/
def execSpdmRequest (_index : Nat) (s : State) : Outcome State Fault Refusal := .next s

/-! ### Power (R459, R460) -/

/-- SUPPLY_FAULT stops the package (R459). -/
def execSupplyFault (s : State) : Outcome State Fault Refusal := .next (s.failed 5)

/-- The sensors read these values; a junction at 110 °C trips the package (R460). -/
def State.sense (s : State) (power tinlet tjmax : Nat) : State :=
  let s1 := { s with ctl := { s.ctl with pwrnow := power % 2 ^ 14, tinlet := tinlet % 256, tjmax := tjmax % 256 } }
  if 110 ≤ s1.ctl.tjmax then s1.failed 4 else s1

/-- THERMAL_TRIP: a junction stands at 110 °C or more (R460). -/
def execThermalTrip (s : State) : Outcome State Fault Refusal := .next (s.sense s.ctl.pwrnow s.ctl.tinlet (max 110 (s.ctl.tjmax % 256)))

/-- The clock must slow down (R460). -/
def Control.hot (c : Control) : Bool := decide (c.pwrcap < c.pwrnow) || decide (95 ≤ c.tjmax)

/-- CLOCK_STEP_DOWN: one step, to the floor at most (R460). -/
def execClockStepDown (power tinlet tjmax : Nat) (s : State) : Outcome State Fault Refusal :=
  let s1 := s.sense power tinlet tjmax
  if s1.running && s1.ctl.hot then .next { s1 with ctl := { s1.ctl with steps := min 4 (s1.ctl.steps + 1) } } else .next s1

/-- CLOCK_STEP_UP: both conditions have been clear for 10 ms (R460). -/
def execClockStepUp (power tinlet tjmax : Nat) (s : State) : Outcome State Fault Refusal :=
  let s1 := s.sense power tinlet tjmax
  if s1.ctl.hot then .next s1 else .next { s1 with ctl := { s1.ctl with steps := s1.ctl.steps - 1 } }

/-! ### Scrubbing and the error log (R399, R454) -/

/-- SCRUB: what a die finds of its errors. Words that were corrected as they were used are counted by source; a scrub, at a rate above zero, counts those it corrects and those it finds uncorrectable, with the location of the last (R399, R454; logs 99, 104). -/
def execScrub (die source corrected uncorrectable : Nat) (found : Scrubbed) (s : State) : Outcome State Fault Refusal :=
  let s1 := found.words.foldl (fun (acc : State) p => acc.spoil p (BadPlace.cause p)) { s with tests := s.tests ++ found.tests, misreads := s.misreads ++ found.misreads }
  if 8 ≤ die || source = 0 || 7 < source || (!found.used && s.ctl.scrub = 0) then .next s1
  else
    let s2 := s1.countError die (4 * (source - 1)) corrected
    .next (if found.used then s2 else s2.logBad die uncorrectable found.loc)

end Sys2Proof.Machine
end

