-- ==== Sys2Proof/Machine/Serve.lean ====
section
/-! DEFINITION. Requests at their destination: the remote context table, translation, and LOAD to REDUCE performed at the home (R416, R462, R463, R473, R475 to R479, R488). -/

namespace Sys2Proof.Machine

open Host

/-! ### Admission and translation (R462, R463) -/

/-- What a remote context entry admits. -/
structure RemoteEntry where
  root : Word
  ro : Bool
  region : Region
  deriving DecidableEq, Repr

/-- The remote context entry of a DJID, if its VALID is 1; read from memory for each request (R462, log 19). -/
def State.remoteEntry (s : State) (djid : Nat) : Option RemoteEntry :=
  match s.readPhys (s.fab.rctBase.toNat + 32 * djid) 32 with
  | some e =>
    if bitAt e 0 then
      some ⟨wd (bitsOf e 127 64), bitAt e 1, match s.region (bitsOf e 191 128) with | .ok r => r | .error _ => { rcb := bitsOf e 191 128 }⟩
    else none
  | none => none

/-- Why a request is not performed now: an answer, pages asked for, or another try. -/
inductive Admit where
  | cells (s : State) (cs : List Cell)
  | status (n : Nat)
  | need (e : RemoteEntry) (ps : List NeedPage)
  | wait (s : State)

/-- The leaf of an address has PAGER = 1. -/
def State.pagerBit (s : State) (x : XCtx) (va : Nat) : Bool :=
  match s.walk x.djid x.root va with
  | .leaf l => l.pager
  | _ => false

/-- Admit and translate a request's bytes by the MMU of die VA[18:16] (R463). `unsupported` says that a page of host memory does not take the operation (R380). -/
def State.grant (s : State) (p : Packet) (n : Nat) (write unsupported : Bool) : Admit :=
  match s.remoteEntry p.djid with
  | none => .status 1
  | some e =>
    if !rootOk e.root then .status 2
    else if write && e.ro then .status 3
    else
      let x : XCtx := ⟨none, bitsOf p.va 18 16, p.djid, e.root, e.region.pager != 0⟩
      let vas := (List.range n).map (fun i => p.va + i)
      let m := s.xlateChunks x (if write then .write else .read) (chunksOf vas)
      let scan := scanPages m write (vas.map (fun v => (0, v)))
      match scan.faults.head? with
      | some f => .status (if f.2.1 = 3 && write && !(e.region.pager = 0 && s.pagerBit x f.1.addr) then 3 else 2)
      | none =>
        if !scan.needs.isEmpty then .need e scan.needs
        else
          let s1 := s.fillChunks x m
          let cs := placeCells m 0 true none false vas
          if unsupported && cs.any (fun c => match c.loc with | .host _ _ => true | _ => false) then .status 4
          else
            match s1.atsMissing cs with
            | q :: rest => .wait { s1 with atsWaits := (s1.atsWaits ++ (q :: rest)).eraseDups }
            | [] => .cells s1 cs

/-- A request waits for its pages, asked for at the die of an address; it is taken again when the pager has answered (R463). -/
def State.parkRequest (s : State) (p : Packet) (va : Nat) (e : RemoteEntry) (ps : List NeedPage) : State :=
  let r := s.requestPages (bitsOf va 18 16) p.djid e.region { remote := true } (.remote p) ps
  { r.1 with fab := { r.1.fab with handled := r.1.fab.handled.map (fun (h : Handled) => if h.isOf p then { h with parked := true } else h) } }

/-! ### Race tags of remote accesses (R413, R416) -/

/-- The phases of a remote access: the package phase alone orders it (R416). -/
def State.remotePhases (s : State) : Phases := ⟨s.pph, 0, 0, 2 ^ 20⟩

/-- Check and set the L2 tags of a remote access: a conflict's TRAPAUX, or the tags (R413, R414, R416). A write or atomic is of KIND 5, a read of KIND 6. -/
def remoteTags (ph : Phases) (src : Nat) (a : RaceAcc) (tags : AMap RaceTag) (ks : List Nat) : Except Nat (AMap RaceTag) :=
  match ks with
  | [] => .ok tags
  | k :: rest =>
    let old := tagAt tags k (fun x => x.orderedBefore ph)
    let mine : RaceTag := { kind := if a = .read then 6 else 5, team := src, pph := ph.pph, place := ph.place }
    match tagStep old ((old.kind = 5 || old.kind = 6) && old.team = src) a with
    | .conflict => .error (old.team * 2 ^ 22 + old.gidx * 2 ^ 16 + old.thr * 2 ^ 11 + old.kind * 2 ^ 8 + 4)
    | .keep => remoteTags ph src a tags rest
    | .kind n =>
      let new := if n = 3 then { mine with kind := 3 } else if n = 4 && old.kind = 4 then old else mine
      remoteTags ph src a (AMap.put tags k new) rest

/-- The answer that carries a conflict back: COUNT 2, VA its TRAPAUX (R416, log 28). -/
def raceAnswer (p : Packet) (aux : Nat) : Packet := { responseTo p 0 [] with count := 2, va := aux }

/-- The answer that says that a word was uncorrectable: COUNT 5, INDEX its cause (R490, log 28). -/
def uceAnswer (p : Packet) (cause : Nat) : Packet := { responseTo p 0 [] with count := 5, index := cause }

/-- The tag check of a request at the DTAG pages it reaches: the state with its tags, or the answer that carries a conflict, or a lack of room for a tag, back: COUNT 6 (R416, R417; logs 21, 28). -/
def State.remoteRace (s : State) (p : Packet) (a : RaceAcc) (cs : List Cell) : Except Packet State :=
  let ks := (cs.filterMap (fun c => match c.loc with | .mem k => if c.dtag then some (k / 32) else none | _ => none)).eraseDups
  match remoteTags s.remotePhases p.src a s.l2tags ks with
  | .ok m =>
    let s1 : State := { s with l2tags := m }
    if ks.isEmpty || s1.tagsFit then .ok s1 else .error { responseTo p 0 [] with count := 6 }
  | .error x => .error (raceAnswer p x)

/-! ### Serving one request -/

/-- A request waits in the inbox. -/
def State.hasRequest (s : State) (p : Packet) (op : Nat) : Bool := !p.resp && p.op = op && s.fab.inbox.contains p

/-- Serve a request that is not performed twice: a copy is answered or held; else it is admitted and performed, answered with a status, parked, or left for another try: host translations are missing, or a commit holds a line (R254, R463, R479). -/
def State.serve (s : State) (p : Packet) (n : Nat) (write unsupported : Bool) (perform : State → List Cell → State × Packet) : State :=
  let t := s.takeRequest p
  if !t.2 then t.1.consume p
  else
    match s.grant p n write unsupported with
    | .wait s1 => s1
    | .status c => (t.1.consume p).answerRequest p (responseTo p c [])
    | .need e ps => (t.1.consume p).parkRequest p p.va e ps
    | .cells s1 cs =>
      if cellsLocked s1.lockedLines cs then s
      else
      let r := perform ((s1.takeRequest p).1.consume p) cs
      r.1.answerRequest p r.2

/-- Serve a read, which every copy performs (R479). -/
def State.serveRead (s : State) (p : Packet) (tagged : Bool) : State :=
  match s.grant p p.len false false with
  | .wait s1 => s1
  | .status c => (s.consume p).emit (responseTo p c [])
  | .need e ps => (s.consume p).parkRequest p p.va e ps
  | .cells s1 cs =>
    if cellsLocked s1.lockedLines cs then s
    else
    match (if tagged then s1.remoteRace p .read cs else .ok s1) with
    | .error r => (s.consume p).emit r
    | .ok s2 =>
      match (if tagged then s2.readUce noCore [{ thr := 0, ea := 0, cells := cs }] else none) with
      | some t => ((s2.sawBad t.word).consume p).emit (uceAnswer p t.aux)
      | none => ((s2.pinCells cs).consume p).emit (responseTo p 0 (cs.map s2.peek))

/-- Write the bytes of a STORE or PUTWRITE: those its mask names, but none in the sectors `secs` (R397, R470, log 27). -/
def writeSpan (s : State) (p : Packet) (cs : List Cell) (secs : List Nat) : State :=
  let mask := leNat (p.data.drop p.len)
  let put := (cs.zip (p.data.take p.len)).zipIdx.filter (fun x => (p.count != 1 || bitAt mask x.2) && !x.1.1.loc.inSectors secs)
  s.pokes (put.map (fun x => x.1.1)) (put.map (fun x => x.1.2))

/-- Perform a STORE or PUTWRITE under its end-to-end tests: sectors that fail twice keep their values, and the answer names the first to the source, with INDEX 1 where the sector's old code failed (R397, R478; log 99). -/
def writeChecked (s : State) (p : Packet) (cs : List Cell) (c : Checks) : State × Packet :=
  ((writeSpan s p cs (failedSectors c.fails)).notice (cs.filter (fun x => !x.loc.inSectors (failedSectors c.fails))),
    match firstFail c.fails (cs.map (fun x => x.loc)) with
    | none => responseTo p 0 []
    | some x => { responseTo p 0 [] with count := 4, va := x.1, index := if 2 ≤ x.2.old then 1 else 0 })

/-- LOAD (R469). -/
def execLoadReq (p : Packet) (s : State) : Outcome State Fault Refusal :=
  if s.hasRequest p 0x01 then .next (s.serveRead p true) else .next s

/-- GETREAD: engine accesses are not tagged (R415, R475). -/
def execGetreadReq (p : Packet) (s : State) : Outcome State Fault Refusal :=
  if s.hasRequest p 0x06 then .next (s.serveRead p false) else .next s

/-- STORE (R470). -/
def execStoreReq (arrived : Checked Packet) (s : State) : Outcome State Fault Refusal :=
  let p := arrived.it
  if s.hasRequest p 0x02 then
    .next (s.serve p p.len true false (fun s1 cs =>
      let written := if p.count = 1 then (cs.zipIdx.filter (fun c => bitAt (leNat (p.data.drop p.len)) c.2)).map (fun c => c.1) else cs
      match s1.remoteRace p .write written with
      | .error r => (s1, r)
      | .ok s2 => writeChecked s2 p cs arrived.checks))
  else .next s

/-- PUTWRITE (R475). -/
def execPutwriteReq (arrived : Checked Packet) (s : State) : Outcome State Fault Refusal :=
  let p := arrived.it
  if s.hasRequest p 0x07 then .next (s.serve p p.len true false (fun s1 cs => writeChecked s1 p cs arrived.checks)) else .next s

/-- Operand size of an ATOMIC or CAS: ASZ (R464). -/
def atomBytes (p : Packet) : Nat := if p.asz then 8 else 4

/-- Perform an atomic at its home; an uncorrectable word is not taken, and pager windows and TBs it writes are seen to (R344, R391, R490). -/
def State.serveAtomic (s : State) (p : Packet) (op : AtomOp) (a : Acc) (reply : Bool) : State × Packet :=
  match s.readUce noCore [a] with
  | some t => (s.sawBad t.word, uceAnswer p t.aux)
  | none =>
    let r := s.performAcc noCore (.atomic op) a
    (r.2.noticeAll a.cells, responseTo p 0 (if reply then leBytes (atomBytes p) r.1 else []))

/-- ATOMIC: COUNT 1 asks for no reply data (R471). On a page of host memory only `.add` is supported (R380). -/
def execAtomicReq (p : Packet) (s : State) : Outcome State Fault Refusal :=
  if s.hasRequest p 0x03 then
    .next (s.serve p (atomBytes p) true (p.sub != 0) (fun s1 cs =>
      match (if p.count = 1 then s1.remoteRace p (.atomic p.sub (natOfBool p.asz)) cs else .ok s1) with
      | .error r => (s1, r)
      | .ok s2 => s2.serveAtomic p (.int p.sub) { thr := 0, ea := 0, cells := cs, val := leNat p.data } (p.count != 1)))
  else .next s

/-- CAS (R471). -/
def execCasReq (p : Packet) (s : State) : Outcome State Fault Refusal :=
  if s.hasRequest p 0x04 then
    .next (s.serve p (atomBytes p) true false (fun s1 cs =>
      s1.serveAtomic p .cas { thr := 0, ea := 0, cells := cs, val := leNat (p.data.drop (atomBytes p)), cmp := leNat (p.data.take (atomBytes p)) } true))
  else .next s

/-! ### TBARRIVE, DRAIN, transactions, REDUCE -/

/-- A status that the context entry alone gives (R381, R462). -/
def State.entryStatus (s : State) (p : Packet) : Option Nat :=
  match s.remoteEntry p.djid with
  | none => some 1
  | some e => if !rootOk e.root then some 2 else if e.ro then some 3 else none

/-- The lowest-ranked team resident on a core whose launch runs in a context (R476). -/
def State.teamInContext (s : State) (core djid : Nat) : Option (Nat × Team) :=
  (s.teams.filter (fun t => t.2.saved.isNone && t.2.onCore core && (s.launch t.2.launch).region.djid = djid)).foldl
    (fun (best : Option (Nat × Team)) t => match best with
      | some b => if t.2.epoch < b.2.epoch then some t else some b
      | none => some t) none

/-- TBARRIVE: the arrival is applied as TBARV does, once no commit holds the TB's line (R254, R476). -/
def execTbarriveReq (p : Packet) (s : State) : Outcome State Fault Refusal :=
  if !s.hasRequest p 0x05 then .next s
  else if (match s.teamInContext p.core p.djid with | some (u, tm) => s.tbLocked u (tm.sideOn p.core) p.va | none => false) then .next s
  else
    let t := s.takeRequest p
    let s1 := t.1.consume p
    if !t.2 then .next s1
    else
      match s1.entryStatus p with
      | some c => .next (s1.answerRequest p (responseTo p c []))
      | none =>
        match s1.teamInContext p.core p.djid with
        | some (u, tm) =>
          if p.va + 16 ≤ (s1.launch tm.launch).lrec.scratch && p.va % 16 = 0 then
            .next ((s1.updateTb u (tm.sideOn p.core) p.va p.count 0 0 0).answerRequest p (responseTo p 0 []))
          else .next (s1.answerRequest p (responseTo p 5 []))
        | none => .next (s1.answerRequest p (responseTo p 5 []))

/-- A contribution under assembly is that of a DRAIN request: its source, its index, its target and the slot in RTAG. -/
def Contribution.isOf (c : Contribution) (p : Packet) : Bool :=
  c.drain.isNone && c.vals.isNone && c.src = p.src && c.core = p.core && c.tile = p.tile && c.djid = p.djid &&
    c.index = (if p.count = 1 then none else some p.index) && (match c.pkts with | q :: _ => q.rtag = p.rtag | [] => true)

/-- The binary32 values of an assembled tile. -/
def tileValues (parts : AMap (List Byte)) : AMap Half :=
  (List.range 16384).filterMap (fun i =>
    let bs := AMap.get parts (i / 64 * 256) []
    let x : Half := BitVec.ofNat 32 (leNat ((bs.drop (4 * (i % 64))).take 4))
    if x = 0 then none else some (i, x))

/-- DRAIN: a piece goes to its contribution buffer; a full contribution is handled. With no free buffer the request is not answered (R488). -/
def execDrainReq (p : Packet) (s : State) : Outcome State Fault Refusal :=
  if !s.hasRequest p 0x08 then .next s
  else
    let known := s.fab.contribs.any (fun c => c.isOf p)
    let used := (s.fab.contribs.filter (fun c => c.drain.isNone)).length
    let handled := s.fab.handled.any (fun h => h.isOf p)
    if !handled && !known && decide (16 ≤ used) then .next (s.consume p)
    else
      let t := s.takeRequest p
      let s1 := t.1.consume p
      if !t.2 then .next s1
      else
        match s1.entryStatus p, s1.tileTeam p.djid p.core p.tile with
        | some c, _ => .next (s1.answerRequest p (responseTo p c []))
        | none, none => .next (s1.answerRequest p (responseTo p 5 []))
        | none, some _ =>
          let cs := if known then s1.fab.contribs
            else s1.fab.contribs ++ [{ src := p.src, index := if p.count = 1 then none else some p.index, djid := p.djid, core := p.core, tile := p.tile }]
          let cs1 := cs.map (fun (c : Contribution) =>
            if c.isOf p then
              let parts := AMap.put c.parts p.va p.data
              { c with parts := parts, pkts := c.pkts ++ [p], vals := if parts.length = 256 then some (tileValues parts) else none }
            else c)
          .next (({ s1 with fab := { s1.fab with contribs := cs1 } } : State).takeContributions drainResponse)

/-- TXLINE: a line of a transaction is kept until its TXCOMMIT; one whose context is not admitted is answered so, and kept with that status (R381, R462, R473). -/
def execTxlineReq (p : Packet) (s : State) : Outcome State Fault Refusal :=
  if !s.hasRequest p 0x09 then .next s
  else
    let t := s.takeRequest p
    let s1 := t.1.consume p
    if !t.2 then .next s1
    else
      let c := (s1.entryStatus p).getD 0
      let old := s1.fab.incoming.find? (fun x => x.src = p.src && x.rtag = p.rtag)
      let x : IncomingTx := { src := p.src, rtag := p.rtag, lines := ((old.map (fun y => y.lines)).getD []) ++ [{ p with sub := c }] }
      let s2 := { s1 with fab := { s1.fab with incoming := (s1.fab.incoming.filter (fun (y : IncomingTx) => !(y.src = p.src && y.rtag = p.rtag))) ++ [x] } }
      .next (s2.answerRequest p (responseTo p c []))

/-- The accesses of a TXLINE, whose line has some cells (R473, log 23). -/
def lineAccs (p : Packet) (cs : List Cell) : List TxAcc :=
  (readRecs p.data.length p.data).map (fun r =>
    { op := if r.code = 0 then .store else .atomic (.int (r.code - 1))
      acc := { thr := 0, ea := 0, cells := (cs.drop r.off).take r.bytes.length, val := leNat r.bytes } })

/-- Translate every line of a transaction: its accesses in program order, or the line that stops it and how. -/
def State.admitLines (s : State) (ps : List Packet) (got : List TxAcc) : (Packet × Admit) ⊕ (State × List TxAcc) :=
  match ps with
  | [] => .inr (s, got)
  | p :: rest =>
    match s.grant p 128 true true with
    | .cells s1 cs => s1.admitLines rest (got ++ lineAccs p cs)
    | x => .inl (p, x)

/-- Lines in the order of their COUNT. -/
def orderLines (ps : List Packet) : List Packet :=
  (ascending (ps.map (fun p => p.count))).filterMap (fun c => ps.find? (fun p => p.count = c))

/-- TXCOMMIT: once all its lines have come, they are applied together; lines on several dies give code 2, a store that fails its test or an uncorrectable word code 4 (R254, R262, R473). -/
def execTxcommitReq (p : Packet) (s : State) : Outcome State Fault Refusal :=
  if !s.hasRequest p 0x0A then .next s
  else
    let t := s.takeRequest p
    if !t.2 then .next (t.1.consume p)
    else
      match s.fab.incoming.find? (fun x => x.src = p.src && x.rtag = p.rtag) with
      | none => .next s
      | some x =>
        if x.lines.length < p.count then .next s
        else
          let done := fun (s1 : State) => (({ s1 with fab := { s1.fab with
            incoming := s1.fab.incoming.filter (fun (y : IncomingTx) => !(y.src = p.src && y.rtag = p.rtag)) } } : State).takeRequest p).1.consume p
          if let some q := x.lines.find? (fun q => q.sub != 0) then .next ((done s).answerRequest p (responseTo p q.sub []))
          else
          match s.admitLines (orderLines x.lines) [] with
          | .inl (_, .status c) => .next ((done s).answerRequest p (responseTo p c []))
          | .inl (q, .need e ps) => .next (((s.takeRequest p).1.consume p).parkRequest p q.va e ps)
          | .inl (_, .wait s1) => .next s1
          | .inl (_, .cells s1 _) => .next s1
          | .inr (s1, accs) =>
            let cells := accs.flatMap (fun a => a.acc.cells)
            let code := fun (a : State) (n : Nat) => (done a).answerRequest p { responseTo p 0 [] with count := n }
            if cellsLocked s1.lockedLines cells then .next (code s1 3)
            else if 1 < ((cells.map (fun c => s1.locHome c.loc)).eraseDups).length then .next (code s1 2)
            else if s1.txFails noCore accs then .next (code (s1.dropTests cells) 4)
            else .next (code (s1.applyTx noCore accs) 0)

/-- REDUCE: a child's contribution; results come as responses (R487, R510). -/
def execReducePkt (p : Packet) (s : State) : Outcome State Fault Refusal :=
  if !s.hasRequest p 0x0B then .next s
  else
    let t := s.takeRequest p
    let s1 := t.1.consume p
    if t.2 then .next (s1.takeReduce p) else .next s1

/-- A request that waited for pages is taken again (R392, R463). -/
def State.serveNow (s : State) (p : Packet) : State :=
  match (match p.op with
    | 0x01 => execLoadReq p s
    | 0x02 => execStoreReq { it := p } s
    | 0x03 => execAtomicReq p s
    | 0x04 => execCasReq p s
    | 0x06 => execGetreadReq p s
    | 0x07 => execPutwriteReq { it := p } s
    | 0x0A => execTxcommitReq p s
    | _ => .next s) with
  | .next t => t
  | _ => s

end Sys2Proof.Machine
end

