-- ==== Sys2Proof/Machine/Arrive.lean ====
section
/-! DEFINITION. What arrives while instructions wait: results, performed stores, deferred traps, pager responses, host translations, and the watchdog (R115, R202, R235, R315, R391 to R393, R397, R398, R440, R451, R520). -/

namespace Sys2Proof.Machine

open Host

/-! ### Results and stores (R202, R235, R397, R398) -/

/-- A split can take a trap before its next issue: it could issue but for that, or waits in state 2 (R315). One that is parked takes it when its wait has ended (log 96). -/
def Split.canTrap (sp : Split) : Bool := sp.st = 1 || sp.st = 2 || sp.st = 6

/-- RESULT_ARRIVAL: a formed result arrives, and is written or held for its window; of a word read from memory, two check mismatches raise UCE with cause 0x08 on the instructions that consume the registers it is written to (R202, R235, R398). -/
def execResultArrival (team grp id mismatches : Nat) (s : State) : Outcome State Fault Refusal :=
  let g := s.group team grp
  match g.pends.find? (fun p => p.id = id) with
  | none => .next s
  | some p => if p.src != .ready || p.arrived || (s.team team).saved.isSome then .next s else .next (s.setGroup team grp (g.arrive id mismatches))

/-- STORE_PERFORMED: an issued store or atomic is performed, once those it must follow are, but for the sectors whose tests failed twice; or a dirty sector of the L2 is written back to HBM. A second failure raises E2E, and the location keeps its value (R235, R379, R397). -/
def execStorePerformed (e : StoreEvent) (failures : Checks) (s : State) : Outcome State Fault Refusal :=
  match e with
  | .performed id =>
    let fails := failures.fails
    match s.stores.find? (fun p => p.id = id) with
    | none => .next s
    | some p =>
      if (s.stores.takeWhile (fun q => q.id != id)).any (fun q => q.before p) || cellsLocked s.lockedLines p.cells || s.matrixReads p then .next s
      else
        let s1 := s.performStore (p.without (failedSectors fails))
        .next (if p.coded then s1.e2eFails p.team p.grp fails (p.cells.map (fun c => c.loc))
            ⟨{ code := 0x10 }, p.pc, p.w0, p.w1, ((s1.group p.team p.grp).split p.split).pc⟩ else s1)
  | .writeBack sec team grp =>
    if (AMap.find s.l2 sec).isNone then .next s
    else if failures.mismatches < 2 then .next (s.writeBackL2 sec)
    else .next ((s.dropL2 sec).e2e team grp 0 (32 * sec) ⟨{ code := 0x10 }, 0, 0, 0, 0⟩)

/-! ### Deferred traps (R315, R520) -/

/-- A deferred trap is presented: the instruction's pending writes are cancelled and the split traps, resuming at its next instruction. A PGFAULT of a split that has exited is reported alone, and an E2E goes to the region with its own record (R315, R397, R520; log 92). -/
def State.presentDeferred (s : State) (team grp : Nat) (d : Deferred) : State :=
  let g := s.group team grp
  let g1 := ({ g with deferred := g.deferred.erase d } : Group).cancel d.inst
  let s1 := s.setGroup team grp g1
  if let some x := d.e2e then s1.e2e team grp x.1 x.2 { d.trap with resume := (g.split d.split).pc }
  else if !(g.used d.split) then
    if d.trap.req.code = 0x09 && d.trap.req.deferred then ((s1.recordTrap team grp d.split d.trap).getD (s1.unsettleRecords team grp)).reportFatal team grp else s1
  else s1.present ⟨team, grp, d.split⟩ { d.trap with resume := (g.split d.split).pc }

/-- DEFERRED_TRAP: the oldest deferred trap whose split is about to issue is presented (R315). -/
def execDeferredTrap (team grp : Nat) (s : State) : Outcome State Fault Refusal :=
  let g := s.group team grp
  if (s.team team).saved.isSome || g.stopped then .next s
  else
    match g.deferred.find? (fun d => d.e2e.isSome || !g.used d.split || (g.split d.split).canTrap) with
    | some d => .next (s.presentDeferred team grp d)
    | none => .next s

/-! ### Answers of the pager (R391 to R393) -/

/-- The lowest address of a list on a page; the page's own where none is. -/
def lowestOn (va log : Nat) (xs : List Nat) : Nat :=
  match xs.filter (fun a => decide (va ≤ a) && decide (a < va + 2 ^ log)) with
  | [] => va
  | a :: rest => rest.foldl min a

/-- A logged instruction whose page is fatal raises PGFAULT cause 2 when its split next issues (R393). -/
def State.fatalEntry (s : State) (team grp : Nat) (q : PagerReq) (e : LogEntry) : State :=
  let g := s.group team grp
  let hits := (e.req.accs.map (fun (a : Acc) => (a.thr, (s.mapped team g e.req.space a).filter (fun v => decide (q.va ≤ v) && decide (v < q.va + 2 ^ q.log))))).filter (fun h => !h.2.isEmpty)
  let page : FaultPage := { addr := lowestOn q.va q.log ((hits.head?.map (fun h => h.2)).getD []), thr := (hits.head?.map (fun h => h.1)).getD 0, write := e.req.op != .load }
  s.failEntry team grp e { code := 0x09, aux := 2, pages := [page], addrs := hits.map (fun h => (h.1, wd (lowestOn q.va q.log h.2))) }

/-- The first byte of an operation's locked ranges on a page, and whether it is written there. -/
def State.lockOn (s : State) (cluster seq : Nat) (q : PagerReq) : Nat × Bool :=
  match (s.cluster cluster).locks.filter (fun k => k.seq = seq && k.sp.isNone && decide (k.lo < q.va + 2 ^ q.log) && decide (q.va < k.hi)) with
  | [] => (q.va, false)
  | k :: rest => (max q.va (rest.foldl (fun n x => min n x.lo) k.lo), (k :: rest).any (fun x => x.write))

/-- One waiter of a page walks again and goes on, or ends, at once (R392, R393). -/
def State.answerWaiter (s : State) (die : Nat) (q : PagerReq) (fatal : Bool) (w : Waiter) : State :=
  let left := fun (ws : List (Nat × Nat)) => ws.filter (fun x => x != (die, q.reqid))
  match w with
  | .inst team grp inst =>
    let g := s.group team grp
    match g.oplog.find? (fun e => e.inst = inst) with
    | none => s
    | some e =>
      if fatal then s.fatalEntry team grp q e
      else (s.setGroup team grp { g with oplog := g.oplog.map (fun (x : LogEntry) => if x.inst = inst then { x with waits := left x.waits } else x) }).replayInst team grp inst
  | .engine k tag =>
    match s.engineOp k tag with
    | none => s
    | some o =>
      if fatal then (s.mapEngine k tag (fun x => { x with waits := [], fatal := some (x.fatal.getD (s.lockOn k o.seq q)) })).engineStart k tag
      else (s.mapEngine k tag (fun x => { x with waits := left x.waits })).engineStart k tag
  | .matrix core id =>
    match (s.core core).order.find? (fun o => o.id = id && !o.copy) with
    | none => s
    | some o =>
      (if fatal then s.mapOp core id (fun x => { x with waits := [], fatal := some (x.fatal.getD ((match o.lock with | some k => (s.lockOn (clusterOf core) k q).1 | none => q.va), 2)) })
       else s.mapOp core id (fun x => { x with waits := left x.waits })).arrayStart { it := core }
  | .remote p =>
    let s1 := { s with fab := { s.fab with handled := s.fab.handled.map (fun (h : Handled) => if h.isOf p then { h with parked := false } else h) } }
    if fatal then s1.answerRequest p (responseTo p 2 [])
    else ({ s1 with fab := { s1.fab with inbox := s1.fab.inbox ++ [p] } } : State).serveNow p
  | .restore _ => s

/-- A request of a die is answered: every waiter goes on or ends, in the order they began to wait. -/
def State.answerPage (s : State) (die : Nat) (q : PagerReq) (fatal : Bool) : State :=
  let d := s.die die
  q.waiters.foldl (fun (acc : State) w => acc.answerWaiter die q fatal w)
    (s.setDie die { d with requests := d.requests.filter (fun (x : PagerReq) => x.reqid != q.reqid) })

/-- PAGER_RESPONSE: a response word arrives at a die; one that names no outstanding request is counted (R391). -/
def execPagerResponse (die : Nat) (resp : Word) (s : State) : Outcome State Fault Refusal :=
  match (s.die die).requests.find? (fun q => q.reqid = fld resp 63 32) with
  | some q => .next (s.answerPage die q (fld resp 1 0 != 0))
  | none => if 8 ≤ die then .next s else .next (s.countError die 32 1)

/-- PAGER_TIMEOUT: no response within the region's pager time, where it has one (R393, R440). -/
def execPagerTimeout (die reqid : Nat) (s : State) : Outcome State Fault Refusal :=
  match (s.die die).requests.find? (fun q => q.reqid = reqid) with
  | some q =>
    if q.region.wdpager = 0 then .next s else .next (s.answerPage die q true)
  | none => .next s

/-! ### The watchdog and host translations (R115, R440, R451) -/

/-- The wait of a parked split that the watchdog governs: an RCV, a JOIN, BAR, BARWT, WAITC, TBWAIT, HBAR, or a SYSC on a full ring (R115, R262, R325). -/
def Wait.watched (w : Wait) : Bool :=
  match w with
  | .token _ => true
  | .join _ => true
  | .bar _ _ => true
  | .counted _ _ _ _ _ => true
  | .tb _ _ _ _ _ => true
  | .hbar _ => true
  | .sysc => true
  | _ => false

/-- BARSTALL_WATCHDOG: a split parked for longer than the region's watchdog time traps BARSTALL at the instruction where it parked (R115, R313, R440). -/
def execBarstallWatchdog (r : SplitRef) (s : State) : Outcome State Fault Refusal :=
  let sp := s.splitAt r
  if (s.team r.team).saved.isSome || (s.groupAt r).stopped || (s.launchOf r.team).region.wdbar = 0 || !(sp.st = 3 || sp.st = 4 || sp.st = 5) || !sp.wait.watched then .next s
  else
    let w := s.wordsAt r.team r.grp sp.parkPc
    let g := s.groupAt r
    let s1 := s.setGroupAt r { g with counted := if sp.wait = .sysc then g.counted else g.counted ||| sp.mask }
    .next ((s1.setSplitAt r { sp with st := sp.ready, wait := .none }).present r ⟨{ code := 0x0E }, sp.parkPc, w.1, w.2, sp.pc⟩)

/-- ATS_COMPLETION: link0 caches the host's translation of a page and the accesses that wait for it go on (R451). -/
def execAtsCompletion (pa : Nat) (host : Option Nat) (s : State) : Outcome State Fault Refusal :=
  if !s.atsWaits.contains pa then .next s
  else
    let s1 := { s with atsWaits := s.atsWaits.filter (fun p => p != pa) }
    match host with
    | some h => .next ({ s1 with atc := AMap.put s1.atc pa h }).replayAll
    | none => .next s1

end Sys2Proof.Machine
end

