-- ==== Sys2Proof/Machine/Codebook.lean ====
section
/-! DEFINITION. The codebook instructions CBLD to CBSAVE, and the completion of a copy into a plane (R270 to R282). -/

namespace Sys2Proof.Machine

open Host

/-- First entry and count of a range operand (R271). -/
def bookRange (w : Word) : Nat × Nat := (fld w 7 0, if fld w 16 8 = 0 then 256 else fld w 16 8)

/-- The bank of a codebook instruction. -/
def bookBank (f : RegForm) : Nat := f.fs.toNat % 8

/-- A load of `n` words by the split's event thread, for a bank (R240, R273). -/
def bookReq (g : Group) (self : Half) (space : Space) (align : Nat) (addr : Word) (n : Nat) (use : BookUse) : MemReq :=
  let a : Acc :=
    { thr := eventThread g self, ea := addr, va := spanFrom addr (8 * n)
      recvs := (List.range n).map (fun j => { reg := 1000 + j, lo := 64 * j, len := 64 }) }
  { op := .load, space := space, align := align, cache := 0, order := .plain, scope := 0, accs := [a]
    dests := (List.range n).map (fun j => 1000 + j), uniform := true, book := some use, untagged := true }

/-- CBLD: `count` entries of the shadow plane are read at issue and written when the copy completes (R273). -/
def execCbld (f : RegForm) (s : State) : Outcome State Fault Refusal :=
  outsideTx "CBLD" s (fun l s1 =>
    let g := s1.groupAt l.ref
    let self := l.self s1
    let r := bookRange (g.readOpnd self f.b 0)
    if self &&& g.live = 0 then .done s1
    else if s1.bookBusy g.core (bookBank f) then .hold s1
    else
      memIssue l s1 self none false none none [slotWords g self f.a, slotWords g self f.b]
        (bookReq g self (formSpace f) 8 (g.readOpnd self f.a 0) r.2 ⟨bookBank f, r.1, .load⟩))

/-- Change the shadow plane of a bank of the group's core. -/
def State.shadow (s : State) (core bank : Nat) (p : Plane → Plane) : State :=
  let c := s.core core
  let b := c.bank bank
  s.setCore core (c.setBank bank (b.setPlane (!b.active) (p b.shadow)))

/-- Entries of a plane are written: protected anew, or uncorrectable when the read check failed twice (R398, R399). -/
def State.bookWritten (s : State) (core bank : Nat) (plane : Bool) (es : List Nat) (mismatches : Nat) : State :=
  if mismatches < 2 then (if s.bad.isEmpty then s else s.clearBad (fun p => es.any (fun e => p = .book core bank plane e)))
  else es.foldl (fun (acc : State) e => acc.spoil (.book core bank plane e) 8) s

/-- CBWR: one entry per active live thread, in ascending thread order, or the single entry of a g-register (R274). -/
def execCbwr (f : RegForm) (s : State) : Outcome State Fault Refusal :=
  issue "CBWR" s (fun l s1 =>
    let g := s1.groupAt l.ref
    let self := l.self s1
    let act := g.active self f.mask &&& g.live
    let a := (g.readOpnd self f.a 0).toNat
    if act = 0 then .done s1
    else if s1.shadowBusy g.core (bookBank f) then .hold s1
    else
      let plane := !((s1.core g.core).bank (bookBank f)).active
      if isVec f.b then
        .done ((s1.shadow g.core (bookBank f) (fun p => (threadsOf act).foldl (fun (acc : Plane) t => acc.write ((a + t) % 256) (g.readOpnd self f.b t)) p)).bookWritten
          g.core (bookBank f) plane ((threadsOf act).map (fun t => (a + t) % 256)) 0)
      else .done ((s1.shadow g.core (bookBank f) (fun p => p.write (a % 256) (g.readOpnd self f.b 0))).bookWritten g.core (bookBank f) plane [a % 256] 0))

/-- CBSWAP: the planes change places, once every earlier write to the shadow is done; what issues in the same cycle reads the plane that was active before (R269, R275). -/
def execCbswap (f : RegForm) (s : State) : Outcome State Fault Refusal :=
  issue "CBSWAP" s (fun l s1 =>
    let g := s1.groupAt l.ref
    let c := s1.core g.core
    let b := c.bank (bookBank f)
    if l.self s1 &&& g.live = 0 then .done s1
    else if s1.bookBusy g.core (bookBank f) then .hold s1
    else .done (s1.setCore g.core (c.setBank (bookBank f) { b with active := !b.active, before := some b.side })))

/-- A descriptor of CBBIND sets a reserved bit or a reserved IW or NPI (R276). -/
def bindBad (d : Word) : Bool := fld d 63 10 != 0 || decide (6 ≤ fld d 8 6) || fld d 5 4 = 3

/-- CBBIND: the shadow's configuration, and with a backing address the load of all its entries (R276). -/
def execCbbind (f : RegForm) (s : State) : Outcome State Fault Refusal :=
  issue "CBBIND" s (fun l s1 =>
    let g := s1.groupAt l.ref
    let self := l.self s1
    let d := g.readOpnd self f.a 0
    let back := g.readOpnd self f.b 0
    if g.openTx.isSome && isUni f.b then doneGroup l s1 (g.abortTx 7 0)
    else if self &&& g.live = 0 then .done s1
    else if bindBad d then .trap { code := 0x06, aux := 4 }
    else if s1.shadowBusy g.core (bookBank f) then .hold s1
    else if isUni f.b then
      memIssue l s1 self none false none none [slotWords g self f.a, slotWords g self f.b]
        (bookReq g self .glob 8 back 256 ⟨bookBank f, 0, .bind (d.toNat % 1024) back⟩)
    else
      let plane := !((s1.core g.core).bank (bookBank f)).active
      .done ((s1.shadow g.core (bookBank f) (fun p => { p with config := d.toNat % 1024, back := 0 })).bookWritten g.core (bookBank f) plane [256] 0))

/-- CBINV (R277). -/
def execCbinv (f : RegForm) (s : State) : Outcome State Fault Refusal :=
  issue "CBINV" s (fun l s1 =>
    let g := s1.groupAt l.ref
    let self := l.self s1
    let r := bookRange (g.readOpnd self f.a 0)
    if self &&& g.live = 0 then .done s1
    else if s1.shadowBusy g.core (bookBank f) then .hold s1
    else .done (s1.shadow g.core (bookBank f) (fun p => p.clear r.1 r.2)))

/-- CBRD: an entry of the active plane, or with SH of the shadow once its writes are done; zero where invalid (R279). -/
def execCbrd (f : RegForm) (s : State) : Outcome State Fault Refusal :=
  issue "CBRD" s (fun l s1 =>
    let g := s1.groupAt l.ref
    let self := l.self s1
    let b := (s1.core g.core).bank (bookBank f)
    let sh := RegForm.flag f
    let side := if sh then !b.side else b.side
    if uniformBad f.d [f.a] then .trap trapUniform
    else if sh && s1.bookBusy g.core (bookBank f) then .hold s1
    else
      match s1.bookUce g.core (bookBank f) side ((threadsOf (g.active self f.mask)).map (fun t => (g.readOpnd self f.a t).toNat % 256)) with
      | some t => .trap t
      | none =>
        doneGroup l s1 (g.pendOpnd g.nextInst l.pc f.d (g.active self f.mask) f.la.toNat
          (fun t => ((b.plane side).entry ((g.readOpnd self f.a t).toNat % 256)).getD 0)))

/-- The expansion of CBXP (R280). -/
def cbxpExpansion (f : RegForm) : Expansion :=
  ⟨f.mod.toNat / 64 % 8, f.mod.toNat / 8 % 8, f.mod.toNat / 2 % 4, f.fs.toNat⟩

/-- CBXP: the operand that expansion forms (R267, R268, R280). -/
def execCbxp (f : RegForm) (s : State) : Outcome State Fault Refusal :=
  issue "CBXP" s (fun l s1 =>
    let g := s1.groupAt l.ref
    let self := l.self s1
    let c := s1.core g.core
    let act := g.active self f.mask
    let x := cbxpExpansion f
    match firstTrap [x.shapeTrap c g, x.invTrap c g (threadsOf act) (g.readOpnd self f.a), x.uceTrap s1 g.core g (threadsOf act) (g.readOpnd self f.a)] with
    | some t => .trap t
    | none => doneGroup l s1 (g.pendOpnd g.nextInst l.pc f.d act f.la.toNat (fun t => x.word c g (g.readOpnd self f.a t))))

/-- CBSAVE: the bank image is stored by the split's lowest live thread (R281). -/
def execCbsave (f : RegForm) (s : State) : Outcome State Fault Refusal :=
  outsideTx "CBSAVE" s (fun l s1 =>
    let g := s1.groupAt l.ref
    let self := l.self s1
    let addr := g.readOpnd self f.a 0
    if self &&& g.live = 0 then .done s1
    else if s1.bookBusy g.core (bookBank f) then .hold s1
    else
      let a : Acc := { thr := eventThread g self, ea := addr, va := spanFrom addr 4224, val := leNat ((s1.core g.core).bank (bookBank f)).image }
      let words := List.range 257
      (memIssue l s1 self none false none none [slotWords g self f.a]
        { op := .store, space := formSpace f, align := 64, cache := 0, order := .plain, scope := 0, accs := [a], untagged := true }).orTrap
          ((s1.bookUce g.core (bookBank f) false words).orElse (fun _ => s1.bookUce g.core (bookBank f) true words)))

/-- CBSAVE with RST: the bank is loaded from an image, once nothing in flight reads it (R281). -/
def execCbsaveRst (f : RegForm) (s : State) : Outcome State Fault Refusal :=
  outsideTx "CBSAVE_RST" s (fun l s1 =>
    let g := s1.groupAt l.ref
    let self := l.self s1
    if self &&& g.live = 0 then .done s1
    else if s1.bookBusy g.core (bookBank f) || s1.bookRead g.core (bookBank f) false || s1.bookRead g.core (bookBank f) true then .hold s1
    else
      memIssue l s1 self none false none none [slotWords g self f.a]
        (bookReq g self (formSpace f) 64 (g.readOpnd self f.a 0) 528 ⟨bookBank f, 0, .image⟩))

/-- CODEBOOK_LOAD_DONE: the copy's entries are written, in the order of the copies of their bank, once no instruction in flight reads the plane (R273, R276, R278). -/
def execCodebookLoadDone (core : Nat) (copied : Checked Nat) (s : State) : Outcome State Fault Refusal :=
  let id := copied.it
  let c := s.core core
  match c.loads.find? (fun x => x.id = id) with
  | none => .next s
  | some x =>
    if (c.loads.find? (fun y => y.bank = x.bank)).map (fun y => y.id) != some id || s.bookRead core x.bank x.plane then .next s
    else
      let b := c.bank x.bank
      let p := (b.plane x.plane).writes x.first x.vals
      let p1 := match x.back with
        | some a => { p with config := p.config + 1024, back := a }
        | none => p
      .next ((s.setCore core { c.setBank x.bank (b.setPlane x.plane p1) with loads := c.loads.filter (fun y => y.id != id) }).bookWritten core x.bank x.plane
        ((List.range x.vals.length).map (fun i => (x.first + i) % 256)) copied.checks.mismatches)

end Sys2Proof.Machine
end

