-- ==== Sys2Proof/Machine/Dispatch.lean ====
section
/-! DEFINITION. The dispatcher: one arm per constructor of `Instr`, each a call of its meaning. -/

namespace Sys2Proof.Machine

open Host

/-- The effect of an instruction, or of a hardware event, on the state. -/
def exec (i : Instr) (s : State) : Host.Outcome State Fault Refusal :=
  match i with
  | .nop f => Sys2Proof.Machine.execNop f s
  | .jmp f => Sys2Proof.Machine.execJmp f s
  | .bru f => Sys2Proof.Machine.execBru f s
  | .brd f => Sys2Proof.Machine.execBrd f s
  | .rcv f => Sys2Proof.Machine.execRcv f s
  | .call f => Sys2Proof.Machine.execCall f s
  | .ret f => Sys2Proof.Machine.execRet f s
  | .jmpi f => Sys2Proof.Machine.execJmpi f s
  | .exit f => Sys2Proof.Machine.execExit f s
  | .demote f => Sys2Proof.Machine.execDemote f s
  | .yield f => Sys2Proof.Machine.execYield f s
  | .brx f => Sys2Proof.Machine.execBrx f s
  | .join f => Sys2Proof.Machine.execJoin f s
  | .trap f => Sys2Proof.Machine.execTrap f s
  | .bkpt f => Sys2Proof.Machine.execBkpt f s
  | .iadd f => Sys2Proof.Machine.execIadd f s
  | .isub f => Sys2Proof.Machine.execIsub f s
  | .imul f => Sys2Proof.Machine.execImul f s
  | .imulh f => Sys2Proof.Machine.execImulh f s
  | .imad f => Sys2Proof.Machine.execImad f s
  | .idiv f => Sys2Proof.Machine.execIdiv f s
  | .irem f => Sys2Proof.Machine.execIrem f s
  | .imin f => Sys2Proof.Machine.execImin f s
  | .imax f => Sys2Proof.Machine.execImax f s
  | .iabs f => Sys2Proof.Machine.execIabs f s
  | .ineg f => Sys2Proof.Machine.execIneg f s
  | .icmp f => Sys2Proof.Machine.execIcmp f s
  | .isel f => Sys2Proof.Machine.execIsel f s
  | .and f => Sys2Proof.Machine.execAnd f s
  | .or f => Sys2Proof.Machine.execOr f s
  | .xor f => Sys2Proof.Machine.execXor f s
  | .tlog f => Sys2Proof.Machine.execTlog f s
  | .shl f => Sys2Proof.Machine.execShl f s
  | .shr f => Sys2Proof.Machine.execShr f s
  | .sar f => Sys2Proof.Machine.execSar f s
  | .rotl f => Sys2Proof.Machine.execRotl f s
  | .shfn f => Sys2Proof.Machine.execShfn f s
  | .bext f => Sys2Proof.Machine.execBext f s
  | .bins f => Sys2Proof.Machine.execBins f s
  | .popc f => Sys2Proof.Machine.execPopc f s
  | .clz f => Sys2Proof.Machine.execClz f s
  | .ctz f => Sys2Proof.Machine.execCtz f s
  | .brev f => Sys2Proof.Machine.execBrev f s
  | .lea f => Sys2Proof.Machine.execLea f s
  | .mov f => Sys2Proof.Machine.execMov f s
  | .movi f => Sys2Proof.Machine.execMovi f s
  | .iaddi f => Sys2Proof.Machine.execIaddi f s
  | .imuli f => Sys2Proof.Machine.execImuli f s
  | .andi f => Sys2Proof.Machine.execAndi f s
  | .ori f => Sys2Proof.Machine.execOri f s
  | .xori f => Sys2Proof.Machine.execXori f s
  | .shli f => Sys2Proof.Machine.execShli f s
  | .shri f => Sys2Proof.Machine.execShri f s
  | .sari f => Sys2Proof.Machine.execSari f s
  | .icmpi f => Sys2Proof.Machine.execIcmpi f s
  | .klog f => Sys2Proof.Machine.execKlog f s
  | .kmov f => Sys2Proof.Machine.execKmov f s
  | .kpop f => Sys2Proof.Machine.execKpop f s
  | .kfind f => Sys2Proof.Machine.execKfind f s
  | .srd f => Sys2Proof.Machine.execSrd f s
  | .swr f => Sys2Proof.Machine.execSwr f s
  | .pick f => Sys2Proof.Machine.execPick f s
  | .fadd f => Sys2Proof.Machine.execFadd f s
  | .fsub f => Sys2Proof.Machine.execFsub f s
  | .fmul f => Sys2Proof.Machine.execFmul f s
  | .fmad f => Sys2Proof.Machine.execFmad f s
  | .fdiv f => Sys2Proof.Machine.execFdiv f s
  | .fsqrt f => Sys2Proof.Machine.execFsqrt f s
  | .frcp f => Sys2Proof.Machine.execFrcp f s
  | .frsq f => Sys2Proof.Machine.execFrsq f s
  | .fexp2 f => Sys2Proof.Machine.execFexp2 f s
  | .flog2 f => Sys2Proof.Machine.execFlog2 f s
  | .fmin f => Sys2Proof.Machine.execFmin f s
  | .fmax f => Sys2Proof.Machine.execFmax f s
  | .fsgn f => Sys2Proof.Machine.execFsgn f s
  | .fcmp f => Sys2Proof.Machine.execFcmp f s
  | .fclass f => Sys2Proof.Machine.execFclass f s
  | .fcmpk f => Sys2Proof.Machine.execFcmpk f s
  | .fsel f => Sys2Proof.Machine.execFsel f s
  | .fdot f => Sys2Proof.Machine.execFdot f s
  | .fsum f => Sys2Proof.Machine.execFsum f s
  | .fcvt f => Sys2Proof.Machine.execFcvt f s
  | .fcvti f => Sys2Proof.Machine.execFcvti f s
  | .fscl f => Sys2Proof.Machine.execFscl f s
  | .fbscl f => Sys2Proof.Machine.execFbscl f s
  | .famax f => Sys2Proof.Machine.execFamax f s
  | .ffrc f => Sys2Proof.Machine.execFfrc f s
  | .fdef f => Sys2Proof.Machine.execFdef f s
  | .fdrd f => Sys2Proof.Machine.execFdrd f s
  | .shfl f => Sys2Proof.Machine.execShfl f s
  | .eperm f => Sys2Proof.Machine.execEperm f s
  | .ired f => Sys2Proof.Machine.execIred f s
  | .fred f => Sys2Proof.Machine.execFred f s
  | .iscan f => Sys2Proof.Machine.execIscan f s
  | .fscan f => Sys2Proof.Machine.execFscan f s
  | .vote f => Sys2Proof.Machine.execVote f s
  | .matchLanes f => Sys2Proof.Machine.execMatchLanes f s
  | .rng f => Sys2Proof.Machine.execRng f s
  | .rngseed f => Sys2Proof.Machine.execRngseed f s
  | .elect f => Sys2Proof.Machine.execElect f s
  | .ld f => Sys2Proof.Machine.execLd f s
  | .st f => Sys2Proof.Machine.execSt f s
  | .ldp f => Sys2Proof.Machine.execLdp f s
  | .stp f => Sys2Proof.Machine.execStp f s
  | .ldv f => Sys2Proof.Machine.execLdv f s
  | .stv f => Sys2Proof.Machine.execStv f s
  | .ldbk f => Sys2Proof.Machine.execLdbk f s
  | .stbk f => Sys2Proof.Machine.execStbk f s
  | .ldu f => Sys2Proof.Machine.execLdu f s
  | .stu f => Sys2Proof.Machine.execStu f s
  | .prf f => Sys2Proof.Machine.execPrf f s
  | .cmnt f => Sys2Proof.Machine.execCmnt f s
  | .atom f => Sys2Proof.Machine.execAtom f s
  | .acas f => Sys2Proof.Machine.execAcas f s
  | .fatom f => Sys2Proof.Machine.execFatom f s
  | .fence f => Sys2Proof.Machine.execFence f s
  | .promo f => Sys2Proof.Machine.execPromo f s
  | .tbegin f => Sys2Proof.Machine.execTbegin f s
  | .tcommit f => Sys2Proof.Machine.execTcommit f s
  | .tabort f => Sys2Proof.Machine.execTabort f s
  | .ldacq f => Sys2Proof.Machine.execLdacq f s
  | .strel f => Sys2Proof.Machine.execStrel f s
  | .bar f => Sys2Proof.Machine.execBar f s
  | .bararv f => Sys2Proof.Machine.execBararv f s
  | .barwt f => Sys2Proof.Machine.execBarwt f s
  | .waitc f => Sys2Proof.Machine.execWaitc f s
  | .tbarv f => Sys2Proof.Machine.execTbarv f s
  | .tbexp f => Sys2Proof.Machine.execTbexp f s
  | .tbwait f => Sys2Proof.Machine.execTbwait f s
  | .hbar f => Sys2Proof.Machine.execHbar f s
  | .cbld f => Sys2Proof.Machine.execCbld f s
  | .cbwr f => Sys2Proof.Machine.execCbwr f s
  | .cbswap f => Sys2Proof.Machine.execCbswap f s
  | .cbbind f => Sys2Proof.Machine.execCbbind f s
  | .cbinv f => Sys2Proof.Machine.execCbinv f s
  | .cbrd f => Sys2Proof.Machine.execCbrd f s
  | .cbxp f => Sys2Proof.Machine.execCbxp f s
  | .cbsave f => Sys2Proof.Machine.execCbsave f s
  | .cbsaveRst f => Sys2Proof.Machine.execCbsaveRst f s
  | .mma f => Sys2Proof.Machine.execMma f s
  | .mmas f => Sys2Proof.Machine.execMmas f s
  | .mzero f => Sys2Proof.Machine.execMzero f s
  | .mlda f => Sys2Proof.Machine.execMlda f s
  | .mdrain f => Sys2Proof.Machine.execMdrain f s
  | .mwait f => Sys2Proof.Machine.execMwait f s
  | .msel24 f => Sys2Proof.Machine.execMsel24 f s
  | .marm f => Sys2Proof.Machine.execMarm f s
  | .cpy f => Sys2Proof.Machine.execCpy f s
  | .stgadv f => Sys2Proof.Machine.execStgadv f s
  | .gath f => Sys2Proof.Machine.execGath f s
  | .scat f => Sys2Proof.Machine.execScat f s
  | .rcpl f => Sys2Proof.Machine.execRcpl f s
  | .cpyst f => Sys2Proof.Machine.execCpyst f s
  | .rld f => Sys2Proof.Machine.execRld f s
  | .rst f => Sys2Proof.Machine.execRst f s
  | .ratom f => Sys2Proof.Machine.execRatom f s
  | .rcas f => Sys2Proof.Machine.execRcas f s
  | .rget f => Sys2Proof.Machine.execRget f s
  | .rput f => Sys2Proof.Machine.execRput f s
  | .rsig f => Sys2Proof.Machine.execRsig f s
  | .dred f => Sys2Proof.Machine.execDred f s
  | .lnch f => Sys2Proof.Machine.execLnch f s
  | .lnchd f => Sys2Proof.Machine.execLnchd f s
  | .lntrg f => Sys2Proof.Machine.execLntrg f s
  | .gsig f => Sys2Proof.Machine.execGsig f s
  | .sysc f => Sys2Proof.Machine.execSysc f s
  | .rtt f => Sys2Proof.Machine.execRtt f s
  | .psafe f => Sys2Proof.Machine.execPsafe f s
  | .idem f => Sys2Proof.Machine.execIdem f s
  | .slotSelect core slot => Sys2Proof.Machine.execSlotSelect core slot s
  | .splitUrgent r => Sys2Proof.Machine.execSplitUrgent r s
  | .instructionFetch r => Sys2Proof.Machine.execInstructionFetch r s
  | .priResponse djid va success => Sys2Proof.Machine.execPriResponse djid va success s
  | .resultArrival team grp id mismatches => Sys2Proof.Machine.execResultArrival team grp id mismatches s
  | .storePerformed e failures => Sys2Proof.Machine.execStorePerformed e failures s
  | .deferredTrap team grp => Sys2Proof.Machine.execDeferredTrap team grp s
  | .pagerLaunchStart rcb => Sys2Proof.Machine.execPagerLaunchStart rcb s
  | .pagerResponse die resp => Sys2Proof.Machine.execPagerResponse die resp s
  | .pagerTimeout die reqid => Sys2Proof.Machine.execPagerTimeout die reqid s
  | .barstallWatchdog r => Sys2Proof.Machine.execBarstallWatchdog r s
  | .waitcRelease r => Sys2Proof.Machine.execWaitcRelease r s
  | .promoWritebackDone r => Sys2Proof.Machine.execPromoWritebackDone r s
  | .commitArrival team grp => Sys2Proof.Machine.execCommitArrival team grp s
  | .tcommitAnswer team grp => Sys2Proof.Machine.execTcommitAnswer team grp s
  | .codebookLoadDone core id => Sys2Proof.Machine.execCodebookLoadDone core id s
  | .matrixArrayStart core => Sys2Proof.Machine.execMatrixArrayStart core s
  | .matrixComplete core id => Sys2Proof.Machine.execMatrixComplete core id s
  | .drainPeerTimeout core id => Sys2Proof.Machine.execDrainPeerTimeout core id s
  | .engineOpStart cluster tag => Sys2Proof.Machine.execEngineOpStart cluster tag s
  | .engineSectorWrite cluster tag => Sys2Proof.Machine.execEngineSectorWrite cluster tag s
  | .engineOpComplete cluster tag => Sys2Proof.Machine.execEngineOpComplete cluster tag s
  | .tagSweep => Sys2Proof.Machine.execTagSweep s
  | .hbarCombinerArrival launch scope place => Sys2Proof.Machine.execHbarCombinerArrival launch scope place s
  | .hbarRelease launch scope place => Sys2Proof.Machine.execHbarRelease launch scope place s
  | .preemptRequest team => Sys2Proof.Machine.execPreemptRequest team s
  | .preemptForceStop team grp => Sys2Proof.Machine.execPreemptForceStop team grp s
  | .preemptSave team => Sys2Proof.Machine.execPreemptSave team s
  | .replyToImage p => Sys2Proof.Machine.execReplyToImage p s
  | .teamRestore team core => Sys2Proof.Machine.execTeamRestore team core s
  | .teamPlace die => Sys2Proof.Machine.execTeamPlace die s
  | .groupRetire team grp => Sys2Proof.Machine.execGroupRetire team grp s
  | .launchComplete id => Sys2Proof.Machine.execLaunchComplete id s
  | .armedSuccessorStart id => Sys2Proof.Machine.execArmedSuccessorStart id s
  | .qwrite q v => Sys2Proof.Machine.execQwrite q v s
  | .qdoorCandidate q => Sys2Proof.Machine.execQdoorCandidate q s
  | .queueErrClear q => Sys2Proof.Machine.execQueueErrClear q s
  | .queueLaunch q => Sys2Proof.Machine.execQueueLaunch q s
  | .queueGraph q => Sys2Proof.Machine.execQueueGraph q s
  | .queueWait q => Sys2Proof.Machine.execQueueWait q s
  | .queueWaitSatisfied q => Sys2Proof.Machine.execQueueWaitSatisfied q s
  | .queueSignal q => Sys2Proof.Machine.execQueueSignal q s
  | .queueNop q => Sys2Proof.Machine.execQueueNop q s
  | .queueInval q => Sys2Proof.Machine.execQueueInval q s
  | .graphNodeArrival inst => Sys2Proof.Machine.execGraphNodeArrival inst s
  | .graphInstanceComplete inst => Sys2Proof.Machine.execGraphInstanceComplete inst s
  | .heldRecordPost rcb => Sys2Proof.Machine.execHeldRecordPost rcb s
  | .msixCoalesce rcb => Sys2Proof.Machine.execMsixCoalesce rcb s
  | .bar2Write off bytes => Sys2Proof.Machine.execBar2Write off bytes s
  | .bar2Read off n => Sys2Proof.Machine.execBar2Read off n s
  | .atsInvalidate base size => Sys2Proof.Machine.execAtsInvalidate base size s
  | .invgo log => Sys2Proof.Machine.execInvgo log s
  | .invalidationComplete => Sys2Proof.Machine.execInvalidationComplete s
  | .reqfull => Sys2Proof.Machine.execReqfull s
  | .reqbasic => Sys2Proof.Machine.execReqbasic s
  | .calibrationDone ok => Sys2Proof.Machine.execCalibrationDone ok s
  | .calibrationTimeout => Sys2Proof.Machine.execCalibrationTimeout s
  | .registerWrite off v => Sys2Proof.Machine.execRegisterWrite off v s
  | .packageReset images diesOk stacksOk => Sys2Proof.Machine.execPackageReset images diesOk stacksOk s
  | .recoveryImageLoad sigOk formOk version raise diesOk stacksOk => Sys2Proof.Machine.execRecoveryImageLoad sigOk formOk version raise diesOk stacksOk s
  | .spdmRequest index => Sys2Proof.Machine.execSpdmRequest index s
  | .supplyFault => Sys2Proof.Machine.execSupplyFault s
  | .clockStepDown power tinlet tjmax => Sys2Proof.Machine.execClockStepDown power tinlet tjmax s
  | .clockStepUp power tinlet tjmax => Sys2Proof.Machine.execClockStepUp power tinlet tjmax s
  | .thermalTrip => Sys2Proof.Machine.execThermalTrip s
  | .scrub die source corrected uncorrectable found => Sys2Proof.Machine.execScrub die source corrected uncorrectable found s
  | .fabricConfigWrite off v => Sys2Proof.Machine.execFabricConfigWrite off v s
  | .rtload => Sys2Proof.Machine.execRtload s
  | .routeTableLoaded => Sys2Proof.Machine.execRouteTableLoaded s
  | .pcfgWrite p v => Sys2Proof.Machine.execPcfgWrite p v s
  | .lockPort p => Sys2Proof.Machine.execLockPort p s
  | .startPort p => Sys2Proof.Machine.execStartPort p s
  | .stopPort p => Sys2Proof.Machine.execStopPort p s
  | .portStopDrained p => Sys2Proof.Machine.execPortStopDrained p s
  | .linkTrained p good => Sys2Proof.Machine.execLinkTrained p good s
  | .laneFail p lane => Sys2Proof.Machine.execLaneFail p lane s
  | .retrainComplete p inTime => Sys2Proof.Machine.execRetrainComplete p inTime s
  | .portDown p => Sys2Proof.Machine.execPortDown p s
  | .rxBankError p bank => Sys2Proof.Machine.execRxBankError p bank s
  | .sessionAttempt p verified peerPkg peerPort => Sys2Proof.Machine.execSessionAttempt p verified peerPkg peerPort s
  | .keyUpdate p ok => Sys2Proof.Machine.execKeyUpdate p ok s
  | .flitReceive p f fecOk tagOk => Sys2Proof.Machine.execFlitReceive p f fecOk tagOk s
  | .idleMsg p => Sys2Proof.Machine.execIdleMsg p s
  | .replayMsg p seq => Sys2Proof.Machine.execReplayMsg p seq s
  | .vcadvMsg p top => Sys2Proof.Machine.execVcadvMsg p top s
  | .spdmMsg p bytes => Sys2Proof.Machine.execSpdmMsg p bytes s
  | .resumeMsg p seq => Sys2Proof.Machine.execResumeMsg p seq s
  | .stateMsg p lstate => Sys2Proof.Machine.execStateMsg p lstate s
  | .peerSilenceTimeout p => Sys2Proof.Machine.execPeerSilenceTimeout p s
  | .packetRoute => Sys2Proof.Machine.execPacketRoute s
  | .loadReq p => Sys2Proof.Machine.execLoadReq p s
  | .storeReq p => Sys2Proof.Machine.execStoreReq p s
  | .atomicReq p => Sys2Proof.Machine.execAtomicReq p s
  | .casReq p => Sys2Proof.Machine.execCasReq p s
  | .tbarriveReq p => Sys2Proof.Machine.execTbarriveReq p s
  | .getreadReq p => Sys2Proof.Machine.execGetreadReq p s
  | .putwriteReq p => Sys2Proof.Machine.execPutwriteReq p s
  | .drainReq p => Sys2Proof.Machine.execDrainReq p s
  | .txlineReq p => Sys2Proof.Machine.execTxlineReq p s
  | .txcommitReq p => Sys2Proof.Machine.execTxcommitReq p s
  | .reducePkt p => Sys2Proof.Machine.execReducePkt p s
  | .dredResult launch => Sys2Proof.Machine.execDredResult launch s
  | .dredPhaseTimeout launch => Sys2Proof.Machine.execDredPhaseTimeout launch s
  | .remoteResponse p => Sys2Proof.Machine.execRemoteResponse p s
  | .requestResend dest cls eseq => Sys2Proof.Machine.execRequestResend dest cls eseq s
  | .remoteTimeout dest cls eseq => Sys2Proof.Machine.execRemoteTimeout dest cls eseq s
  | .atsCompletion pa host => Sys2Proof.Machine.execAtsCompletion pa host s

end Sys2Proof.Machine
end

