-- ==== Sys2Proof/Machine/Run.lean ====
section
/-! DEFINITION. One selected split issuing (R59, R77 to R80, R201), and what the machine does of itself when nothing is on the agenda (log 2). -/

namespace Sys2Proof.Machine

open Host

/-- The split stays at its instruction; it is looked at again later (R200). -/
def State.hold (s : State) (r : SplitRef) : State :=
  let sp := s.splitAt r
  (s.setSplitAt r { sp with st := (if sp.st = 1 || sp.st = 6 then 2 else sp.st) }).miss r

/-- Run a fetched instruction: its ILLOP trap, a hazard that holds it, or its meaning. -/
def State.issueWords (s : State) (r : SplitRef) (w0 w1 : Word) : Outcome State Fault Refusal :=
  let l : Latch := ⟨r, (s.splitAt r).pc, w0, w1⟩
  match decodeWords (s.decodeCtx r) w0 w1 with
  | .error cause => .next (s.takeTrap l { code := 0x01, aux := cause })
  | .ok i => if s.hazard r i then .next (s.hold r) else exec i { s with latch := some l }

/-- Fetch the next instruction of a split and run it (R59, R200). -/
def State.issueFetched (s : State) (r : SplitRef) : Outcome State Fault Refusal :=
  match s.fetch r.team (s.groupAt r).core (s.splitAt r).pc with
  | .words s1 w0 w1 => s1.issueWords r w0 w1
  | .page va => .next (s.parkFetch r va)
  | .host s1 => .next (s1.hold r)
  | .trap cause w0 addr => .next (s.fetchFault r cause w0 addr)

/-- Show a group a set of trap registers. -/
def State.showTrap (s : State) (r : SplitRef) (trap trapAddr : AMap Word) : State :=
  s.setGroupAt r { s.groupAt r with trap := trap, trapAddr := trapAddr }

/-- Issue the second instruction of a co-issued pair: it completes though the first has trapped, and reads the trap registers as they were before that (R81, R316). -/
def State.issueMate (s : State) (m : Mate) : Outcome State Fault Refusal :=
  let g := s.groupAt m.ref
  if g.trap = m.trap && g.trapAddr = m.trapAddr then s.issueFetched m.ref
  else
    match (s.showTrap m.ref m.trap m.trapAddr).issueFetched m.ref with
    | .next t =>
      if (t.groupAt m.ref).trap = m.trap && (t.groupAt m.ref).trapAddr = m.trapAddr then .next (t.showTrap m.ref g.trap g.trapAddr)
      else s.issueFetched m.ref
    | o => o

/-- Issue the next instruction of a selected split (R59, R200). A split that can no longer issue is passed over. -/
def State.issueSplit (s : State) (r : SplitRef) : Outcome State Fault Refusal :=
  let s1 := { s with mates := s.mates.filter (fun m => m.ref != r) }
  if !(s.groupAt r).issuable r.split || s.exhausted r then .next (s1.miss r)
  else
    match s.mates.find? (fun m => m.ref = r) with
    | some m => s1.issueMate m
    | none => if (s.groupAt r).stopped then .next s1 else s1.issueFetched r

/-! ### What the package does of itself (log 2) -/

/-- Handle a delivered packet: a response by its owner's team, resident or saved; a request by its opcode. -/
def State.handlePacket (s : State) (p : Packet) : Outcome State Fault Refusal :=
  if p.resp then
    match s.requestOf p with
    | some r => if s.frozen r then execReplyToImage p s else execRemoteResponse p s
    | none => execRemoteResponse p s
  else
    match p.op with
    | 0x01 => execLoadReq p s
    | 0x02 => execStoreReq { it := p } s
    | 0x03 => execAtomicReq p s
    | 0x04 => execCasReq p s
    | 0x05 => execTbarriveReq p s
    | 0x06 => execGetreadReq p s
    | 0x07 => execPutwriteReq { it := p } s
    | 0x08 => execDrainReq p s
    | 0x09 => execTxlineReq p s
    | 0x0A => execTxcommitReq p s
    | 0x0B => execReducePkt p s
    | _ => .next s

/-- One of the package's own events. The compiler numbers only the first 244 constructors of `Instr`, so the fabric's events stand here by their meanings. -/
inductive Own where
  | ev (i : Instr)
  | dredResult (launch : Nat)
  | route
  | packet (p : Packet)

/-- The meaning of an own event. -/
def Own.run (e : Own) (s : State) : Outcome State Fault Refusal :=
  match e with
  | .ev i => exec i s
  | .dredResult id => execDredResult id s
  | .route => execPacketRoute s
  | .packet p => s.handlePacket p

/-- What may happen to the groups of a resident or saved team: results, traps, waits, commits, pre-emption, retirement. -/
def teamEvents (t : Nat) (x : Team) : List Instr :=
  [.preemptRequest t, .preemptSave t] ++ (if x.saved.isSome || x.restoring then (List.range 8).map (fun i => .teamRestore t (clusterOf x.core * 8 + i)) else []) ++
    x.groups.flatMap (fun (g : Nat × Group) =>
      (g.2.pends.filter (fun p => p.src = .ready && !p.arrived)).map (fun p => Instr.resultArrival t g.1 p.id 0) ++
      (if g.2.deferred.isEmpty then [] else [.deferredTrap t g.1]) ++
      (if g.2.tx.isSome then [.commitArrival t g.1, .tcommitAnswer t g.1] else []) ++
      (if !g.2.retired && (g.2.present = 0 || g.2.stopped) then [.groupRetire t g.1] else []) ++
      (if x.preempt then [.preemptForceStop t g.1] else []) ++
      g.2.usedSplits.flatMap (fun i =>
        match (g.2.split i).wait with
        | .counted _ _ _ _ _ => [.waitcRelease ⟨t, g.1, i⟩]
        | .promo _ => [.promoWritebackDone ⟨t, g.1, i⟩]
        | _ => []))

/-- What a core's codebook copies and arrays may do. -/
def coreEvents (c : Nat) (x : Core) : List Instr :=
  x.loads.map (fun l => .codebookLoadDone c { it := l.id }) ++ (if x.order.isEmpty then [] else [.matrixArrayStart { it := c }]) ++
    (x.order.filter (fun o => o.started && !o.copy)).map (fun o => .matrixComplete c o.id)

/-- What a cluster's engine operations may do. -/
def clusterEvents (k : Nat) (x : Cluster) : List Instr :=
  x.ops.flatMap (fun o => if o.started then [.engineSectorWrite k { it := o.tag }, .engineOpComplete k o.tag] else [.engineOpStart k o.tag])

/-- What Madder may do with a launch, and its HBAR combiners. -/
def launchEvents (id : Nat) (l : Launch) : List Own :=
  if l.complete then []
  else
    [.ev (.launchComplete id)] ++ (if l.held then [.ev (.armedSuccessorStart id)] else []) ++
      (if l.lrec.coop then
        [2, 3, 4, 5].flatMap (fun scope =>
          (ascending (l.places.map (fun (p : Nat × Nat) => clusterOf p.2))).flatMap (fun c =>
            [.ev (.hbarCombinerArrival id scope c), .ev (.hbarCombinerArrival id scope (512 + c / 64)), .ev (.hbarCombinerArrival id scope 520),
             .ev (.hbarRelease id scope c)]))
       else []) ++
      (if l.lrec.dbgrp = 0 then [] else [.dredResult id])

/-- What Madder may do with a queue: read its doorbell word, take its head, or end a wait. -/
def queueEvents (q : Nat) (x : Queue) : List Instr :=
  (if x.qdoor = 0 then [] else [.qdoorCandidate q]) ++
    (if x.qread = x.eff && x.taken.isEmpty then [] else
      [.queueLaunch q, .queueGraph q, .queueWait q, .queueWaitSatisfied q, .queueSignal q, .queueNop q, .queueInval q])

/-- The events that the package brings about by itself, where they are enabled. Those that the outside world or a physical cause decides come through the agenda. -/
def State.internal (s : State) : List Own :=
  let here : List Instr :=
    s.teams.flatMap (fun (t : Nat × Team) => teamEvents t.1 t.2) ++ s.stores.map (fun p => Instr.storePerformed (.performed p.id) {}) ++
    s.cores.flatMap (fun (c : Nat × Core) => coreEvents c.1 c.2) ++ s.clusters.flatMap (fun (c : Nat × Cluster) => clusterEvents c.1 c.2) ++
    (List.range 8).map (fun d => Instr.teamPlace d) ++ s.queues.flatMap (fun (q : Nat × Queue) => queueEvents q.1 q.2) ++
    s.graphs.flatMap (fun (g : Nat × Graph) => [.graphNodeArrival g.1, .graphInstanceComplete g.1]) ++
    s.rings.flatMap (fun (r : Nat × Ring) => [Instr.heldRecordPost r.2.region.rcb] ++ (if r.2.window then [.msixCoalesce r.2.region.rcb] else [])) ++
    s.rings.flatMap (fun (r : Nat × Ring) => if r.2.region.pager = 2 then [.pagerLaunchStart r.2.region.rcb] else []) ++
    (if s.invals.isEmpty then [] else [.invalidationComplete]) ++ (if s.sweepOwed then [.tagSweep] else []) ++
    (if s.fab.loading then [.routeTableLoaded] else []) ++
    s.fab.ports.flatMap (fun (p : Nat × Port) => if p.2.stopping && p.2.retained.isEmpty then [.portStopDrained p.1] else [])
  here.map Own.ev ++ s.launches.flatMap (fun (l : Nat × Launch) => launchEvents l.1 l.2) ++
    (if s.fab.net.isEmpty && !s.fab.ports.any (fun p => p.2.owesFlit) then [] else [.route]) ++ s.fab.inbox.map Own.packet

/-- One of the package's own events, in rotation. -/
def State.ownEvent (s : State) : Outcome State Fault Refusal :=
  let xs := s.internal
  match xs[(s.turn / 2) % xs.length]? with
  | some e => e.run s
  | none => .next s

/-- The cores that hold groups, with their slots. -/
def State.busySlots (s : State) : List (Nat × Nat) :=
  (ascending (s.teams.flatMap (fun (t : Nat × Team) => if t.2.saved.isSome then [] else t.2.groups.map (fun g => g.2.core)))).flatMap
    (fun c => (List.range 4).map (fun i => (c, i)))

/-- The next slot of a busy core has its turn; after the last one, and where no core is busy, the next cycle begins. Logged instructions whose replay was held are tried again. -/
def State.issueTurn (s : State) : Outcome State Fault Refusal :=
  let s1 := s.replayAll
  let xs := s1.busySlots
  match (xs.find? (fun x => decide (s1.slotAt ≤ 4 * x.1 + x.2))).orElse (fun _ => xs.head?) with
  | some x => exec (.slotSelect x.1 x.2) s1
  | none => .next s1.newCycle

/-- The oldest issued store that nothing holds back. -/
def State.readyStore (s : State) : Option Nat :=
  (s.stores.find? (fun p => !((s.stores.takeWhile (fun q => q.id != p.id)).any (fun q => q.before p) || cellsLocked s.lockedLines p.cells || s.matrixReads p))).map (fun p => p.id)

/-- What the package does when nothing is on the agenda: verify its firmware at reset, else perform the stores that may be, then its own events and issue cycles by turns (R455, R457; log 2). -/
def State.autopilot (s : State) : Outcome State Fault Refusal :=
  if s.ctl.service = 0 then exec (.packageReset [{ version := s.ctl.minSvn }] 0xFF 0xFFFF) s
  else if s.running then
    match s.readyStore with
    | some id => exec (.storePerformed (.performed id) {}) s
    | none =>
      let s1 := { s with turn := s.turn + 1 }
      if s.turn % 2 = 0 then s1.ownEvent else s1.issueTurn
  else .next s

end Sys2Proof.Machine
end

