-- ==== Sys2Proof/Machine/Step.lean ====
section
/-! DEFINITION. One step of the package, and a state that runs a given instruction next. -/

namespace Sys2Proof.Machine

open Host

/-- One step: the first event of the agenda, of which a package in FAILED lets pass what is not the host's (R459, R460); else the first split selected to issue; else what the machine does of itself (log 2). -/
def step (s : State) : Outcome State Fault Refusal :=
  match s.agenda with
  | e :: rest => if s.ctl.service = 4 && !happensInFailed e then .next { s with agenda := rest } else exec e { s with agenda := rest }
  | [] =>
    match s.issueQ with
    | r :: rest => ({ s with issueQ := rest } : State).issueSplit r
    | [] => s.autopilot

/-- Address at which `withFetchWord` places its instruction. -/
def fetchBase : Nat := 0x10000

/-- The page that maps it to the same physical address. -/
def fetchLeaf : Leaf := ⟨0, 0x10000, 16, 0x10000, 0, 0, 0, false, false, true, true⟩

/-- The group that runs it: 192 registers, all threads live, one split; in its handler where the instruction is RTT. -/
def fetchGroup (rtt : Bool) : Group :=
  { alloc := 192, live := 0xFFFFFFFF, frames := freshFrames
    splits := (freshSplits 0xFFFFFFFF (wd fetchBase)).map (fun sp => if sp.st = 1 && rtt then { sp with st := 6, handler := true } else sp) }

/-- The launch it belongs to: every bank, tile and recipe slot, a domain group, COOP (log 11). -/
def fetchLaunch : Launch :=
  { id := 1, started := true, lrec := { coop := true, alloc := 192, bmask := 255, tmask := 15, rmask := 255, dbgrp := 1, scratch := 0x80000 } }

/-- The state with an instruction stored where the next step fetches: a resident group of a launch stands at it and is selected to issue (log 11). -/
def State.withFetchWord (s : State) (nbits w : Nat) : State :=
  let t : Team := { launch := 1, groups := [(0, fetchGroup (bitsOf w 63 56 = 0xE9))] }
  let s1 : State := { s with agenda := [], issueQ := [⟨0, 0, 0⟩], mates := [], latch := none, teams := [(0, t)], launches := [(1, fetchLaunch)], ctl := { s.ctl with service := 2 } }
  (s1.setCore 0 { s1.core 0 with tlb := [fetchLeaf] }).writePhys fetchBase (leBytes 16 (w % 2 ^ nbits))

end Sys2Proof.Machine
end

