-- ==== Sys2Proof/Safety.lean ====
section
/-! DEFINITION. What counts as a safe run, and the words the statements are written in: an instruction issuing, what it leaves alone, what it writes at once and what it leaves pending. -/

namespace Sys2Proof.Machine

open Host

/-! ### Safe outcomes -/

/-- The outcome is a next state: the machine goes on. -/
def goesOn (o : Outcome State Fault Refusal) : Bool :=
  match o with
  | .next _ => true
  | _ => false

/-- Memory, host memory included, is in its canonical form, and each core's L1 lists its bytes by rising key. -/
def State.canonical (s : State) : Bool := Memory.wf s.mem && Memory.wf s.host && s.cores.all (fun c => AMap.sorted c.2.l1)

/-! ### An instruction issuing -/

/-- No word of a memory or tile is uncorrectable, no register of the group, none of its results has failed its read check, and no sector is to fail a test of its code (R397 to R399). -/
def State.sound (s : State) (r : SplitRef) : Bool :=
  s.bad.isEmpty && s.tests.isEmpty && (s.groupAt r).bad.isEmpty && (s.groupAt r).pends.all (fun p => !p.failed)

/-- The instruction of `l` is issuing on an entry of its group's split table, and it can meet no uncorrectable word. -/
def State.issuing (s : State) (l : Latch) : Bool :=
  s.latch == some l && (s.groupAt l.ref).splits.length == 8 && decide (l.ref.split < 8) && s.sound l.ref

/-- No result that has arrived is held for a window of register field `r`: what an instruction's issue might still write there (R72, R202). -/
def Group.quiet (g : Group) (r : Nat) : Bool := g.pends.all (fun p => !(p.arrived && p.reg == r))

/-- The active set of an instruction (R10, R11). -/
def State.activeSet (s : State) (l : Latch) (m : Mask) : Half := (s.groupAt l.ref).active (l.self s) m

/-- An operand as the issuing instruction reads it in thread `t` (R13). -/
def State.operand (s : State) (l : Latch) (o : Opnd) (t : Nat) : Word := (s.groupAt l.ref).readOpnd (l.self s) o t

/-- A group without its register files, pending writes, split table and issue counters. -/
def Group.rest (g : Group) : Group :=
  { g with v := [], g := [], k := [], pends := [], nextPend := 0, splits := [], nextInst := 0, preCount := 0, counted := 0 }

/-- `t` differs from `s` in one group alone, and in the latch: every other group, team, core, cluster, die and launch, all memory and all control registers are the same. -/
structure State.SameBut (s t : State) (r : SplitRef) : Prop where
  teams : ∀ a, a ≠ r.team → t.team a = s.team a
  team : { t.team r.team with groups := [] } = { s.team r.team with groups := [] }
  groups : ∀ b, b ≠ r.grp → t.group r.team b = s.group r.team b
  rest : { t with teams := [], latch := none } = { s with teams := [], latch := none }

/-- The issuing split has moved to `pc`, and of its group nothing else has changed but register files and pending writes. -/
structure State.Moved (s t : State) (l : Latch) (pc : Word) : Prop where
  latch : t.latch = none
  split : t.splitAt l.ref = { s.splitAt l.ref with pc := pc, waitCnt := 0, urgent := false }
  splits : ∀ i, i ≠ l.ref.split → (t.groupAt l.ref).split i = (s.groupAt l.ref).split i
  rest : (t.groupAt l.ref).rest = (s.groupAt l.ref).rest
  count : (t.groupAt l.ref).nextInst = (s.groupAt l.ref).nextInst + 1

/-- The instruction has passed: its split has moved to `pc`, and nothing outside its group has changed. -/
structure State.Passed (s t : State) (l : Latch) (pc : Word) : Prop where
  others : s.SameBut t l.ref
  moved : s.Moved t l pc

/-- The issuing split has moved to `pc`, and nothing has changed but register files, pending writes and what `forget` leaves out of its group. -/
structure State.Went (s t : State) (l : Latch) (pc : Word) (forget : Group → Group) : Prop where
  others : s.SameBut t l.ref
  latch : t.latch = none
  split : t.splitAt l.ref = { s.splitAt l.ref with pc := pc, waitCnt := 0, urgent := false }
  splits : ∀ i, i ≠ l.ref.split → (t.groupAt l.ref).split i = (s.groupAt l.ref).split i
  rest : forget (t.groupAt l.ref).rest = forget (s.groupAt l.ref).rest
  count : (t.groupAt l.ref).nextInst = (s.groupAt l.ref).nextInst + 1

/-- Between `g` and `h`, D received `val` in the threads of `m`, as R9 to R12 say, and no other register changed. A register for which a result is held back by a window is left out, since that result may be written. -/
structure Group.Wrote (g h : Group) (m : Half) (d : Opnd) (val : Nat → Word) : Prop where
  vec : ∀ (n : Fin 192) (t : Nat), t < 32 → g.quiet n.val = true →
    h.readV n.val t = if d = .v n ∧ m.getLsbD t = true then val t else g.readV n.val t
  uni : ∀ n : Fin 48, g.quiet (192 + n.val) = true → h.readG n.val = if d = .g n then val 0 else g.readG n.val
  msk : ∀ (n : Fin 8) (t : Nat), n.val ≠ 0 → t < 32 →
    (h.readK 0 n.val).getLsbD t = if d = .k n ∧ m.getLsbD t = true then (val t != 0) else (g.readK 0 n.val).getLsbD t

/-- No register of the three files changed, but where a held result may have been written. -/
def Group.Kept (g h : Group) : Prop := g.Wrote h 0 .vz (fun _ => 0)

/-- The instruction writes `val` to D in its active threads at once, and nothing else happens. -/
def State.Writes (s t : State) (l : Latch) (m : Mask) (d : Opnd) (val : Nat → Word) : Prop :=
  s.Passed t l l.next ∧ (s.groupAt l.ref).Wrote (t.groupAt l.ref) (s.activeSet l m) d val

/-- The result of the instruction issuing is pending for register field `r` in the threads of `m`, with the values it will write, ready to arrive (R201, R202). A g-register receives one value. -/
def Group.Pends (g h : Group) (r : Nat) (m : Half) (val : Nat → Word) : Prop :=
  ∃ p ∈ h.pends, p.inst = g.nextInst ∧ p.reg = r ∧ p.mask = m ∧ p.src = .ready ∧ p.arrived = false ∧
    (if 192 ≤ r then AMap.get p.vals 0 0 = val 0 else ∀ t, t < 32 → m.getLsbD t = true → AMap.get p.vals t 0 = val t)

/-- `val` is pending for D in the threads of `m`, if there are any, and no register has changed (R201). -/
structure Group.Awaits (g h : Group) (m : Half) (d : Opnd) (val : Nat → Word) : Prop where
  kept : g.Kept h
  vec : ∀ n : Fin 192, d = .v n → m ≠ 0 → g.Pends h n.val m val
  uni : ∀ n : Fin 48, d = .g n → m ≠ 0 → g.Pends h (192 + n.val) m val

/-- A long-latency instruction has issued: no register has changed, and `val` is pending for D in its active threads, if there are any; nothing else happens (R201). -/
def State.Starts (s t : State) (l : Latch) (m : Mask) (d : Opnd) (val : Nat → Word) : Prop :=
  s.Passed t l l.next ∧ (s.groupAt l.ref).Awaits (t.groupAt l.ref) (s.activeSet l m) d val

/-- Instruction `i`, whose sources `srcs` R12 looks at, is performed as its rule says: where D may be a g-register with these sources it passes, and D receives `val`. -/
def State.Computes (s : State) (l : Latch) (m : Mask) (d : Opnd) (i : Instr) (srcs : List Opnd) (val : Nat → Word) : Prop :=
  uniformBad d srcs = false → ∃ t, exec i s = .next t ∧ s.Writes t l m d val

/-- The same for a long-latency instruction: `val` is pending for D. -/
def State.Begins (s : State) (l : Latch) (m : Mask) (d : Opnd) (i : Instr) (srcs : List Opnd) (val : Nat → Word) : Prop :=
  uniformBad d srcs = false → ∃ t, exec i s = .next t ∧ s.Starts t l m d val

/-- An instruction whose result is one word `w` passes: a g-register receives it, a v-register in each active thread, a k-register its low 32 bits, all of them; vz nothing. -/
def State.WritesOnce (s : State) (l : Latch) (m : Mask) (d : Opnd) (i : Instr) (w : Word) : Prop :=
  ∃ t, exec i s = .next t ∧ s.Passed t l l.next ∧
    match d with
    | .k n => (s.groupAt l.ref).Wrote (t.groupAt l.ref) 0xFFFFFFFF (.k n) (fun b => wordOfBool (w.getLsbD b))
    | _ => (s.groupAt l.ref).Wrote (t.groupAt l.ref) (s.activeSet l m) d (fun _ => w)

/-! ### Format instructions -/

/-- The format of a slot of the issuing group. -/
def State.fmtAt (s : State) (l : Latch) (n : Nat) : Fmt := (s.groupAt l.ref).fmt n

/-- Operand A or B of a format instruction in a thread: its word, expanded through a codebook where the instruction says so (R264). -/
def State.fmtSource (s : State) (l : Latch) (f : FmtForm) (x : Bool) (slot : Nat) (o : Opnd) (t : Nat) : Word :=
  match fmtExpansion f x slot with
  | some e => e.word (s.core (s.groupAt l.ref).core) (s.groupAt l.ref) (s.operand l o t)
  | none => s.operand l o t

/-- The codebook checks of a format instruction raise no trap (R267, R268). -/
def State.fmtClear (s : State) (l : Latch) (f : FmtForm) (slot : Nat) : Prop :=
  let c := s.core (s.groupAt l.ref).core
  let g := s.groupAt l.ref
  let ts := threadsOf (s.activeSet l f.mask)
  (fmtExpansion f f.xa slot).bind (fun x => x.shapeTrap c g) = none ∧ (fmtExpansion f f.xb slot).bind (fun x => x.shapeTrap c g) = none ∧
    (fmtExpansion f f.xa slot).bind (fun x => x.invTrap c g ts (s.operand l f.a)) = none ∧
    (fmtExpansion f f.xb slot).bind (fun x => x.invTrap c g ts (s.operand l f.b)) = none

/-! ### Memory instructions -/

/-- What core `c` sees at a location key: its L1's byte, or else memory's (R218). -/
def State.sees (s : State) (c k : Nat) : Byte :=
  match (s.core c).l1At k with
  | some b => b.val
  | none => s.mem.read k

/-- Nothing outside the group of `r`, the L1s, the TLBs, the issued stores, memory, and the doorbells that a store has rung has changed. -/
structure State.Local (s t : State) (r : SplitRef) : Prop where
  teams : ∀ a, a ≠ r.team → t.team a = s.team a
  team : { t.team r.team with groups := [] } = { s.team r.team with groups := [] }
  groups : ∀ b, b ≠ r.grp → t.group r.team b = s.group r.team b
  launches : t.launches = s.launches
  queues : t.queues.map (fun q => (q.1, { q.2 with doorDue := false })) = s.queues.map (fun q => (q.1, { q.2 with doorDue := false })) ∧ t.graphs = s.graphs ∧ t.rings = s.rings
  clusters : t.clusters = s.clusters
  control : t.ctl = s.ctl ∧ t.fab = s.fab

/-- Memory is as it was, but that the L1 of core `c` may have written dirty bytes back, filled lines, and dropped clean bytes. -/
structure State.KeepsMemory (s t : State) (c : Nat) : Prop where
  host : t.host = s.host
  stores : t.stores = s.stores
  home : ∀ k, t.mem.read k = s.mem.read k ∨ ∃ b, (s.core c).l1At k = some b ∧ b.dirty = true ∧ t.mem.read k = b.val
  own : ∀ k, t.sees c k = s.sees c k ∨ t.sees c k = s.mem.read k
  others : ∀ d, d ≠ c → (t.core d).l1 = (s.core d).l1

/-- Memory and every L1 are as they were. -/
structure State.SameMemory (s t : State) : Prop where
  host : t.host = s.host
  home : t.mem = s.mem
  l1 : ∀ c, (t.core c).l1 = (s.core c).l1

/-- The identity of the instruction issuing. -/
def State.whoAt (s : State) (l : Latch) : MemWho := ⟨l.ref.team, l.ref.grp, l.ref.split, (s.groupAt l.ref).nextInst, l.pc, l.w0, l.w1⟩

/-- The accesses of a request are reads. -/
def MemReq.kind (r : MemReq) : Kind := if r.op = .load then .read else .write

/-- The translation of a byte that an access reaches (R382 to R386). -/
def State.reachedPage (s : State) (l : Latch) (req : MemReq) (v : Nat) : Xlate :=
  let x := s.xctx l.ref.team (s.groupAt l.ref).core
  s.xlate x.core x.die x.djid x.root x.pager (v / 65536 * 65536) req.kind

/-- The cells of an access: of the scratchpad, or of each byte under its page (R212, R215, R383). -/
def State.reached (s : State) (l : Latch) (req : MemReq) (a : Acc) : List Cell :=
  let g := s.groupAt l.ref
  if req.space = .scratch then s.spCells l.ref.team g.core a
  else (s.mapped l.ref.team g req.space a).map (fun v => match s.reachedPage l req v with
    | .ok leaf => leaf.cell v req.cache (req.strong (s.team l.ref.team).paired) (if req.space = .priv then some (l.ref.team, l.ref.grp) else none)
    | _ => { loc := .mem 0, path := .home, va := v })

/-- Nothing stops a request outside a transaction and a deterministic region: its addresses are aligned and within bounds, the operand log holds nothing it waits for, no range lock covers it, and every page translates to package memory with the permission it needs (R210, R211, R314, R320, R350, R385). -/
structure State.Reaches (s : State) (l : Latch) (req : MemReq) (desc : Option Word) : Prop where
  plain : (s.groupAt l.ref).tx = none ∧ s.det l.ref.team = false
  address : s.addressTrap l.ref.team (s.groupAt l.ref).core req desc = none
  log : s.logHolds (s.whoAt l) (l.self s) req = false
  locks : s.lockTrap (s.groupAt l.ref).core (s.launchOf l.ref.team).region.djid (req.op != .load) (req.accs.map (fun a =>
    if req.space = .scratch then ({ a with cells := s.reached l req a }, []) else (a, s.mapped l.ref.team (s.groupAt l.ref) req.space a))) = none
  pages : req.space ≠ .scratch → ∀ a ∈ req.accs, ∀ v ∈ s.mapped l.ref.team (s.groupAt l.ref) req.space a,
    ∃ leaf, s.reachedPage l req v = .ok leaf ∧ leaf.place ≠ 2

/-- A request that is performed at issue waits for nothing and meets each location on one path: its group has no store still to be performed, and no committing transaction locks a line; memory and the L1s are in their canonical form (R220, R227, R254). -/
structure State.Settled (s : State) (l : Latch) (req : MemReq) : Prop where
  canonical : s.canonical = true
  paths : ∀ a ∈ req.accs, ∀ b ∈ req.accs, ∀ c ∈ s.reached l req a, ∀ d ∈ s.reached l req b, c.loc = d.loc → c.path = d.path
  stores : s.groupStores l.ref.team l.ref.grp = []
  lines : s.lockedLines = []

/-- The bytes that an access finds, little-endian. -/
def State.found (s : State) (l : Latch) (req : MemReq) (a : Acc) : Nat :=
  leNat ((s.reached l req a).map (fun c => (s.readCell (s.groupAt l.ref).core c).1))

/-- The word that a load gives register field `r` in a thread: the pieces of the thread's bytes, or of the one access of a uniform load (R236, R240). -/
def State.loadedWord (s : State) (l : Latch) (req : MemReq) (r n : Nat) : Word :=
  match req.accs.find? (fun a => req.uniform || a.thr == n) with
  | some a => recvWord a.recvs r (s.found l req a)
  | none => 0

/-- A load has issued: the words of its registers are pending, no register has changed, and memory is as it was. -/
structure State.Loads (s t : State) (l : Latch) (act : Half) (req : MemReq) : Prop where
  moved : s.Moved t l l.next
  kept : (s.groupAt l.ref).Kept (t.groupAt l.ref)
  others : s.Local t l.ref
  memory : s.KeepsMemory t (s.groupAt l.ref).core
  pends : act ≠ 0 → ∀ r ∈ req.dests, (s.groupAt l.ref).Pends (t.groupAt l.ref) r act (s.loadedWord l req r)

/-- A store or an atomic has issued: its accesses wait to be performed, after those issued before it; no register, no byte of memory and no L1 has changed (R235). -/
structure State.Queues (s t : State) (l : Latch) (req : MemReq) : Prop where
  moved : s.Moved t l l.next
  kept : (s.groupAt l.ref).Kept (t.groupAt l.ref)
  others : s.Local t l.ref
  memory : s.SameMemory t
  none : req.accs = [] → t.stores = s.stores
  some : req.accs ≠ [] → ∃ p, t.stores = s.stores ++ [p] ∧ p.team = l.ref.team ∧ p.grp = l.ref.grp ∧ p.inst = (s.groupAt l.ref).nextInst ∧
    p.core = (s.groupAt l.ref).core ∧ p.op = req.op ∧ p.strong = req.synced ∧
    p.accs = req.accs.map (fun a => { a with cells := s.reached l req a })

/-- The request of a load of SIZE bytes at each active thread's effective address, or once (R67, R236, R240). -/
def State.loadReq (s : State) (l : Latch) (f : MemForm) (uniform : Bool) : MemReq :=
  let g := s.groupAt l.ref
  let n := 2 ^ f.size.val
  { baseReq f .load with
    accs := (if uniform then [eventThread g (l.self s)] else threadsOf (s.activeSet l f.mask)).map (fun t =>
      { thr := t, ea := memEa g (l.self s) f t, va := spanFrom (memEa g (l.self s) f t) n, recvs := loadRecvs f.d n f.sx })
    dests := loadDests f.d n, uniform := uniform, party := if uniform then l.self s else 0 }

/-- The threads that a store or an atomic acts for: the active live ones (R18). -/
def State.activeLive (s : State) (l : Latch) (m : Mask) : Half := s.activeSet l m &&& (s.groupAt l.ref).live

/-- The request of a store of SIZE bytes of D at each active live thread's effective address, or once (R18, R67, R236, R240). -/
def State.storeReq (s : State) (l : Latch) (f : MemForm) (uniform : Bool) : MemReq :=
  let g := s.groupAt l.ref
  let n := 2 ^ f.size.val
  { baseReq f .store with
    accs := (if uniform then (if l.self s &&& g.live = 0 then [] else [eventThread g (l.self s)]) else threadsOf (s.activeLive l f.mask)).map (fun t =>
      { thr := t, ea := memEa g (l.self s) f t, va := spanFrom (memEa g (l.self s) f t) n, val := storeVal g (l.self s) f.d t n })
    party := if uniform then l.self s else 0 }

/-- The request of an atomic: the operand of C and the comparand of D in each active live thread, or once where D is a g-register (R245, R246, R248). -/
def State.atomReq (s : State) (l : Latch) (f : MemForm) (op : AtomOp) (signed : Bool) : MemReq :=
  let g := s.groupAt l.ref
  let n := 2 ^ f.size.val
  { baseReq f (.atomic op) with
    cache := 0, dests := loadDests f.d n, uniform := isUni f.d, party := if isUni f.d then l.self s else 0
    accs := (if isUni f.d then (if l.self s &&& g.live = 0 then [] else [eventThread g (l.self s)]) else threadsOf (s.activeLive l f.mask)).map (fun t =>
      { thr := t, ea := memEa g (l.self s) f t, va := spanFrom (memEa g (l.self s) f t) n, val := (g.readOpnd (l.self s) f.c t).toNat % 2 ^ (8 * n)
        cmp := (g.readOpnd (l.self s) f.d t).toNat % 2 ^ (8 * n), recvs := loadRecvs f.d n (signed && n = 4) }) }

/-- No TBWAIT of any split is parked. -/
def State.noTbWaits (s : State) : Prop := ∀ r ∈ s.allSplits, ∀ d team side off par, (s.splitAt r).wait ≠ .tb d team side off par

/-- No schedule of a team on cluster `k` has an entry that is due and not yet released (R361). -/
def State.noneDue (s : State) (k : Nat) : Prop :=
  ∀ t ∈ s.teams, clusterOf t.2.core = k → t.2.saved = none → ∀ e ∈ (s.launchOf t.1).sched.zipIdx,
    e.2 ∈ t.2.released ∨ t.2.stage < schedStage e.1 ∨ (s.launchOf t.1).ended.isSome = true

/-- A one-word result of an instruction that takes a lookahead: in D at once for LA = 0, else pending for it (R71, R72). -/
def Group.Gave (g h : Group) (m : Half) (f : RegForm) (w : Word) : Prop :=
  (f.la = 0 → g.Wrote h 0 f.d (fun _ => w)) ∧ (f.la ≠ 0 → g.Awaits h m f.d (fun _ => w))

/-! ### Notifications -/

/-- A region's notification ring is usable, and its producer index lies outside it (R419). -/
def Region.apart (r : Region) : Bool :=
  ringUsable r.nlogsz r.nring 64 r.nprod r.ncons && (decide (r.nprod + 8 ≤ r.nring) || decide (r.nring + 64 * 2 ^ r.nlogsz ≤ r.nprod))

/-- One record was posted on a region's ring: it stands at the producer's place with the producer's number, the producer has advanced, and without coalescing the region's vector is raised: its message is sent, or its pending bit set where it is masked (R419, R438, R439, R449). -/
def State.Notes (s t : State) (r : Region) (n : Note) : Prop :=
  let p := (s.readPhys r.nprod 8).getD 0
  t.readPhys (r.nring + 64 * (p % 2 ^ r.nlogsz)) 64 = some (n.bits + p % 2 ^ 32 * 2 ^ 160) ∧ t.readPhys r.nprod 8 = some ((p + 1) % 2 ^ 64) ∧
    (r.coal = 0 → if s.msixMasked r.msix then t.msix.contains r.msix = true else AMap.get t.msixSent r.msix 0 = AMap.get s.msixSent r.msix 0 + 1)

end Sys2Proof.Machine
end

