-- ==== Sys2Proof/Certificates/Slice0/Obligations.lean ====
section
/-! DEFINITION. The statements for the provers: encoding and decoding, the step, what each instruction and each event does, and the invariants of the machine. -/

open Sys2Proof Sys2Proof.Machine Host

/-! ### Encoding and decoding -/

/-- Decoding the bytes of any well-formed instruction, whatever follows them, gives it back with every operand at every value its encoding admits, and leaves the bytes that follow (R58 to R69, R78). -/
def Obligations.DecodeOfEncode : Prop :=
  ∀ (cx : DecodeCtx) (i : Instr) (rest : List Byte), i.wf cx = true → decode cx (encodeBytes i ++ rest) = .instr i rest

/-- What a base word and an extension word decode to is well-formed and is encoded by those very words: no decode drops a bit of a word (R58, R63, R77, R78). -/
def Obligations.EncodeOfDecode : Prop :=
  ∀ (cx : DecodeCtx) (w0 w1 : Word) (i : Instr), decodeWords cx w0 w1 = .ok i →
    i.wf cx = true ∧ encode i = if w0.getLsbD 0 then [w0, w1] else [w0]

/-- Words that the spec writes out decode to the instructions it names: ICMP `.lt` k2, v1, v2 (R138); the FMAD of the worked encodings with LA = 1 traps ILLOP with cause 0x02, and an unassigned opcode with cause 0x01 (R78); the word 0 is no instruction (R75). -/
def Obligations.WordsOfTheSpec : Prop :=
  decodeWords tableCtx 0x1B020F2010200000 0 = .ok (.icmp { la := 0, fs := 2, mask := ⟨false, 0⟩, d := .k 2, a := .v 1, b := .v 2, c := .lit 0, mod := 0 }) ∧
    decodeWords tableCtx 0x4313004010203000 0 = .error 2 ∧ decodeWords tableCtx 0x3F10000000000000 0 = .error 1 ∧
    decodeWords tableCtx 0 0 = .error 1

/-! ### The step -/

/-- A split selected to issue, whose words are fetched and decode to an instruction that no hazard holds, runs that instruction: the step is exec of it, at the state that the fetch leaves, with the split, its PC and its words latched; the second of two that issue together runs though the first has stopped the group (R59, R111, R316). Nothing else is added: the PC moves in the instruction's own meaning (R200). Words that do not decode trap ILLOP with the cause of R78 in TRAPAUX, and have no other effect (R77, R78). An event of the agenda is performed before anything issues, and leaves the agenda (log 2: the model's order of events, not a rule of the spec); a package in FAILED only drops it, unless it is one of those that happen there (R459, R460); which do is the model's choice (log 112). -/
def Obligations.StepRunsDecoded : Prop :=
  let taken := fun (s : State) (r : SplitRef) (rest : List SplitRef) => { s with issueQ := rest, mates := s.mates.filter (fun m => m.ref != r) }
  let goes := fun (s : State) (r : SplitRef) => match s.mates.find? (fun m => m.ref = r) with
    | none => (s.groupAt r).stopped = false
    | some m => (s.groupAt r).trap = m.trap ∧ (s.groupAt r).trapAddr = m.trapAddr
  (∀ (s s1 : State) (r : SplitRef) (rest : List SplitRef) (w0 w1 : Word) (i : Instr),
    s.agenda = [] → s.issueQ = r :: rest → (s.groupAt r).issuable r.split = true → s.exhausted r = false → goes s r →
    (taken s r rest).fetch r.team (s.groupAt r).core (s.splitAt r).pc = .words s1 w0 w1 →
    decodeWords (s1.decodeCtx r) w0 w1 = .ok i → s1.hazard r i = false →
    step s = exec i { s1 with latch := some ⟨r, (s1.splitAt r).pc, w0, w1⟩ }) ∧
  (∀ (s s1 : State) (r : SplitRef) (rest : List SplitRef) (w0 w1 : Word) (cause : Nat),
    s.agenda = [] → s.issueQ = r :: rest → (s.groupAt r).issuable r.split = true → s.exhausted r = false → goes s r →
    (taken s r rest).fetch r.team (s.groupAt r).core (s.splitAt r).pc = .words s1 w0 w1 →
    decodeWords (s1.decodeCtx r) w0 w1 = .error cause →
    step s = .next (s1.takeTrap ⟨r, (s1.splitAt r).pc, w0, w1⟩ { code := 0x01, aux := cause })) ∧
  (∀ (s : State) (e : Instr) (rest : List Instr), s.agenda = e :: rest →
    (s.ctl.service ≠ 4 ∨ happensInFailed e = true → step s = exec e { s with agenda := rest }) ∧
    (s.ctl.service = 4 → happensInFailed e = false → step s = .next { s with agenda := rest }))

/-- The words of an instruction are the 8 bytes at its address and, where X = 1, the 8 bytes after them, little-endian, at the physical address that the core's TLB gives: for a page of PLACE 0 that may be executed, both words on one page (R59, R2, R375, R386). -/
def Obligations.FetchReadsBytes : Prop :=
  ∀ (s : State) (team core : Nat) (pc : Word) (leaf : Leaf),
    let pa := leaf.pa + (pc.toNat - leaf.base)
    let word := fun (n : Nat) => wd (leNat ((List.range 8).map (fun i => s.mem.read ((physKey 0 (pa + n + i)).getD 0))))
    pc.toNat + 16 < 2 ^ 57 → pc.toNat % 65536 + 16 ≤ 65536 →
    leaf.covers (s.launchOf team).region.djid pc.toNat = true → leaf.place = 0 → leaf.x = true →
    (s.core core).tlb.find? (fun e => e.covers (s.launchOf team).region.djid (pc.toNat / 65536 * 65536)) = some leaf →
    s.fetch team core pc = .words s (word 0) (if (word 0).getLsbD 0 then word 8 else 0)

/-- No step faults, and the one refusal is that of an instruction word that no split is issuing, which the agenda alone could hold: every instruction of the table that a split issues goes on (R77: an encoding breaks a rule and traps, or has its effect). The latch and the agenda are the model's (log 2). -/
def Obligations.StepGoesOn : Prop :=
  ∀ s : State, (∀ f, step s ≠ .fault f) ∧ (∀ r, step s = .refused r → ∃ name, r = .noSplit name) ∧
    (s.agenda = [] → goesOn (step s) = true)

/-- Every step keeps package memory and host memory in their canonical form, addresses rising and no entry equal to what an unlisted address reads as, and every L1's bytes by rising key. -/
def Obligations.StepKeepsCanonical : Prop :=
  ∀ s t : State, s.canonical = true → step s = .next t → t.canonical = true

/-- Reset leaves what the spec gives: memory with nothing listed, no team, no launch, service RESET, the registers of the device control block, the queues and the ports at their reset values (R420, R452, R457, R492, R493); and it is canonical. The clocks start at zero by the model's choice (log 10). -/
def Obligations.ResetState : Prop :=
  State.reset.canonical = true ∧ State.reset.mem = [] ∧ State.reset.teams = [] ∧ State.reset.launches = [] ∧ State.reset.latch = none ∧
    (let c := State.reset.ctl
     c.service = 0 ∧ c.failcode = 0 ∧ c.dieok = 0 ∧ c.calbusy = false ∧ c.calfail = false ∧ c.inverr = false ∧ c.pwrcap = 10000 ∧ c.pwrnow = 0 ∧
       c.scrub = 1440 ∧ c.invctx = 0 ∧ c.invbase = 0 ∧ c.invdone = 0 ∧ c.self = 0 ∧ c.clk = 0 ∧ c.time = 0) ∧
    (∀ q, let x := State.reset.queue q
      x.enable = false ∧ x.err = false ∧ x.base = 0 ∧ x.logsz = 0 ∧ x.rcb = 0 ∧ x.qwrite = 0 ∧ x.qread = 0 ∧ x.qdoor = 0 ∧ x.eff = 0) ∧
    ∀ p, let x := State.reset.port p
      x.lstate = 0 ∧ x.enable = false ∧ x.peerVc = 7 ∧ x.vcTop = 5 ∧ x.txSeq = 0 ∧ x.ackSeq = 0xFFF ∧ x.laneMask = 0xFFFF ∧ x.session = false ∧
        x.peerRun = false ∧ x.width = 0 ∧ x.retrains = 0 ∧ x.tagFail = 0 ∧ x.replays = 0

/-! ### Integers -/

/-- IADD, ISUB, IMUL, IMULH, IMAD, IMIN, IMAX, IABS and INEG: the exact result of R135 over operands read under the type code, clamped with SAT, else reduced modulo 2^n, sign-extended for code 1 and zero-extended otherwise, written in the active threads of D or once to a g-register; nothing else changes (R10 to R13, R132, R135). IDIV and IREM leave their result pending: the quotient toward zero and the remainder with the sign of the dividend, so that A = Q·B + Rm; a zero divisor gives all ones and A; and nothing traps (R136, R201). -/
def Obligations.IntegerArithmetic : Prop :=
  (∀ (s : State) (l : Latch) (f : RegForm), s.issuing l = true →
    let fs := f.fs.toNat
    let n := typeBits fs
    let A := fun t => typed fs (s.operand l f.a t)
    let B := fun t => typed fs (s.operand l f.b t)
    let C := fun t => typed fs (s.operand l f.c t)
    let sat := f.mod.getLsbD 0
    let fit := fun (v : Int) => if sat then min (max v (typeMin fs)) (typeMax fs) else v
    let put := fun (v : Int) => if fs = 1 then wordOfInt (sextNat 32 (wrapNat 32 v)) else BitVec.ofNat 64 (wrapNat n v)
    s.Computes l f.mask f.d (.iadd f) [f.a, f.b] (fun t => put (fit (A t + B t))) ∧
    s.Computes l f.mask f.d (.isub f) [f.a, f.b] (fun t => put (fit (A t - B t))) ∧
    s.Computes l f.mask f.d (.imul f) [f.a, f.b] (fun t => put (fit (A t * B t))) ∧
    s.Computes l f.mask f.d (.imulh f) [f.a, f.b] (fun t => put ((A t * B t) / ((2 ^ n : Nat) : Int))) ∧
    s.Computes l f.mask f.d (.imad f) [f.a, f.b, f.c] (fun t => put (fit (A t * B t + C t))) ∧
    s.Computes l f.mask f.d (.imin f) [f.a, f.b] (fun t => put (min (A t) (B t))) ∧
    s.Computes l f.mask f.d (.imax f) [f.a, f.b] (fun t => put (max (A t) (B t))) ∧
    s.Computes l f.mask f.d (.iabs f) [f.a] (fun t => put (fit ((A t).natAbs : Int))) ∧
    s.Computes l f.mask f.d (.ineg f) [f.a] (fun t => put (fit (-(A t))))) ∧
  (∀ (s : State) (l : Latch) (f : RegForm), s.issuing l = true →
    let fs := f.fs.toNat
    let A := fun t => typed fs (s.operand l f.a t)
    let B := fun t => typed fs (s.operand l f.b t)
    ∃ Q Rm : Nat → Int, (∀ t, B t = 0 → Q t = -1 ∧ Rm t = A t) ∧
      (∀ t, B t ≠ 0 → A t = Q t * B t + Rm t ∧ (Rm t).natAbs < (B t).natAbs ∧ 0 ≤ Rm t * A t) ∧
      s.Begins l f.mask f.d (.idiv f) [f.a, f.b] (fun t => typedResult fs (Q t)) ∧
      s.Begins l f.mask f.d (.irem f) [f.a, f.b] (fun t => typedResult fs (Rm t)))

/-- ICMP writes all ones or zero, or bit t of a k-register, for the condition of FS over 64 bits or, with W32, 32 bits, signed for conditions 2 to 5 and unsigned else; ISEL copies A where its condition holds in a thread and B elsewhere (R137, R138). -/
def Obligations.CompareAndSelect : Prop :=
  ∀ (s : State) (l : Latch) (f : RegForm), s.issuing l = true →
    let n := if f.mod.getLsbD 0 then 32 else 64
    let sa := fun t => sextNat n (s.operand l f.a t).toNat
    let sb := fun t => sextNat n (s.operand l f.b t).toNat
    let ua := fun t => (s.operand l f.a t).toNat % 2 ^ n
    let ub := fun t => (s.operand l f.b t).toNat % 2 ^ n
    let holds : Nat → Nat → Prop := fun fs t =>
      (fs = 0 ∧ ua t = ub t) ∨ (fs = 1 ∧ ua t ≠ ub t) ∨ (fs = 2 ∧ sa t < sb t) ∨ (fs = 3 ∧ sa t ≤ sb t) ∨ (fs = 4 ∧ sb t < sa t) ∨
        (fs = 5 ∧ sb t ≤ sa t) ∨ (fs = 6 ∧ ua t < ub t) ∨ (fs = 7 ∧ ua t ≤ ub t) ∨ (fs = 8 ∧ ub t < ua t) ∨ (fs = 9 ∧ ub t ≤ ua t)
    (f.fs.toNat < 10 → ∃ val : Nat → Word, (∀ t, val t = if holds f.fs.toNat t then 0xFFFFFFFFFFFFFFFF else 0) ∧
      s.Computes l f.mask f.d (.icmp f) [f.a, f.b] val) ∧
    (selUniformBad f.d [f.a, f.b] f.c = false → ∃ t, exec (.isel f) s = .next t ∧ s.Writes t l f.mask f.d (fun i =>
      if (match f.c with | .k n => ((s.groupAt l.ref).readK (l.self s) n.val).getLsbD i | _ => s.operand l f.c i != 0)
      then s.operand l f.a i else s.operand l f.b i))

/-- AND, OR and XOR bit by bit; TLOG takes bit i of the result from its table at 4·A_i + 2·B_i + C_i; all zero-extended from n bits (R132, R139). SHL, SHR, SAR and ROTL by the whole 64-bit value of b, and SHFN by c mod n over A·2^n + B (R140, R141). -/
def Obligations.LogicAndShifts : Prop :=
  (∀ (s : State) (l : Latch) (f : RegForm), s.issuing l = true →
    let n := typeBits f.fs.toNat
    let A := s.operand l f.a
    let B := s.operand l f.b
    let C := s.operand l f.c
    s.Computes l f.mask f.d (.and f) [f.a, f.b] (fun t => BitVec.ofNat 64 ((A t &&& B t).toNat % 2 ^ n)) ∧
    s.Computes l f.mask f.d (.or f) [f.a, f.b] (fun t => BitVec.ofNat 64 ((A t ||| B t).toNat % 2 ^ n)) ∧
    s.Computes l f.mask f.d (.xor f) [f.a, f.b] (fun t => BitVec.ofNat 64 ((A t ^^^ B t).toNat % 2 ^ n)) ∧
    ∃ val : Nat → Word, s.Computes l f.mask f.d (.tlog f) [f.a, f.b, f.c] val ∧
      ∀ t i, (val t).getLsbD i = (decide (i < n) && (f.mod.toNat % 256).testBit
        (4 * natOfBool ((A t).getLsbD i) + 2 * natOfBool ((B t).getLsbD i) + natOfBool ((C t).getLsbD i)))) ∧
  (∀ (s : State) (l : Latch) (f : RegForm), s.issuing l = true →
    let n := typeBits f.fs.toNat
    let A := fun t => (s.operand l f.a t).toNat % 2 ^ n
    let B := fun t => (s.operand l f.b t).toNat
    let V := fun t => A t * 2 ^ n + B t % 2 ^ n
    let C := fun t => (s.operand l f.c t).toNat % n
    s.Computes l f.mask f.d (.shl f) [f.a, f.b] (fun t => wd (if B t < n then A t * 2 ^ B t % 2 ^ n else 0)) ∧
    s.Computes l f.mask f.d (.shr f) [f.a, f.b] (fun t => wd (if B t < n then A t / 2 ^ B t else 0)) ∧
    s.Computes l f.mask f.d (.sar f) [f.a, f.b] (fun t => wd (wrapNat n (sextNat n (A t) / ((2 ^ (min (B t) n) : Nat) : Int)))) ∧
    s.Computes l f.mask f.d (.rotl f) [f.a, f.b] (fun t => wd ((A t * 2 ^ (B t % n) + A t / 2 ^ (n - B t % n)) % 2 ^ n)) ∧
    s.Computes l f.mask f.d (.shfn f) [f.a, f.b, f.c] (fun t => wd (if f.mod.getLsbD 0 then V t / 2 ^ C t % 2 ^ n else V t * 2 ^ C t / 2 ^ n % 2 ^ n)))

/-- BEXT and BINS over the field of L = min(l, n − p) bits at p, POPC, CLZ, CTZ and BREV: bit by bit, or by their count (R142, R143). -/
def Obligations.BitFields : Prop :=
  ∀ (s : State) (l : Latch) (f : RegForm), s.issuing l = true →
    let n := typeBits f.fs.toNat
    let A := fun t => s.operand l f.a t
    let p := fun t => (s.operand l f.b t).toNat
    let L := fun t => min (s.operand l f.c t).toNat (n - p t)
    (∃ val : Nat → Word, s.Computes l f.mask f.d (.bext f) [f.a, f.b, f.c] val ∧
      ∀ t i, (val t).getLsbD i = if L t = 0 then false else if i < L t then (A t).getLsbD (p t + i)
        else decide (i < n) && f.mod.getLsbD 0 && (A t).getLsbD (p t + L t - 1)) ∧
    (∃ val : Nat → Word, s.Computes l f.mask f.d (.bins f) [f.a, f.b, f.c] val ∧
      ∀ t i, (val t).getLsbD i = (decide (i < n) && (if p t ≤ i ∧ i < p t + L t then (A t).getLsbD (i - p t) else (s.operand l f.d t).getLsbD i))) ∧
    s.Computes l f.mask f.d (.popc f) [f.a] (fun t => wd ((List.range n).countP (fun i => (A t).getLsbD i))) ∧
    (∃ val : Nat → Nat, s.Computes l f.mask f.d (.clz f) [f.a] (fun t => wd (val t)) ∧
      ∀ t, val t ≤ n ∧ (∀ i, i < val t → (A t).getLsbD (n - 1 - i) = false) ∧ (val t < n → (A t).getLsbD (n - 1 - val t) = true)) ∧
    (∃ val : Nat → Nat, s.Computes l f.mask f.d (.ctz f) [f.a] (fun t => wd (val t)) ∧
      ∀ t, val t ≤ n ∧ (∀ i, i < val t → (A t).getLsbD i = false) ∧ (val t < n → (A t).getLsbD (val t) = true)) ∧
    (∃ val : Nat → Word, s.Computes l f.mask f.d (.brev f) [f.a] val ∧
      ∀ t i, (val t).getLsbD i = (decide (i < n) && (A t).getLsbD (n - 1 - i)))

/-- LEA adds the index, whole or its low 32 bits sign- or zero-extended, times 2^s; MOV copies 64 bits and MOVI writes its immediate (R144, R145). The immediate forms have the effect of their register counterparts, with the operand of R64 as b and without SAT or W32 (R146). -/
def Obligations.MovesAndImmediates : Prop :=
  (∀ (s : State) (l : Latch) (f : RegForm) (g : ImmForm), s.issuing l = true →
    let x := fun t => if f.mod.getLsbD 3 then ((s.operand l f.b t).setWidth 32).signExtend 64
      else if f.mod.getLsbD 4 then ((s.operand l f.b t).setWidth 32).setWidth 64 else s.operand l f.b t
    s.Computes l f.mask f.d (.lea f) [f.a, f.b] (fun t => s.operand l f.a t + x t * wd (2 ^ (f.mod.toNat % 8))) ∧
    s.Computes l f.mask f.d (.mov f) [f.a] (fun t => s.operand l f.a t) ∧
    s.Computes l g.mask g.d (.movi g) [] (fun _ => g.imm)) ∧
  (∀ (s : State) (l : Latch) (f : ImmForm), s.issuing l = true →
    let A := fun t => s.operand l f.a t
    let n := typeBits f.fs.toNat
    s.Computes l f.mask f.d (.iaddi f) [f.a] (fun t => iaddVal f.fs.toNat false (A t) f.imm) ∧
    s.Computes l f.mask f.d (.imuli f) [f.a] (fun t => imulVal f.fs.toNat false (A t) f.imm) ∧
    s.Computes l f.mask f.d (.andi f) [f.a] (fun t => wd ((A t &&& f.imm).toNat % 2 ^ n)) ∧
    s.Computes l f.mask f.d (.ori f) [f.a] (fun t => wd ((A t ||| f.imm).toNat % 2 ^ n)) ∧
    s.Computes l f.mask f.d (.xori f) [f.a] (fun t => wd ((A t ^^^ f.imm).toNat % 2 ^ n)) ∧
    s.Computes l f.mask f.d (.shli f) [f.a] (fun t => shlVal f.fs.toNat (A t) f.imm) ∧
    s.Computes l f.mask f.d (.shri f) [f.a] (fun t => shrVal f.fs.toNat (A t) f.imm) ∧
    s.Computes l f.mask f.d (.sari f) [f.a] (fun t => sarVal f.fs.toNat (A t) f.imm) ∧
    s.Computes l f.mask f.d (.icmpi f) [f.a] (fun t => truthWord (icmpCond f.fs.toNat false (A t) f.imm)))

/-! ### Masks, special registers, lanes and random numbers -/

/-- KLOG, KMOV, KPOP and KFIND give one word from 32-bit mask values: the table bit by bit, the value, its number of set bits, its lowest (or with HI highest) set bit or 32 (R147, R148). SRD writes the value of the special register that its B field numbers to D: every number of R24's table, and a per-thread register into a g-register traps UNIFORM. SWR writes RNGC or TRAPADDR in the active threads, or a uniform trap register once, where a v-register source traps UNIFORM; no other register and nothing else of its group changes (R24, R25, R149). -/
def Obligations.MasksAndSpecialRegisters : Prop :=
  (∀ (s : State) (l : Latch) (f : RegForm), s.issuing l = true →
    let m := fun (o : Opnd) => (s.operand l o 0).toNat % 2 ^ 32
    (∃ w : Word, s.WritesOnce l f.mask f.d (.klog f) w ∧
      ∀ i, w.getLsbD i = (decide (i < 32) && (f.mod.toNat % 256).testBit
        (4 * natOfBool ((m f.a).testBit i) + 2 * natOfBool ((m f.b).testBit i) + natOfBool ((m f.c).testBit i)))) ∧
    s.WritesOnce l f.mask f.d (.kmov f) (wd (m f.a)) ∧
    s.WritesOnce l f.mask f.d (.kpop f) (wd ((List.range 32).countP (fun i => (m f.a).testBit i))) ∧
    ∃ k : Nat, s.WritesOnce l f.mask f.d (.kfind f) (wd k) ∧ k ≤ 32 ∧ (k = 32 → m f.a = 0) ∧
      (k < 32 → (m f.a).testBit k = true ∧ ∀ i, i < 32 → (if f.mod.getLsbD 0 then k < i else i < k) → (m f.a).testBit i = false)) ∧
  (∀ (s : State) (l : Latch) (f : RegForm), s.issuing l = true →
    let g := s.groupAt l.ref
    let tm := s.team l.ref.team
    let la := s.launchOf l.ref.team
    let r := la.lrec
    let n := fieldOf f.b
    (isUni f.d = true → srPerThread n = true → exec (.srd f) s = .next (s.takeTrap l { code := 0x04 })) ∧
    (isUni f.d = false ∨ srPerThread n = false → ∃ t val, exec (.srd f) s = .next t ∧ s.Writes t l f.mask f.d val ∧
      (n = 0x00 → ∀ i, val i = wd i) ∧ (n = 0x01 → ∀ i, val i = 32) ∧ (n = 0x02 → ∀ i, val i = wd g.gidx) ∧ (n = 0x03 → ∀ i, val i = wd r.ngrp) ∧
      (n = 0x04 → ∀ i, val i = wd (tm.linear % r.nx)) ∧ (n = 0x05 → ∀ i, val i = wd (tm.linear / r.nx % r.ny)) ∧
      (n = 0x06 → ∀ i, val i = wd (tm.linear / (r.nx * r.ny))) ∧ (n = 0x07 → ∀ i, val i = wd r.nx) ∧ (n = 0x08 → ∀ i, val i = wd r.ny) ∧
      (n = 0x09 → ∀ i, val i = wd r.nz) ∧ (n = 0x0A → ∀ i, val i = wd la.id) ∧ (n = 0x0B → ∀ i, val i = wd (tm.core % 8)) ∧
      (n = 0x0C → ∀ i, val i = wd (tm.core / 8 % 64)) ∧ (n = 0x0D → ∀ i, val i = wd (tm.core / 512)) ∧ (n = 0x0E → ∀ i, val i = wd s.ctl.self) ∧
      (n = 0x0F → ∀ i, val i = wd (g.resid % 4)) ∧ (n = 0x10 → ∀ i, val i = wd s.ctl.clk) ∧ (n = 0x11 → ∀ i, val i = wd s.ctl.time) ∧
      (n = 0x12 → ∀ i, val i = (l.self s).setWidth 64) ∧ (n = 0x13 → ∀ i, val i = g.live.setWidth 64) ∧ (n = 0x14 → ∀ i, val i = g.dem.setWidth 64) ∧
      (n = 0x15 → ∀ i, val i = g.readRng i) ∧ (n = 0x16 → ∀ i, val i = Config.identity 0) ∧ (n = 0x17 → ∀ i, val i = if s.ctl.service = 2 then 1 else 0) ∧
      (n = 0x18 → ∀ i, val i = wd r.argAddr) ∧ (n = 0x19 → ∀ i, val i = wd (r.privArea + (tm.linear * r.ngrp + g.gidx) * 32 * r.privSize)) ∧
      (0x20 ≤ n ∧ n ≤ 0x2B ∨ n = 0x2D → ∀ i, val i = AMap.get g.trap n 0) ∧ (n = 0x2C → ∀ i, val i = AMap.get g.trapAddr i 0) ∧
      (n = 0x30 → ∀ i, val i = wd (r.privArea + r.nx * r.ny * r.nz * r.ngrp * 32 * r.privSize + (tm.linear * r.ngrp + g.gidx) * 2048)))) ∧
  (∀ (s : State) (l : Latch) (f : RegForm), s.issuing l = true →
    let g := s.groupAt l.ref
    let n := fieldOf f.b
    let act := s.activeSet l f.mask
    (n = 0x15 → ∃ t, exec (.swr f) s = .next t ∧ s.Went t l l.next (fun h => { h with rngc := [] }) ∧ g.Kept (t.groupAt l.ref) ∧
      ∀ i, i < 32 → (t.groupAt l.ref).readRng i = if act.getLsbD i then s.operand l f.a i else g.readRng i) ∧
    (n = 0x2C → ∃ t, exec (.swr f) s = .next t ∧ s.Went t l l.next (fun h => { h with trapAddr := [] }) ∧ g.Kept (t.groupAt l.ref) ∧
      ∀ i, i < 32 → AMap.get (t.groupAt l.ref).trapAddr i 0 = if act.getLsbD i then s.operand l f.a i else AMap.get g.trapAddr i 0) ∧
    (0x20 ≤ n → n ≤ 0x2D → srPerThread n = false → isVec f.a = false → ∃ t, exec (.swr f) s = .next t ∧ s.Went t l l.next (fun h => { h with trap := [] }) ∧ g.Kept (t.groupAt l.ref) ∧
      ∀ k, AMap.get (t.groupAt l.ref).trap k 0 = if k = n then s.operand l f.a 0 else AMap.get g.trap k 0) ∧
    (0x20 ≤ n → n ≤ 0x2D → srPerThread n = false → isVec f.a = true → exec (.swr f) s = .next (s.takeTrap l { code := 0x04 })))

/-- PICK reads one thread, whatever its state; IRED and ISCAN combine the active threads' words; VOTE, MATCH and ELECT report on the active set (R150, R151, R155, R157 to R159). SHFL leaves pending in each active thread the word of the thread its mode names, its own where an up or down distance leaves the group; EPERM gathers element codes across the group (R153, R154). -/
def Obligations.Lanes : Prop :=
  (∀ (s : State) (l : Latch) (f : RegForm), s.issuing l = true →
    let act := s.activeSet l f.mask
    let A := s.operand l f.a
    let low := lowBit 32 act.toNat
    (isUni f.d = true ∨ f.d = .vz →
      s.WritesOnce l f.mask f.d (.pick f) (A (if f.mod.getLsbD 0 then lowBit 32 (l.self s).toNat else (s.operand l f.b 0).toNat % 32))) ∧
    s.WritesOnce l f.mask f.d (.ired f) ((threadsOf act).foldl (fun acc i => redOp f.fs.toNat acc (A i)) (redIdentity f.fs.toNat)) ∧
    (∃ t, exec (.iscan f) s = .next t ∧ s.Writes t l f.mask f.d (fun i =>
      (threadsOf act).foldl (fun acc u => if u < i ∨ (u = i ∧ f.mod.getLsbD 0 = false) then redOp f.fs.toNat acc (A u) else acc) (redIdentity f.fs.toNat))) ∧
    (f.fs.toNat < 4 → ∃ w, s.WritesOnce l f.mask f.d (.vote f) w ∧
      (f.fs = 0 → ∀ i, w.getLsbD i = (act.getLsbD i && A i != 0)) ∧ (f.fs ≠ 0 → w = 0 ∨ w = 1) ∧
      (f.fs = 1 → (w = 1 ↔ ∃ i, act.getLsbD i = true ∧ A i ≠ 0)) ∧ (f.fs = 2 → (w = 1 ↔ ∀ i, act.getLsbD i = true → A i ≠ 0)) ∧
      (f.fs = 3 → (w = 1 ↔ ∀ i j, act.getLsbD i = true → act.getLsbD j = true → A i = A j))) ∧
    (∃ t val, exec (.matchLanes f) s = .next t ∧ s.Writes t l f.mask f.d val ∧
      ∀ i j, i < 32 → j < 64 → (val i).getLsbD j = (act.getLsbD j && (if f.mod.getLsbD 0 then (A j).setWidth 32 == (A i).setWidth 32 else A j == A i))) ∧
    (∃ t, exec (.elect f) s = .next t ∧ s.Passed t l l.next ∧
      (∀ n, f.d = .v n → (s.groupAt l.ref).Wrote (t.groupAt l.ref) act f.d (fun i => if i = low then 1 else 0)) ∧
      (f.d = .vz → (s.groupAt l.ref).Kept (t.groupAt l.ref)) ∧
      (∀ n, f.d = .g n → (s.groupAt l.ref).Wrote (t.groupAt l.ref) act f.d (fun _ => wd low)) ∧
      (∀ n, f.d = .k n → (s.groupAt l.ref).Wrote (t.groupAt l.ref) 0xFFFFFFFF f.d (fun i => if act ≠ 0 ∧ i = low then 1 else 0)))) ∧
  (∀ (s : State) (l : Latch) (f : RegForm), s.issuing l = true →
    let A := s.operand l f.a
    let b := fun t => (s.operand l f.b t).toNat
    (f.fs.toNat < 4 → s.Begins l f.mask f.d (.shfl f) [] (fun t => A (
      if f.fs = 0 then b t % 32 else if f.fs = 1 then (if b t ≤ t then t - b t else t) else if f.fs = 2 then (if t + b t ≤ 31 then t + b t else t)
      else (t ^^^ (b t % 32)) % 32))) ∧
    (let w := fmtWidth ((s.groupAt l.ref).readF f.fs.toNat)
     let k := lanesOf w
     s.Begins l f.mask f.d (.eperm f) [] (fun t => wordOfElems w ((List.range k).map (fun i =>
       let e := (b t + i * (f.mod.toNat % 1024)) % (32 * k)
       elemOf w (A (e / k)) (e % k))))))

/-- RNG draws one counter step per active thread, the Philox words of its team, group, thread and counter under the launch's key: words 0 and 1 to D, with `.b128` words 2 and 3 to the register after it; it advances those counters by one. RNGSEED sets the counters of the active threads, or adds to them. No other register, no other counter and nothing else of the group changes (R22, R160, R161). -/
def Obligations.RandomNumbers : Prop :=
  ∀ (s : State) (l : Latch) (f : RegForm), s.issuing l = true →
    let g := s.groupAt l.ref
    let act := s.activeSet l f.mask
    let word := fun (i j : Nat) => (rngWords (s.launchOf l.ref.team).lrec.key (rngStream (s.team l.ref.team).linear g.gidx i) (g.readRng i)).getD j 0
    (∀ n : Fin 192, f.d = .v n → (f.fs = 1 → n.val + 1 < 192) → ∃ t, exec (.rng f) s = .next t ∧ s.Went t l l.next (fun h => { h with rngc := [] }) ∧
      (∀ i, i < 32 → (t.groupAt l.ref).readRng i = if act.getLsbD i then g.readRng i + 1 else g.readRng i) ∧
      (∀ (m : Fin 192) i, i < 32 → g.quiet m.val = true → (t.groupAt l.ref).readV m.val i =
        if act.getLsbD i = true ∧ m = n then wd (word i 0 + word i 1 * 2 ^ 32)
        else if act.getLsbD i = true ∧ f.fs = 1 ∧ m.val = n.val + 1 then wd (word i 2 + word i 3 * 2 ^ 32) else g.readV m.val i) ∧
      (∀ m : Fin 48, g.quiet (192 + m.val) = true → (t.groupAt l.ref).readG m.val = g.readG m.val) ∧ (t.groupAt l.ref).k = g.k) ∧
    (∃ t, exec (.rngseed f) s = .next t ∧ s.Went t l l.next (fun h => { h with rngc := [] }) ∧ g.Kept (t.groupAt l.ref) ∧
      ∀ i, i < 32 → (t.groupAt l.ref).readRng i = if act.getLsbD i then (if f.mod.getLsbD 0 then g.readRng i + s.operand l f.a i else s.operand l f.a i) else g.readRng i)

/-! ### Format instructions -/

/-- The element-wise instructions that write at once: each element of D is formed from the elements of A, B and C in the slot's format; FADD, FSUB, FMUL, FMAD, FFRC and FSCL round it once, here under any rounding but the stochastic one, and the others under every rounding; D is written in the active threads, nothing else changes (R164, R172, R175, R177, R178, R180, R182). So do compares into a mask register, selection and the conversions to and from integers (R181, R183, R187). -/
def Obligations.FormatElements : Prop :=
  (∀ (s : State) (l : Latch) (f : FmtForm), s.issuing l = true → s.fmtClear l f f.slot.toNat →
    let F := s.fmtAt l f.slot.toNat
    let lit := fieldOf f.c
    let x := fun t e => elemOf F.w (s.fmtSource l f f.xa f.slot.toNat f.a t) e
    let y := fun t e => elemOf F.w (s.fmtSource l f f.xb f.slot.toNat f.b t) e
    let z := fun t e => elemOf F.w (s.operand l f.c t) e
    let dx := fun t e => decodeCode F (x t e)
    let dy := fun t e => decodeCode F (y t e)
    let ones := 2 ^ F.w - 1
    let each := fun (v : Nat → Nat → Nat) (t : Nat) => wordOfElems F.w ((List.range F.k).map (v t))
    let sum := fun (xs : List Ex) => encode1 F (exSum (decide (F.rnd = 3)) xs) 0
    (F.rnd ≠ 5 →
      s.Computes l f.mask f.d (.fadd f) [f.a, f.b] (each fun t e => sum [dx t e, dy t e]) ∧
      s.Computes l f.mask f.d (.fsub f) [f.a, f.b] (each fun t e => sum [dx t e, (dy t e).negate]) ∧
      s.Computes l f.mask f.d (.fmul f) [f.a, f.b] (each fun t e => encode1 F (codeProduct F (x t e) (y t e)) 0) ∧
      s.Computes l f.mask f.d (.fmad f) [f.a, f.b, f.c] (each fun t e =>
        sum [codeProduct F (x t e) (y t e), if f.neg then (decodeCode F (z t e)).negate else decodeCode F (z t e)]) ∧
      s.Computes l f.mask f.d (.ffrc f) [f.a] (each fun t e => encode1 F (ffrcEx (lit % 4) (dx t e)) 0) ∧
      s.Computes l f.mask f.d (.fscl f) [f.a, f.b] (each fun t e =>
        encode1 F (exScale (max (min (sgn (s.fmtSource l f f.xb f.slot.toNat f.b t)) 4096) (-4096)) (dx t e)) 0)) ∧
    s.Computes l f.mask f.d (.fmin f) [f.a, f.b] (each fun t e => fminCode F (x t e) (y t e)) ∧
    s.Computes l f.mask f.d (.fmax f) [f.a, f.b] (each fun t e => fmaxCode F (x t e) (y t e)) ∧
    s.Computes l f.mask f.d (.fcmp f) [f.a, f.b] (each fun t e => if fcmpCond (lit % 8) F (x t e) (y t e) then ones else 0) ∧
    s.Computes l f.mask f.d (.fclass f) [f.a] (each fun t e => if lit.testBit (classOf F (x t e)) then ones else 0) ∧
    (F.s ≠ 0 → s.Computes l f.mask f.d (.fsgn f) (if lit % 4 = 2 then [f.a, f.b] else [f.a]) (each fun t e => fsgnCode (lit % 4) F (x t e) (y t e))) ∧
    s.Computes l f.mask f.d (.famax f) [f.a, f.b] (each fun t e =>
      if e = 0 then famaxCode F ((List.range F.k).map (x t) ++ [y t 0]) else 0)) ∧
  (∀ (s : State) (l : Latch) (f : FmtForm), s.issuing l = true → s.fmtClear l f f.slot.toNat →
    let F := s.fmtAt l f.slot.toNat
    let lit := fieldOf f.c
    let a := s.fmtSource l f f.xa f.slot.toNat f.a
    let b := s.fmtSource l f f.xb f.slot.toNat f.b
    let hit := fun t e => fcmpCond (lit % 8) F (elemOf F.w (a t) e) (elemOf F.w (b t) e)
    let ty := lit % 4
    let e0 := fun t => (b t).toNat % F.k
    s.Computes l f.mask f.d (.fcmpk f) [] (fun t => wordOfBool (if lit.testBit 4 then (List.range F.k).all (hit t) else (List.range F.k).any (hit t))) ∧
    ((∀ n, f.c ≠ .k n) → s.Computes l f.mask f.d (.fsel f) [f.a, f.b, f.c] (fun t => wordOfElems F.w ((List.range F.k).map (fun e =>
      if elemOf F.w (s.operand l f.c t) e ≠ 0 then elemOf F.w (a t) e else elemOf F.w (b t) e)))) ∧
    (∀ n, f.c = .k n → isUni f.d = false → s.Computes l f.mask f.d (.fsel f) [] (fun t => wordOfElems F.w ((List.range F.k).map (fun e =>
      if t < 32 ∧ ((s.groupAt l.ref).readK (l.self s) n.val).getLsbD t then elemOf F.w (a t) e else elemOf F.w (b t) e)))) ∧
    (lit.testBit 2 = false → s.Computes l f.mask f.d (.fcvti f) [f.a, f.b] (fun t =>
      typedResult ty (min (max (exToInt (lit / 8 % 4) (decodeCode F (elemOf F.w (a t) (e0 t)))) (typeMin ty)) (typeMax ty)))) ∧
    (lit.testBit 2 = true → F.rnd ≠ 5 → s.Computes l f.mask f.d (.fcvti f) [f.a, f.b] (fun t => wordOfElems F.w ((List.range F.k).map (fun e =>
      if e = e0 t then encode1 F (exOfRat (typed ty (a t)) 1 false) 0 else elemOf F.w (s.operand l f.d t) e)))))

/-- Sums of products, sums of elements, and conversions between slots with and without block scales, under any rounding but the stochastic one: one rounding of the exact value, a narrowing merged into D (R184 to R186, R188). -/
def Obligations.FormatSumsAndConversions : Prop :=
  ∀ (s : State) (l : Latch) (f : FmtForm), s.issuing l = true →
    let m := fieldOf f.c % 16
    let p := fieldOf f.c / 16
    let F := s.fmtAt l f.slot.toNat
    let M := s.fmtAt l m
    let a := s.fmtSource l f f.xa m f.a
    let b := s.fmtSource l f f.xb m f.b
    let z := fun t => decodeCode F (elemOf F.w (s.operand l f.d t) 0)
    let first := fun (v : Nat → Nat) (t : Nat) => wordOfElems F.w ((List.range F.k).map (fun e => if e = 0 then v t else 0))
    s.fmtClear l f m → F.rnd ≠ 5 →
    s.Computes l f.mask f.d (.fdot f) [f.a, f.b] (first fun t => encode1 F (exSum (decide (F.rnd = 3))
      ((List.range M.k).map (fun i => codeProduct M (elemOf M.w (a t) i) (elemOf M.w (b t) i)) ++ [if f.neg then (z t).negate else z t])) 0) ∧
    s.Computes l f.mask f.d (.fsum f) [f.a] (first fun t => encode1 F (exSum (decide (F.rnd = 3))
      ((List.range M.k).map (fun i => decodeCode M (elemOf M.w (a t) i)))) 0) ∧
    (p < partsOf M.k F.k → s.Computes l f.mask f.d (.fcvt f) [f.a] (fun t =>
      convWord F M.k p (s.operand l f.d t) (fun j => decodeCode M (elemOf M.w (a t) j)) (fun _ => 0))) ∧
    (p < partsOf M.k F.k → M.blk = 1 → s.Computes l f.mask f.d (.fbscl f) [] (fun t =>
      convWord F M.k p (s.operand l f.d t) (fun j =>
        let q := (t * M.k + j) / 32
        scaledEx (((s.groupAt l.ref).readOpnd 0 f.b (q / 8)).toNat / 2 ^ (8 * (q % 8)) % 256) (decodeCode M (elemOf M.w (a t) j))) (fun _ => 0)))

/-- FDIV, FSQRT, FRCP, FRSQ, FEXP2 and FLOG2 leave pending the elements of their exact results, each rounded once, under any rounding but the stochastic one; FEXP2 and FLOG2 within the precision of R173 (R172, R173, R201). -/
def Obligations.FormatLongLatency : Prop :=
  ∀ (s : State) (l : Latch) (f : FmtForm), s.issuing l = true → s.fmtClear l f f.slot.toNat → (s.fmtAt l f.slot.toNat).rnd ≠ 5 →
    let F := s.fmtAt l f.slot.toNat
    let dx := fun t e => decodeCode F (elemOf F.w (s.fmtSource l f f.xa f.slot.toNat f.a t) e)
    let dy := fun t e => decodeCode F (elemOf F.w (s.fmtSource l f f.xb f.slot.toNat f.b t) e)
    let each := fun (v : Nat → Nat → Ex) (t : Nat) => wordOfElems F.w ((List.range F.k).map (fun e => encode1 F (v t e) 0))
    s.Begins l f.mask f.d (.fdiv f) [f.a, f.b] (each fun t e => exDiv (dx t e) (dy t e)) ∧
    s.Begins l f.mask f.d (.fsqrt f) [f.a] (each fun t e => exSqrt (dx t e)) ∧
    s.Begins l f.mask f.d (.frcp f) [f.a] (each fun t e => exRcp (dx t e)) ∧
    s.Begins l f.mask f.d (.frsq f) [f.a] (each fun t e => exRsq (dx t e)) ∧
    s.Begins l f.mask f.d (.fexp2 f) [f.a] (each fun t e => exExp2 (F.kind = 0 || F.kind = 3) (dx t e)) ∧
    s.Begins l f.mask f.d (.flog2 f) [f.a] (each fun t e => exLog2 (dx t e))

/-- Under stochastic rounding the instructions that round draw ceil(n/4) counter steps for n results per word, in every active thread, or with a g-register D in the lowest thread of the split; result i is rounded by random word i mod 4 of step i div 4; no other counter moves and nothing else changes: n is k for the element-wise ones, 1 for a sum and for FCVTI from an integer, and the elements it converts for FCVT and FBSCL (R22, R40, R172 to R177, R184 to R188). -/
def Obligations.FormatStochastic : Prop :=
  ∀ (s : State) (l : Latch) (f : FmtForm), s.issuing l = true →
    let g := s.groupAt l.ref
    let self := l.self s
    let act := s.activeSet l f.mask
    let m := fieldOf f.c % 16
    let p := fieldOf f.c / 16
    let F := s.fmtAt l f.slot.toNat
    let M := s.fmtAt l m
    let R := fun (t i : Nat) => s.rngWord l (if isUni f.d then lowBit 32 self.toNat else t) (i / 4) (i % 4)
    let steps := fun (n t : Nat) => if (if isUni f.d then t = lowBit 32 self.toNat else act.getLsbD t = true) then wd ((n + 3) / 4) else 0
    let drew := fun (i : Instr) (srcs : List Opnd) (n : Nat) (effect : Group → Prop) => uniformBad f.d srcs = false → 0 < n →
      ∃ t, exec i s = .next t ∧ s.Went t l l.next (fun h => { h with rngc := [] }) ∧ effect (t.groupAt l.ref) ∧
        ∀ x, x < 32 → (t.groupAt l.ref).readRng x = g.readRng x + steps n x
    let now := fun (i : Instr) (srcs : List Opnd) (n : Nat) (val : Nat → Word) => drew i srcs n (fun h => g.Wrote h act f.d val)
    let later := fun (i : Instr) (srcs : List Opnd) (n : Nat) (val : Nat → Word) => drew i srcs n (fun h => g.Awaits h act f.d val)
    let a := s.fmtSource l f f.xa f.slot.toNat f.a
    let b := s.fmtSource l f f.xb f.slot.toNat f.b
    let dx := fun t e => decodeCode F (elemOf F.w (a t) e)
    let dy := fun t e => decodeCode F (elemOf F.w (b t) e)
    let each := fun (v : Nat → Nat → Nat) (t : Nat) => wordOfElems F.w ((List.range F.k).map (v t))
    let round := fun (v : Nat → Nat → Ex) => each (fun t e => encode1 F (v t e) (R t e))
    let am := s.fmtSource l f f.xa m f.a
    let bm := s.fmtSource l f f.xb m f.b
    let z := fun t => decodeCode F (elemOf F.w (s.operand l f.d t) 0)
    let first := fun (v : Nat → Ex) (t : Nat) => wordOfElems F.w ((List.range F.k).map (fun e => if e = 0 then encode1 F (v t) (R t 0) else 0))
    let conv := fun (src : Nat → Nat → Ex) (t : Nat) => convWord F M.k p (s.operand l f.d t) (src t) (R t)
    F.rnd = 5 →
    (s.fmtClear l f f.slot.toNat →
      now (.fadd f) [f.a, f.b] F.k (each fun t e => faddCode F (elemOf F.w (a t) e) (elemOf F.w (b t) e) (R t e)) ∧
      now (.fsub f) [f.a, f.b] F.k (each fun t e => fsubCode F (elemOf F.w (a t) e) (elemOf F.w (b t) e) (R t e)) ∧
      now (.fmul f) [f.a, f.b] F.k (each fun t e => fmulCode F (elemOf F.w (a t) e) (elemOf F.w (b t) e) (R t e)) ∧
      now (.fmad f) [f.a, f.b, f.c] F.k (each fun t e =>
        fmadCode f.neg F (elemOf F.w (a t) e) (elemOf F.w (b t) e) (elemOf F.w (s.operand l f.c t) e) (R t e)) ∧
      now (.ffrc f) [f.a] F.k (round fun t e => ffrcEx (fieldOf f.c % 4) (dx t e)) ∧
      now (.fscl f) [f.a, f.b] F.k (round fun t e => exScale (max (min (sgn (b t)) 4096) (-4096)) (dx t e)) ∧
      later (.fdiv f) [f.a, f.b] F.k (round fun t e => exDiv (dx t e) (dy t e)) ∧ later (.fsqrt f) [f.a] F.k (round fun t e => exSqrt (dx t e)) ∧
      later (.frcp f) [f.a] F.k (round fun t e => exRcp (dx t e)) ∧ later (.frsq f) [f.a] F.k (round fun t e => exRsq (dx t e)) ∧
      later (.fexp2 f) [f.a] F.k (round fun t e => exExp2 (F.kind = 0 || F.kind = 3) (dx t e)) ∧
      later (.flog2 f) [f.a] F.k (round fun t e => exLog2 (dx t e)) ∧
      ((fieldOf f.c).testBit 2 = true → now (.fcvti f) [f.a, f.b] 1 (fun t => wordOfElems F.w ((List.range F.k).map (fun e =>
        if e = (b t).toNat % F.k then encode1 F (exOfRat (typed (fieldOf f.c % 4) (a t)) 1 false) (R t 0) else elemOf F.w (s.operand l f.d t) e))))) ∧
    (s.fmtClear l f m →
      now (.fdot f) [f.a, f.b] 1 (first fun t => exSum false ((List.range M.k).map (fun i => codeProduct M (elemOf M.w (am t) i) (elemOf M.w (bm t) i)) ++
        [if f.neg then (z t).negate else z t])) ∧
      now (.fsum f) [f.a] 1 (first fun t => exSum false ((List.range M.k).map (fun i => decodeCode M (elemOf M.w (am t) i)))) ∧
      (p < partsOf M.k F.k → now (.fcvt f) [f.a] (convPairs M.k F.k p).length (conv fun t j => decodeCode M (elemOf M.w (am t) j)) ∧
        (M.blk = 1 → now (.fbscl f) [] (convPairs M.k F.k p).length (conv fun t j =>
          let q := (t * M.k + j) / 32
          scaledEx (((s.groupAt l.ref).readOpnd 0 f.b (q / 8)).toNat / 2 ^ (8 * (q % 8)) % 256) (decodeCode M (elemOf M.w (am t) j))))))

/-- FRED writes the root of the tree over the active threads to each of them, and FSCAN each thread's node of the prefix network. Under stochastic rounding the nodes use RNE and the last sum of what is written is rounded once, by the words of the lowest active thread for FRED and of each thread for FSCAN, which step their counters by ceil(k/4); no other counter moves and nothing else changes (R56, R57, R156). -/
def Obligations.FormatReductions : Prop :=
  ∀ (s : State) (l : Latch) (f : FmtForm), s.issuing l = true →
    let c := s.core (s.groupAt l.ref).core
    let g := s.groupAt l.ref
    let act := s.activeSet l f.mask
    let low := lowBit 32 act.toNat
    let F := s.fmtAt l f.slot.toNat
    let a := s.fmtSource l f f.xa f.slot.toNat f.a
    let leaves := fun e => (List.range 32).map (fun n => if act.getLsbD n then some (⟨elemOf F.w (a n) e, none⟩ : Node) else none)
    let R := fun (n e : Nat) => if F.rnd = 5 then s.rngWord l n (e / 4) (e % 4) else 0
    let runs := fun (i : Instr) (draws : Nat → Prop) (val : Nat → Word) => ∃ t, exec i s = .next t ∧ s.Went t l l.next (fun h => { h with rngc := [] }) ∧
      g.Wrote (t.groupAt l.ref) act f.d val ∧
      ∀ n, n < 32 → (F.rnd = 5 ∧ draws n → (t.groupAt l.ref).readRng n = g.readRng n + wd ((F.k + 3) / 4)) ∧
        (¬ (F.rnd = 5 ∧ draws n) → (t.groupAt l.ref).readRng n = g.readRng n)
    (fmtExpansion f f.xa f.slot.toNat).bind (fun x => x.shapeTrap c g) = none →
    (fmtExpansion f f.xa f.slot.toNat).bind (fun x => x.invTrap c g (threadsOf act) (s.operand l f.a)) = none →
    runs (.fred f) (fun n => act ≠ 0 ∧ n = low) (fun _ => wordOfElems F.w ((List.range F.k).map (fun e => nodeCode F (treeRoot F (leaves e)) (R low e)))) ∧
    runs (.fscan f) (fun n => act.getLsbD n = true) (fun n => wordOfElems F.w ((List.range F.k).map (fun e => nodeCode F ((scanNet F (leaves e)).getD n none) (R n e))))

/-- FDEF defines its slot with a valid word, and nothing else changes; it traps FMTERR with cause 0x01 on any other word, the slot keeping its definition; FDRD writes a slot's word to D in the active threads, or once, f15 always binary32 (R6, R190, R191). -/
def Obligations.FormatDefinitions : Prop :=
  ∀ (s : State) (l : Latch) (f : RegForm), s.issuing l = true →
    let w := s.operand l f.a 0
    (fmtValid w = true → ∃ t, exec (.fdef f) s = .next t ∧ s.Went t l l.next (fun h => { h with f := [] }) ∧ (s.groupAt l.ref).Kept (t.groupAt l.ref) ∧
      ∀ n, n ≠ 15 → (t.groupAt l.ref).readF n = if n = f.fs.toNat then fmtStored w else (s.groupAt l.ref).readF n) ∧
    (fmtValid w = false → exec (.fdef f) s = .next (s.takeTrap l { code := 0x02, aux := 1 })) ∧
    s.Computes l f.mask f.d (.fdrd f) [] (fun _ => (s.groupAt l.ref).readF f.fs.toNat) ∧
    (s.groupAt l.ref).readF 15 = 0x000002000A0FF744

/-! ### Control flow and traps -/

/-- NOP and PSAFE go on at the next instruction and change nothing else; JMP goes on at its target, BRU and BRX at theirs where their condition holds and at the next instruction else, BRU's on one uniform word and BRX's on the active set and the split's mask; none changes a register. CALL writes the link in every thread of its split, or once, and goes on at its target. IDEM sets or clears the group's flag, and YIELD makes its group the youngest of its slot under greedy-then-oldest, and its slot's pick counts it as having yielded, so that it has no claim; neither changes anything else (R65, R119 to R121, R124, R128, R129, R204, R326, R327). -/
def Obligations.Branches : Prop :=
  (∀ (s : State) (l : Latch) (r : RegForm) (f : BranchForm), s.issuing l = true →
    let g := s.groupAt l.ref
    let target := l.pc + (f.off.signExtend 64) * 8
    let a := s.operand l f.a 0
    let act := s.activeSet l f.mask
    let goes := fun (i : Instr) (pc : Word) => ∃ t, exec i s = .next t ∧ s.Passed t l pc ∧ g.Kept (t.groupAt l.ref)
    goes (.nop r) l.next ∧ goes (.psafe r) l.next ∧ goes (.jmp f) target ∧
    (f.fs = 0 → goes (.bru f) (if a = 0 then target else l.next)) ∧ (f.fs = 1 → goes (.bru f) (if a ≠ 0 then target else l.next)) ∧
    (f.fs = 2 → goes (.bru f) (if sgn a < 0 then target else l.next)) ∧ (f.fs = 3 → goes (.bru f) (if 0 ≤ sgn a then target else l.next)) ∧
    (f.fs = 0 → goes (.brx f) (if act ≠ 0 then target else l.next)) ∧ (f.fs = 1 → goes (.brx f) (if act = l.self s then target else l.next)) ∧
    (f.fs = 2 → goes (.brx f) (if act = 0 then target else l.next)) ∧ (f.fs = 3 → goes (.brx f) (if act ≠ l.self s then target else l.next)) ∧
    (∃ t, exec (.call f) s = .next t ∧ s.Passed t l target ∧ g.Wrote (t.groupAt l.ref) (l.self s) f.d (fun _ => l.pc + 8))) ∧
  (∀ (s : State) (l : Latch) (f : RegForm), s.issuing l = true →
    let g := s.groupAt l.ref
    let c := s.core g.core
    let slot := g.resid % 4
    let me := (l.ref.team, l.ref.grp)
    (∃ t, exec (.yield f) s = .next t ∧ s.Moved t l l.next ∧ g.Kept (t.groupAt l.ref) ∧ (∀ a, a ≠ l.ref.team → t.team a = s.team a) ∧
      { t.team l.ref.team with groups := [] } = { s.team l.ref.team with groups := [] } ∧ (∀ b, b ≠ l.ref.grp → t.group l.ref.team b = s.group l.ref.team b) ∧
      { t with teams := [], latch := none, cores := [] } = { s with teams := [], latch := none, cores := [] } ∧ (∀ d, d ≠ g.core → t.core d = s.core d) ∧
      (c.rr = true → t.cores = s.cores) ∧
      (c.rr = false → { t.core g.core with ages := [], pick := [] } = { c with ages := [], pick := [] } ∧
        AMap.find (t.core g.core).ages slot = some (((AMap.find c.ages slot).getD []).filter (fun x => x != me) ++ [me]) ∧
        (∀ k, k ≠ slot → AMap.find (t.core g.core).ages k = AMap.find c.ages k) ∧
        ∀ k, AMap.find (t.core g.core).pick k = (AMap.find c.pick k).map (fun p => if k = slot then { p with yielded := true } else p))) ∧
    (∃ t, exec (.idem f) s = .next t ∧ s.Went t l l.next (fun h => { h with idem := false }) ∧ g.Kept (t.groupAt l.ref) ∧ (t.groupAt l.ref).idem = decide (f.fs = 1)))

/-- BRD: a split whose threads agree goes on whole; one that divides keeps the taken threads, and the lowest free entry takes the others at the instruction after it, both under one frame whose TOKEN is the reconvergence address; with no entry or frame free the others go to the spill stack; with that full the instruction traps SPLITOVF (R101, R108, R122). RCV: the split goes on past an RCV of no frame of its own; it parks at the token while another holder of the frame has still to arrive; as its only holder it goes on under the frame's parent; and its pending spilled threads run before it parks. JOIN goes on past itself where the split is the whole group, and parks else (R103, R106, R109, R123, R130). -/
def Obligations.DivergenceAndReconvergence : Prop :=
  (∀ (s : State) (l : Latch) (f : BranchForm), s.issuing l = true →
    let g := s.groupAt l.ref
    let me := l.ref.split
    let taken := s.activeSet l f.mask
    let others := l.self s &&& ~~~taken
    let target := l.pc + (f.off.signExtend 64) * 8
    let T := l.pc + ((f.recv.getD 0).signExtend 64) * 8
    let same := (g.frame (g.split me).frame).token = T
    let room := g.freeSplit ≠ none ∧ (same ∨ g.freeFrame ≠ none)
    g.frames.length = 8 → (g.split me).st ≠ 0 →
    (others = 0 → ∃ t, exec (.brd f) s = .next t ∧ s.Passed t l target ∧ g.Kept (t.groupAt l.ref)) ∧
    (others ≠ 0 → taken = 0 → ∃ t, exec (.brd f) s = .next t ∧ s.Passed t l l.next ∧ g.Kept (t.groupAt l.ref)) ∧
    (others ≠ 0 → taken ≠ 0 → room → ∃ t, exec (.brd f) s = .next t ∧ g.Kept (t.groupAt l.ref) ∧
      let h := t.groupAt l.ref
      (h.split me).mask = taken ∧ (h.split me).pc = target ∧ (h.frame (h.split me).frame).token = T ∧
      ∃ n, g.freeSplit = some n ∧ (h.split n).st = 1 ∧ (h.split n).mask = others ∧ (h.split n).pc = l.next ∧ (h.split n).frame = (h.split me).frame ∧
        ∀ k, k ≠ me → k ≠ n → h.split k = g.split k) ∧
    (others ≠ 0 → taken ≠ 0 → ¬ room → g.spill.length < 32 → ∃ t, exec (.brd f) s = .next t ∧ g.Kept (t.groupAt l.ref) ∧
      ((t.groupAt l.ref).split me).mask = taken ∧ ((t.groupAt l.ref).split me).pc = target ∧
      (t.groupAt l.ref).spill = g.spill ++ [{ mask := others, token := T, owner := me, frame := (g.split me).frame, park := false, pc := l.next }]) ∧
    (others ≠ 0 → taken ≠ 0 → ¬ room → 32 ≤ g.spill.length → exec (.brd f) s = .next (s.takeTrap l { code := 0x17 }))) ∧
  (∀ (s : State) (l : Latch) (f : RegForm), s.issuing l = true →
    let g := s.groupAt l.ref
    let me := l.ref.split
    let fr := (g.split me).frame
    g.frames.length = 8 → (g.split me).st ≠ 0 →
    (g.topSpill me = none → (g.chain fr).all (fun x => (g.frame x).token != l.pc) = true →
      ∃ t, exec (.rcv f) s = .next t ∧ s.Passed t l l.next ∧ g.Kept (t.groupAt l.ref)) ∧
    (∀ e idx, g.topSpill me = some (e, idx) → e.token = l.pc → e.park = false →
      ∃ t, exec (.rcv f) s = .next t ∧ g.Kept (t.groupAt l.ref) ∧ ((t.groupAt l.ref).split me).mask = e.mask ∧ ((t.groupAt l.ref).split me).pc = e.pc ∧
        (t.groupAt l.ref).spill = g.spill.set idx { e with mask := (g.split me).mask, park := true, pc := l.pc, token := l.pc }) ∧
    (g.spill = [] → 0 < fr → fr < 8 → (g.frame fr).valid = true → (g.frame fr).token = l.pc → (g.frame fr).depth < 8 →
      ((∃ j, j < 8 ∧ j ≠ me ∧ (g.split j).st = 1 ∧ (g.split j).frame = fr) → (∀ j, j ≠ me → (g.split j).st ≠ 3) →
        ∃ t, exec (.rcv f) s = .next t ∧ g.Kept (t.groupAt l.ref) ∧ ((t.groupAt l.ref).split me).st = 3 ∧
          ((t.groupAt l.ref).split me).wait = .token l.pc ∧ ((t.groupAt l.ref).split me).mask = (g.split me).mask) ∧
      ((∀ j, j ≠ me → (g.split j).st ≠ 0 → fr ∉ g.chain (g.split j).frame) →
        ∃ t, exec (.rcv f) s = .next t ∧ g.Kept (t.groupAt l.ref) ∧ ((t.groupAt l.ref).split me).st = (g.split me).ready ∧
          ((t.groupAt l.ref).split me).pc = l.pc + 8 ∧ ((t.groupAt l.ref).split me).frame = (g.frame fr).parent ∧
          ((t.groupAt l.ref).split me).mask = (g.split me).mask)) ∧
    ((g.split me).mask = g.present → g.spill = [] → ∃ t, exec (.join f) s = .next t ∧ g.Kept (t.groupAt l.ref) ∧
      ((t.groupAt l.ref).split me).pc = l.next ∧ ((t.groupAt l.ref).split me).frame = 0 ∧ ((t.groupAt l.ref).split me).st = (g.split me).st) ∧
    ((g.split me).mask ≠ g.present → (∀ j, j ≠ me → (g.split j).st ≠ 4) → ∃ t, exec (.join f) s = .next t ∧ g.Kept (t.groupAt l.ref) ∧
      ((t.groupAt l.ref).split me).st = 4 ∧ ((t.groupAt l.ref).split me).wait = .join l.pc ∧ ((t.groupAt l.ref).split me).mask = (g.split me).mask))

/-- RET and JMPI: each thread of the split goes on at its own target, one split for each distinct target and the lowest with the split's own entry; too few free entries trap SPLITOVF, before a misaligned target traps ALIGN (R125). -/
def Obligations.IndirectBranch : Prop :=
  ∀ (s : State) (l : Latch) (f : RegForm) (i : Instr), i = .ret f ∨ i = .jmpi f → s.issuing l = true →
    let g := s.groupAt l.ref
    let ts := threadsOf (l.self s)
    let target := fun t => (s.operand l f.a t).toNat
    let distinct := ascending (ts.map target)
    let free := ((List.range 8).filter (fun k => !g.used k)).length
    (g.split l.ref.split).st ≠ 0 →
    (free + 1 < distinct.length → ∃ q, q.code = 0x17 ∧ exec i s = .next (s.takeTrap l q)) ∧
    (distinct.length ≤ free + 1 → (∃ t ∈ ts, target t % 8 ≠ 0) → ∃ q, q.code = 0x07 ∧ q.addrs = ts.map (fun t => (t, wd (target t))) ∧ exec i s = .next (s.takeTrap l q)) ∧
    (distinct.length ≤ free + 1 → (∀ t ∈ ts, target t % 8 = 0) → ∃ u, exec i s = .next u ∧ g.Kept (u.groupAt l.ref) ∧
      (∀ t ∈ ts, ∃ k, ((u.groupAt l.ref).split k).mask.getLsbD t = true ∧ ((u.groupAt l.ref).split k).pc = wd (target t) ∧
        ((u.groupAt l.ref).split k).frame = (g.split l.ref.split).frame) ∧
      (∀ t ∈ ts, (∀ u' ∈ ts, target t ≤ target u') → ((u.groupAt l.ref).split l.ref.split).mask.getLsbD t = true))

/-- EXIT ends the active threads, live or demoted, and leaves the others of the split in it; DEMOTE makes the active live threads demoted and keeps them in the split; inside an open transaction both abort it and have no effect (R17, R126, R127, R253). -/
def Obligations.ExitAndDemote : Prop :=
  ∀ (s : State) (l : Latch) (f : RegForm), s.issuing l = true →
    let g := s.groupAt l.ref
    let act := s.activeSet l f.mask
    (g.openTx = none → (g.split l.ref.split).st = 1 ∨ (g.split l.ref.split).st = 6 → ∃ t, exec (.exit f) s = .next t ∧
      (t.groupAt l.ref).live = g.live &&& ~~~act ∧ (t.groupAt l.ref).dem = g.dem &&& ~~~act ∧
      (l.self s &&& ~~~act ≠ 0 → ((t.groupAt l.ref).split l.ref.split).mask = l.self s &&& ~~~act ∧ ((t.groupAt l.ref).split l.ref.split).pc = l.next)) ∧
    (g.openTx = none → ∃ t, exec (.demote f) s = .next t ∧ g.Kept (t.groupAt l.ref) ∧
      s.Went t l l.next (fun h => { h with live := 0, dem := 0 }) ∧
      (t.groupAt l.ref).live = g.live &&& ~~~act ∧ (t.groupAt l.ref).dem = g.dem ||| (act &&& g.live)) ∧
    (∀ x, g.tx = some x → x.sent = false → x.abort = none → ∀ i, i = Instr.exit f ∨ i = .demote f → ∃ t, exec i s = .next t ∧ g.Kept (t.groupAt l.ref) ∧
      s.Went t l l.next (fun h => { h with tx := none }) ∧ (t.groupAt l.ref).tx = some { x with abort := some (7, 0) })

/-- Taking a trap where the launch names a handler, no split of the group is in it, and its record can be written: the split goes on at the handler's address in state 6; the trap registers hold what R79 presents, the fields of the words among them, and TRAPADDR the addresses of the trap; the record is written at FRECBASE and counted; no register of the files, no pending write, no other split and nothing outside the group, its fault records and the error log of a consumed word changes (R79, R80, R114, R317, R454). TRAP takes SWTRAP with its operand in TRAPAUX, and BKPT takes BKPT with zero there; each so enters the handler (R131). A trap in a handler is a double trap: it stops the group and goes to the region, and so does a trap of a launch that names no handler; the launch has then ended with the trap's code as its status (R316, R441). A trap while another split of the group is in the handler waits in state 7, and leaves the trap registers as they are (R80, R114). -/
def Obligations.TrapEntry : Prop :=
  (∀ (s s1 : State) (l : Latch) (f : RegForm) (q : TrapReq) (h : Word), s.issuing l = true → q.txAbort = false → q.deferred = false →
    regionOnly q.code = false → (s.launchOf l.ref.team).handler = some h → (s.splitAt l.ref).handler = false → (s.groupAt l.ref).handling l.ref.split = false →
    (({ s with latch := none } : State).sawBad q.word).recordTrap l.ref.team l.ref.grp l.ref.split ⟨q, l.pc, l.w0, l.w1, l.next⟩ = some s1 →
    let g := s.groupAt l.ref
    let entered := fun (t : State) (code aux : Nat) =>
      let u := t.groupAt l.ref
      t.latch = none ∧ t.splitAt l.ref = { s.splitAt l.ref with st := 6, handler := true, pc := h, wait := .none, waitCnt := 0, urgent := false } ∧
      AMap.get u.trap 0x20 0 = wd code ∧ AMap.get u.trap 0x21 0 = l.pc ∧ AMap.get u.trap 0x22 0 = l.w0 ∧
      AMap.get u.trap 0x23 0 = (if l.w0.getLsbD 0 then l.w1 else 0) ∧ AMap.get u.trap 0x24 0 = wd (fld l.w0 63 56) ∧ AMap.get u.trap 0x25 0 = wd (fld l.w0 43 36) ∧
      AMap.get u.trap 0x26 0 = wd (fld l.w0 35 28) ∧ AMap.get u.trap 0x27 0 = wd (fld l.w0 27 20) ∧ AMap.get u.trap 0x28 0 = wd (fld l.w0 19 12) ∧
      AMap.get u.trap 0x29 0 = wd (fld l.w0 11 1) ∧ AMap.get u.trap 0x2A 0 = wd (fld l.w0 51 48) ∧ AMap.get u.trap 0x2B 0 = wd (fld l.w0 47 44) ∧
      AMap.get u.trap 0x2D 0 = wd aux ∧
      u.v = g.v ∧ u.g = g.g ∧ u.k = g.k ∧ u.pends = g.pends ∧ u.nextInst = g.nextInst ∧ u.event = (g.event + 1) % 2 ^ 16 ∧
      { u.rest with trap := [], trapAddr := [], event := 0 } = { g.rest with trap := [], trapAddr := [], event := 0 } ∧ (∀ i, i ≠ l.ref.split → u.split i = g.split i)
    (let t := s.takeTrap l q
     entered t q.code q.aux ∧ (t.groupAt l.ref).trapAddr = q.addrs.filter (fun a => a.2 != 0) ∧
     { t with teams := [], latch := none } = { s1 with teams := [], latch := none } ∧ (∀ a, a ≠ l.ref.team → t.team a = s1.team a)) ∧
    (q = { code := 0x13, aux := (s.operand l f.a 0).toNat } → ∃ t, exec (.trap f) s = .next t ∧ t = s.takeTrap l q ∧ entered t 0x13 (s.operand l f.a 0).toNat) ∧
    (q = { code := 0x14 } → ∃ t, exec (.bkpt f) s = .next t ∧ t = s.takeTrap l q ∧ entered t 0x14 0)) ∧
  (∀ (s : State) (l : Latch) (f : RegForm), s.issuing l = true →
    exec (.trap f) s = .next (s.takeTrap l { code := 0x13, aux := (s.operand l f.a 0).toNat }) ∧
    exec (.bkpt f) s = .next (s.takeTrap l { code := 0x14, aux := 0 })) ∧
  (∀ (s : State) (l : Latch) (q : TrapReq), s.issuing l = true → q.txAbort = false →
    let g := s.groupAt l.ref
    let t := s.takeTrap l q
    let lid := (s.team l.ref.team).launch
    ((s.splitAt l.ref).handler = true ∨ (s.launchOf l.ref.team).handler = none → (t.groupAt l.ref).stopped = true ∧
      ((s.launch lid).complete = false → (s.launch lid).ended = none → (t.launch lid).ended = some q.code)) ∧
    ((s.splitAt l.ref).handler = false → regionOnly q.code = false → (s.launchOf l.ref.team).handler ≠ none → g.handling l.ref.split = true →
      (t.splitAt l.ref).st = 7 ∧ (t.groupAt l.ref).trap = g.trap ∧ (t.groupAt l.ref).v = g.v ∧ (t.groupAt l.ref).g = g.g ∧ (t.groupAt l.ref).k = g.k ∧
      t.mem = s.mem ∧ AMap.find (t.groupAt l.ref).waiting l.ref.split = some ⟨q, l.pc, l.w0, l.w1, l.next⟩))

/-- RTT ends a handler: the split runs in state 1 at TRAPPC for a retry, at the resume address of a deferred trap, or else past the instruction that trapped, and of its group nothing changes but the windows that count the instruction passed over; the trap registers keep their values. With splits waiting in state 7 the lowest of them enters the handler then. Outside a handler RTT traps ILLOP with cause 0x08, and on a misaligned target ALIGN (R25, R72, R114, R315, R323). That a SWTRAP's operand with bit 63 set does not make its trap a deferred one is the model's reading (log 96). -/
def Obligations.ReturnFromTrap : Prop :=
  ∀ (s : State) (l : Latch) (f : RegForm), s.issuing l = true →
    let g := s.groupAt l.ref
    let aux := AMap.get g.trap 0x2D 0
    let pc := AMap.get g.trap 0x21 0
    let target := if f.fs = 1 then pc else if aux.getLsbD 63 = true ∧ AMap.get g.trap 0x20 0 ≠ 0x13 then wd (aux.toNat % 2 ^ 57 / 8 * 8)
      else if (AMap.get g.trap 0x22 0).getLsbD 0 then pc + 16 else pc + 8
    let back := { s.splitAt l.ref with st := 1, handler := false, pc := target, waitCnt := 0, urgent := false }
    ((s.splitAt l.ref).handler = true → target.toNat % 8 = 0 → (∀ i, i < 8 → (g.split i).st ≠ 7) → ∃ t, exec (.rtt f) s = .next t ∧ s.SameBut t l.ref ∧ t.latch = none ∧
      t.splitAt l.ref = back ∧ (∀ i, i ≠ l.ref.split → (t.groupAt l.ref).split i = g.split i) ∧ (t.groupAt l.ref).trap = g.trap ∧
      (t.groupAt l.ref).rest = g.rest ∧ g.Kept (t.groupAt l.ref)) ∧
    (∀ j (q : TrapAt), (s.splitAt l.ref).handler = true → target.toNat % 8 = 0 → (∀ i, i < 8 → i ≠ l.ref.split → (g.split i).handler = false) → j < 8 → j ≠ l.ref.split → (g.split j).st = 7 →
      (∀ i, i < j → (g.split i).st ≠ 7) → AMap.find g.waiting j = some q → ∃ t, exec (.rtt f) s = .next t ∧ t.splitAt l.ref = back ∧
        ((t.groupAt l.ref).stopped = false → (s.launchOf l.ref.team).handler = some ((t.groupAt l.ref).split j).pc ∧ ((t.groupAt l.ref).split j).st = 6 ∧
          ((t.groupAt l.ref).split j).handler = true ∧ (t.groupAt l.ref).trap = q.regs)) ∧
    ((s.splitAt l.ref).handler = false → exec (.rtt f) s = .next (s.takeTrap l { code := 0x01, aux := 0x08 })) ∧
    ((s.splitAt l.ref).handler = true → target.toNat % 8 ≠ 0 → ∃ q, q.code = 0x07 ∧ exec (.rtt f) s = .next (s.takeTrap l q))

/-! ### Memory -/

/-- A load that nothing stops leaves its words pending for D in the active threads and changes no register and no memory: LD in each active thread, LDU once, LDACQ with acquire order, LDP the packed elements of each thread, LDV a block of registers, LDBK block records (R236 to R240, R243). That the words are read at issue is the model's choice (log 4). -/
def Obligations.LoadsIssue : Prop :=
  ∀ (s : State) (l : Latch) (f : MemForm), s.issuing l = true →
    let g := s.groupAt l.ref
    let act := s.activeSet l f.mask
    let ts := threadsOf act
    let w := fmtWidth (g.readF f.fs.toNat)
    let base := fun t => memEa g (l.self s) f t
    let start := packedStart g (l.self s) f
    let reg := (destField f.d).getD 0
    let goes := fun (i : Instr) (req : MemReq) (desc : Option Word) =>
      s.Reaches l req desc → s.Settled l req → ∃ t, exec i s = .next t ∧ s.Loads t l act req
    let desc := rangeWord g (l.self s) f
    let packed : MemReq := { baseReq f .load with
      align := 1, dests := [reg]
      accs := ts.map (fun t => loadPieces t (wd ((start + t * (lanesOf w * w)) / 8)) (packedPieces start w t reg)) }
    let block : MemReq := { baseReq f .load with
      dests := loadDests f.d (2 ^ f.size.val)
      accs := ts.map (fun t => { thr := t, ea := base t, va := vecBytes (base t) (2 ^ f.size.val / 8) t, recvs := loadRecvs f.d (2 ^ f.size.val) false }) }
    let records : MemReq := { baseReq f .load with
      align := 1, dests := [reg, reg + 1]
      accs := ts.map (fun t => loadPieces t (base t) ((blockPieces (base t).toNat w t).map (fun p => { p with reg := reg + p.reg }))) }
    (isVec f.d = true → f.order ≠ .release → goes (.ld f) (s.loadReq l f false) none) ∧
    (isUni f.d = true → f.order ≠ .release → goes (.ldu f) (s.loadReq l f true) none) ∧
    (isVec f.d = true → uniformBad f.d [f.a, f.b] = false →
      goes (.ldacq f) { s.loadReq l f false with order := .acquire, range := rangeOf desc } desc) ∧
    (isVec f.d = true → f.order = .plain → goes (.ldp f) packed none) ∧
    (isVec f.d = true → f.order = .plain → goes (.ldv f) block none) ∧
    (isVec f.d = true → reg + 1 < 192 → f.order = .plain → (g.fmt f.fs.toNat).blk = 1 → blockProt s l.ref.team g f base ts false = none →
      goes (.ldbk f) records none)

/-- The word that LD gives a thread: the SIZE bytes at its effective address, the lowest first, sign-extended with SX and zero-extended else; of 16 bytes and more, register j of D receives bytes 8j to 8j + 7 (R2, R67, R236). What an integer atomic writes: the sum, AND, OR, XOR, signed or unsigned minimum or maximum of the old word and the operand, in n bytes; a compare-and-swap its operand where the old word is the comparand (R245, R246). -/
def Obligations.LoadedAndCombinedWords : Prop :=
  (∀ (s : State) (l : Latch) (f : MemForm) (d : Fin 192) (t : Nat), f.d = .v d → t < 32 → (s.activeSet l f.mask).getLsbD t = true →
    let req := s.loadReq l f false
    let n := 2 ^ f.size.val
    ∃ a ∈ req.accs, a.thr = t ∧ a.ea = s.operand l f.a t + s.operand l f.b t * wd (if f.size.val = 7 then 1 + 4 * fmtWidth ((s.groupAt l.ref).readF f.fs.toNat) else n) + f.disp.getD 0 ∧
      a.va = (List.range n).map (fun i => a.ea.toNat + i) ∧
      (n ≤ 8 → s.loadedWord l req d.val t = if f.sx then wordOfInt (sextNat (8 * n) (s.found l req a)) else wd (s.found l req a % 2 ^ (8 * n))) ∧
      (8 < n → ∀ j, 8 * j < n → d.val + j < 192 → s.loadedWord l req (d.val + j) t = wd (s.found l req a / 2 ^ (64 * j) % 2 ^ 64))) ∧
  (∀ (n old v c : Nat), 0 < n → old < 2 ^ (8 * n) → v < 2 ^ (8 * n) →
    let sg := fun x => sextNat (8 * n) x
    atomVal (.int 0) n old v c = (old + v) % 2 ^ (8 * n) ∧ atomVal (.int 1) n old v c = old &&& v ∧ atomVal (.int 2) n old v c = old ||| v ∧
    atomVal (.int 3) n old v c = old ^^^ v ∧ sg (atomVal (.int 4) n old v c) = min (sg old) (sg v) ∧ sg (atomVal (.int 5) n old v c) = max (sg old) (sg v) ∧
    atomVal (.int 6) n old v c = min old v ∧ atomVal (.int 7) n old v c = max old v ∧ atomVal .cas n old v c = (if old = c then v else old) ∧
    ∀ o, atomVal (.int o) n old v c < 2 ^ (8 * n))

/-- A store that nothing stops, plain or relaxed, waits to be performed with the bytes of D at the effective address of each active live thread; a demoted thread stores nothing (R18, R235 to R240). -/
def Obligations.StoresIssue : Prop :=
  ∀ (s : State) (l : Latch) (f : MemForm), s.issuing l = true → f.order = .plain ∨ f.order = .relaxed →
    let g := s.groupAt l.ref
    let ts := threadsOf (s.activeLive l f.mask)
    let w := fmtWidth (g.readF f.fs.toNat)
    let base := fun t => memEa g (l.self s) f t
    let start := packedStart g (l.self s) f
    let n := 2 ^ f.size.val
    let goes := fun (i : Instr) (req : MemReq) => s.Reaches l req none → ∃ t, exec i s = .next t ∧ s.Queues t l req
    goes (.st f) (s.storeReq l f false) ∧ goes (.stu f) (s.storeReq l f true) ∧
    goes (.stv f) { baseReq f .store with accs := ts.map (fun t =>
      { thr := t, ea := base t, va := vecBytes (base t) (n / 8) t, val := storeVal g (l.self s) f.d t n }) } ∧
    goes (.stp f) { baseReq f (.atomic .bits) with align := 1, accs := ts.map (fun t =>
      storePieces t (wd ((start + t * (lanesOf w * w)) / 8)) (packedPieces start w t 0) (fun _ => s.operand l f.d t)) } ∧
    ((g.fmt f.fs.toNat).blk = 1 → blockProt s l.ref.team g f base ts true = none →
      goes (.stbk f) { baseReq f (.atomic .bits) with align := 1, accs := ts.map (fun t =>
        storePieces t (base t) (blockPieces (base t).toNat w t) (fun r => s.operand l (tupleAt f.d r) t)) })

/-- STORE_PERFORMED performs an issued store that nothing holds back, whose end-to-end tests pass: each location it reaches once reads as the byte stored, its issued copy is gone, and every other byte is as it was; of the aligned 8 bytes around a byte it stores, the storing core's L1 may have written dirty bytes back and dropped the others (R220, R223, R235). STORE_PERFORMED of an atomic of one thread: its word is read, combined and written in one action, and the old value becomes ready for D; a compare-and-swap whose comparand differs writes nothing (R235, R245, R246). -/
def Obligations.StoresAndAtomicsPerformed : Prop :=
  (∀ (s : State) (id : Nat) (p : PStore), s.canonical = true → s.stores.find? (fun q => q.id = id) = some p → p.op = .store → s.tests = [] →
    (s.stores.takeWhile (fun q => q.id != id)).any (fun q => q.before p) = false → cellsLocked s.lockedLines p.cells = false →
    s.matrixReads p = false → s.noTbWaits →
    ∃ t, exec (.storePerformed (.performed id) {}) s = .next t ∧ t.stores = s.stores.filter (fun q => q.id ≠ id) ∧
      (∀ k, (∀ c ∈ p.cells, ∀ j, c.loc = .mem j → j / 8 ≠ k / 8) → t.mem.read k = s.mem.read k ∧ ∀ c, (t.core c).l1At k = (s.core c).l1At k) ∧
      (∀ k, (∀ c ∈ p.cells, c.loc ≠ .mem k) →
        (t.mem.read k = s.mem.read k ∨ ∃ b, (s.core p.core).l1At k = some b ∧ b.dirty = true ∧ t.mem.read k = b.val) ∧
        (t.sees p.core k = s.sees p.core k ∨ t.sees p.core k = s.mem.read k) ∧ ∀ c, c ≠ p.core → (t.core c).l1At k = (s.core c).l1At k) ∧
      (∀ team side off, (∀ c ∈ p.cells, ∀ side' off', c.loc = .sp team side' off' → side' * 2 ^ 32 + off' ≠ side * 2 ^ 32 + off) →
        t.readSp team side off = s.readSp team side off) ∧
      ((∀ c ∈ p.cells, ∀ d a, c.loc ≠ .host d a) → t.host = s.host) ∧
      ((p.cells.map (fun c => c.loc)).Nodup → (∀ c ∈ p.cells, ∃ k, c.loc = .mem k) → ∀ a ∈ p.accs, ∀ i c, a.cells[i]? = some c →
        (t.readCell p.core c).1 = BitVec.ofNat 8 (a.val / 2 ^ (8 * i)))) ∧
  (∀ (s : State) (id : Nat) (p : PStore) (o : AtomOp) (a : Acc), s.canonical = true → s.stores.find? (fun q => q.id = id) = some p → p.op = .atomic o → p.accs = [a] → s.tests = [] →
    (s.stores.takeWhile (fun q => q.id != id)).any (fun q => q.before p) = false → cellsLocked s.lockedLines p.cells = false →
    s.matrixReads p = false → (a.cells.map (fun c => c.loc)).Nodup → (∀ c ∈ a.cells, ∃ k, c.loc = .mem k) → (∀ c ∈ a.cells, ∀ d ∈ a.cells, c.path = d.path) →
    let old := leNat (a.cells.map (fun c => (s.readCell p.core c).1))
    let new := if o = .cas ∧ old ≠ a.cmp then old else atomVal o a.cells.length old a.val a.cmp
    ∃ t, exec (.storePerformed (.performed id) {}) s = .next t ∧
      (∀ i c, a.cells[i]? = some c → (t.readCell p.core c).1 = BitVec.ofNat 8 (new / 2 ^ (8 * i))) ∧
      (∀ k, (∀ c ∈ a.cells, c.loc ≠ .mem k) →
        (t.mem.read k = s.mem.read k ∨ ∃ b, (s.core p.core).l1At k = some b ∧ b.dirty = true ∧ t.mem.read k = b.val) ∧
        (t.sees p.core k = s.sees p.core k ∨ t.sees p.core k = s.mem.read k) ∧ ∀ c, c ≠ p.core → (t.core c).l1At k = (s.core c).l1At k) ∧
      (∀ q ∈ (s.group p.team p.grp).pends, q.inst = p.inst → q.src = .memory → (∀ q' ∈ (s.group p.team p.grp).pends, q'.inst = p.inst → q'.reg = q.reg → q' = q) →
        ∃ q' ∈ (t.group p.team p.grp).pends, q'.inst = p.inst ∧ q'.reg = q.reg ∧ q'.src = .ready ∧
          AMap.get q'.vals (if 192 ≤ q.reg then 0 else a.thr) 0 = recvWord a.recvs q.reg old))

/-- An atomic that nothing stops, without acquire or release order, waits to be performed with its operand and comparand, its old value pending for D (R235, R245 to R248). -/
def Obligations.AtomicsIssue : Prop :=
  ∀ (s : State) (l : Latch) (f : MemForm), s.issuing l = true → f.order = .plain ∨ f.order = .relaxed → uniformBad f.d [f.a, f.b, f.c] = false →
    let g := s.groupAt l.ref
    let opc := f.cache.toNat * 2 + natOfBool f.sx
    let act := if isUni f.d then (if l.self s &&& g.live = 0 then 0 else l.self s) else s.activeLive l f.mask
    let goes := fun (i : Instr) (req : MemReq) => s.Reaches l req none → ∃ t, exec i s = .next t ∧ s.Queues t l req ∧
      (act ≠ 0 → ∀ r ∈ req.dests, ∃ q ∈ (t.groupAt l.ref).pends, q.inst = g.nextInst ∧ q.reg = r ∧ q.mask = act ∧ q.src = .memory ∧ q.arrived = false)
    goes (.atom f) (s.atomReq l f (.int opc) (opc = 4 || opc = 5)) ∧ goes (.acas f) (s.atomReq l f .cas false) ∧
    ((g.fmt f.fs.toNat).kind = 0 → (g.fmt f.fs.toNat).rnd ≠ 5 → (g.fmt f.fs.toNat).blk = 0 →
      goes (.fatom f) (s.atomReq l f (.flt opc (g.readF f.fs.toNat)) false))

/-- A misaligned address in any active thread traps ALIGN on the instruction, with the failing threads' addresses in TRAPADDR, and nothing is loaded, stored or written (R210, R314). A g-register destination with a per-thread source traps UNIFORM, whatever the active set holds, for the integer, logic, compare, move and format arithmetic instructions (R12, R77). -/
def Obligations.OperandTraps : Prop :=
  (∀ (s : State) (l : Latch) (f : MemForm) (i : Instr) (act : Half),
    (i, act) ∈ [(Instr.ld f, s.activeSet l f.mask), (.st f, s.activeLive l f.mask)] → s.issuing l = true →
    (s.groupAt l.ref).tx = none → s.det l.ref.team = false →
    let ea := fun t => memEa (s.groupAt l.ref) (l.self s) f t
    let bad := (threadsOf act).filter (fun t => (ea t).toNat % 2 ^ f.size.val != 0)
    bad ≠ [] → ∃ q, q.code = 0x07 ∧ q.addrs = bad.map (fun t => (t, ea t)) ∧ exec i s = .next (s.takeTrap l q)) ∧
  (∀ (s : State) (l : Latch) (f : RegForm) (m : ImmForm) (x : FmtForm) (i : Instr) (d : Opnd) (srcs : List Opnd),
    (i, d, srcs) ∈ [(Instr.iadd f, f.d, [f.a, f.b]), (.isub f, f.d, [f.a, f.b]), (.imul f, f.d, [f.a, f.b]), (.imulh f, f.d, [f.a, f.b]),
      (.imad f, f.d, [f.a, f.b, f.c]), (.idiv f, f.d, [f.a, f.b]), (.irem f, f.d, [f.a, f.b]), (.imin f, f.d, [f.a, f.b]), (.imax f, f.d, [f.a, f.b]),
      (.iabs f, f.d, [f.a]), (.ineg f, f.d, [f.a]), (.icmp f, f.d, [f.a, f.b]), (.isel f, f.d, [f.a, f.b, f.c]), (.and f, f.d, [f.a, f.b]),
      (.or f, f.d, [f.a, f.b]), (.xor f, f.d, [f.a, f.b]), (.tlog f, f.d, [f.a, f.b, f.c]), (.shl f, f.d, [f.a, f.b]), (.shr f, f.d, [f.a, f.b]),
      (.sar f, f.d, [f.a, f.b]), (.rotl f, f.d, [f.a, f.b]), (.shfn f, f.d, [f.a, f.b, f.c]), (.bext f, f.d, [f.a, f.b, f.c]), (.bins f, f.d, [f.a, f.b, f.c]),
      (.popc f, f.d, [f.a]), (.clz f, f.d, [f.a]), (.ctz f, f.d, [f.a]), (.brev f, f.d, [f.a]), (.lea f, f.d, [f.a, f.b]), (.mov f, f.d, [f.a]),
      (.iaddi m, m.d, [m.a]), (.imuli m, m.d, [m.a]), (.andi m, m.d, [m.a]), (.ori m, m.d, [m.a]), (.xori m, m.d, [m.a]), (.shli m, m.d, [m.a]),
      (.shri m, m.d, [m.a]), (.sari m, m.d, [m.a]), (.icmpi m, m.d, [m.a]), (.fadd x, x.d, [x.a, x.b]), (.fsub x, x.d, [x.a, x.b]),
      (.fmul x, x.d, [x.a, x.b]), (.fmad x, x.d, [x.a, x.b, x.c]), (.fdiv x, x.d, [x.a, x.b]), (.fmin x, x.d, [x.a, x.b]), (.fmax x, x.d, [x.a, x.b]),
      (.fcmp x, x.d, [x.a, x.b]), (.fsqrt x, x.d, [x.a]), (.fcvt x, x.d, [x.a])] →
    s.issuing l = true → isUni d = true → srcs.any isVec = true → exec i s = .next (s.takeTrap l { code := 0x04 }))

/-- A release that reaches beyond the core writes every dirty byte of its L1 back but private ones, and an acquire drops every clean byte but private ones: FENCE by its kind, and ST or STREL with release order before its own bytes, which are then what its locations read as (R227, R243, R250). -/
def Obligations.ReleaseAndAcquire : Prop :=
  ∀ (s : State) (l : Latch), s.issuing l = true →
    let g := s.groupAt l.ref
    let c := g.core
    let paired := (s.team l.ref.team).paired
    s.canonical = true → g.tx = none → s.det l.ref.team = false → logWaits g (l.self s) = false → s.groupStores l.ref.team l.ref.grp = [] →
    s.lockedLines = [] → s.remoteOf l.ref.team l.ref.grp 0xFFFFFFFF = false →
    (∀ f : RegForm, s.remotePending l.ref.team l.ref.grp = false ∨ f.fs.toNat < 5 → s.readPending l.ref.team l.ref.grp (threadsOf (l.self s)) = false → f.mod.toNat % 4 < 3 →
      ∃ t, exec (.fence f) s = .next t ∧ s.Moved t l l.next ∧ g.Kept (t.groupAt l.ref) ∧ s.Local t l.ref ∧ s.KeepsMemory t c ∧
        (f.mod.toNat % 4 ≠ 2 → wide paired f.fs.toNat = true → ∀ k b, (s.core c).l1At k = some b → b.dirty = true → b.priv = none → t.mem.read k = b.val) ∧
        (f.mod.toNat % 4 ≠ 1 → wide paired f.fs.toNat = true → ∀ k b, (t.core c).l1At k = some b → b.dirty = true ∨ b.priv ≠ none)) ∧
    (s.noTbWaits → ∀ (f : MemForm) (i : Instr) (desc : Option Word), (i = .st f ∧ f.order = .release ∧ desc = none) ∨ (i = .strel f ∧ desc = rangeWord g (l.self s) f) →
      let req := { s.storeReq l f false with order := .release, range := rangeOf desc }
      s.Reaches l req desc → s.Settled l req → ((req.accs.flatMap (s.reached l req)).map (fun x => x.loc)).Nodup →
      (∀ n, ∀ o ∈ (s.core n).order, o.started = true) →
      ∃ t, exec i s = .next t ∧ s.Moved t l l.next ∧ g.Kept (t.groupAt l.ref) ∧ s.Local t l.ref ∧ t.stores = s.stores ∧
        (∀ a ∈ req.accs, ∀ j x, (s.reached l req a)[j]? = some x → (∃ k, x.loc = .mem k) → (t.readCell c x).1 = BitVec.ofNat 8 (a.val / 2 ^ (8 * j))) ∧
        (req.accs ≠ [] → wide paired f.fs.toNat = true → desc = none → ∀ k b, (∀ a ∈ req.accs, ∀ x ∈ s.reached l req a, x.loc ≠ .mem k) →
          (s.core c).l1At k = some b → b.dirty = true → b.priv = none → t.mem.read k = b.val))

/-- PRF and CMNT change no register and no value that is read: PRF fills lines, CMNT writes dirty bytes back and drops clean ones, of the lines its threads name or, with FS 3 to 5, of all of its core's L1 (R241, R242). PROMO where no core-scope release covers a byte of the named core completes at once; else its split parks, and PROMO_WRITEBACK_DONE writes the covered bytes, and those alone, back; in either case the core's own clean bytes are gone then, but private ones (R228, R251). -/
def Obligations.Maintenance : Prop :=
  (∀ (s : State) (l : Latch), s.issuing l = true → s.canonical = true →
    let g := s.groupAt l.ref
    let c := g.core
    (∀ f : MemForm, ∃ t, exec (.prf f) s = .next t ∧ s.Moved t l l.next ∧ g.Kept (t.groupAt l.ref) ∧ s.Local t l.ref ∧ s.KeepsMemory t c ∧ t.mem = s.mem) ∧
    (∀ f : MemForm, g.tx = none → s.lockedLines = [] →
      let named := fun (k : Nat) => ∃ x ∈ hintCells s l g (l.self s) f (threadsOf (s.activeSet l f.mask)), x.1.place < 2 ∧
        (physKey x.1.place (x.1.pa + (x.2 - x.1.base))).getD 0 / 128 = k / 128
      ∃ t, exec (.cmnt f) s = .next t ∧ s.Moved t l l.next ∧ g.Kept (t.groupAt l.ref) ∧ s.Local t l.ref ∧ s.KeepsMemory t c ∧
        (f.fs = 0 ∨ f.fs = 2 → ∀ k b, named k → (s.core c).l1At k = some b → b.dirty = true → t.mem.read k = b.val) ∧
        (f.fs = 1 ∨ f.fs = 2 → ∀ k b, named k → (t.core c).l1At k = some b → b.dirty = true) ∧
        (f.fs = 3 ∨ f.fs = 5 → ∀ k b, (s.core c).l1At k = some b → b.dirty = true → t.mem.read k = b.val) ∧
        (f.fs = 4 ∨ f.fs = 5 → ∀ k b, (t.core c).l1At k = some b → b.dirty = true ∨ b.priv ≠ none)) ∧
    (∀ f : RegForm, g.tx = none → s.det l.ref.team = false → logWaits g (l.self s) = false → (s.operand l f.a 0).toNat < 4096 →
      let n := (s.operand l f.a 0).toNat
      ((∀ e ∈ (s.core n).l1, e.2.covered = false) → ∃ t, exec (.promo f) s = .next t ∧ s.Moved t l l.next ∧ g.Kept (t.groupAt l.ref) ∧ s.Local t l.ref ∧
        s.KeepsMemory t c ∧ t.mem = s.mem ∧ ∀ k b, (t.core c).l1At k = some b → b.dirty = true ∨ b.priv ≠ none) ∧
      ((∃ e ∈ (s.core n).l1, e.2.covered = true) → (g.split l.ref.split).st = 1 ∨ (g.split l.ref.split).st = 6 →
        ∃ t, exec (.promo f) s = .next t ∧ g.Kept (t.groupAt l.ref) ∧ (t.splitAt l.ref).st = 5 ∧ (t.splitAt l.ref).wait = .promo n ∧
          (t.splitAt l.ref).pc = l.next ∧ s.SameMemory t ∧ t.stores = s.stores))) ∧
  (∀ (s : State) (r : SplitRef) (n : Nat), s.canonical = true → s.tests = [] → s.lockedLines = [] →
    (s.splitAt r).st = 5 → (s.splitAt r).wait = .promo n → r.split < (s.groupAt r).splits.length →
    ∃ t, exec (.promoWritebackDone r) s = .next t ∧ (t.splitAt r).st = (s.splitAt r).ready ∧ (t.splitAt r).wait = .none ∧
      (∀ k b, (s.core n).l1At k = some b → b.dirty = true → b.covered = true → t.mem.read k = b.val) ∧
      (∀ k, (∀ b, (s.core n).l1At k = some b → (b.dirty && b.covered) = false) → t.mem.read k = s.mem.read k) ∧
      (∀ k b, (t.core (s.groupAt r).core).l1At k = some b → b.dirty = true ∨ b.priv ≠ none) ∧
      (∀ d, d ≠ n → d ≠ (s.groupAt r).core → (t.core d).l1 = (s.core d).l1))

/-! ### Transactions -/

/-- TBEGIN opens a transaction of a split that holds every live thread, and traps MASKPART else; TABORT aborts an open one with its code, the first code standing; TCOMMIT where none is open gives 8, of an aborted one its status, of one that stored nothing 0, and else sends its lines home and parks; in each case but the last the transaction closes (R252, R254, R255). Inside an open transaction, an ordering, barrier, wait, exit or engine instruction aborts it with code 7 and has no effect of its own, where no operand value of it traps ILLOP (R77, R253). -/
def Obligations.TransactionInstructions : Prop :=
  (∀ (s : State) (l : Latch) (f : RegForm), s.issuing l = true →
    let g := s.groupAt l.ref
    let but := fun (h : Group) => { h with tx := none }
    (g.live &&& ~~~(l.self s) = 0 → s.det l.ref.team = false → g.tx = none →
      ∃ t, exec (.tbegin f) s = .next t ∧ g.Kept (t.groupAt l.ref) ∧ s.Went t l l.next but ∧ (t.groupAt l.ref).tx = some {}) ∧
    (g.live &&& ~~~(l.self s) ≠ 0 → exec (.tbegin f) s = .next (s.takeTrap l { code := 0x03 })) ∧
    (∃ t, exec (.tabort f) s = .next t ∧ g.Kept (t.groupAt l.ref) ∧ s.Went t l l.next but ∧
      (t.groupAt l.ref).tx = g.tx.map (fun x => if x.sent then x else { x with abort := some (x.abort.getD (6, (s.operand l f.a 0).toNat % 256)) })) ∧
    (g.openTx = none → ∃ t, exec (.tcommit f) s = .next t ∧ s.Passed t l l.next ∧ (f.d = .vz → g.Kept (t.groupAt l.ref)) ∧
      ∀ n, f.d = .g n → g.Wrote (t.groupAt l.ref) 0 f.d (fun _ => 8)) ∧
    (∀ x, g.tx = some x → x.sent = false → logWaits g (l.self s) = false → s.groupStores l.ref.team l.ref.grp = [] → (∀ y ∈ x.accs, y.remote = none) →
      s.lockedLines = [] → s.remoteOf l.ref.team l.ref.grp 0xFFFFFFFF = false →
      (∀ code byte, x.abort = some (code, byte) → ∃ t, exec (.tcommit f) s = .next t ∧ (t.groupAt l.ref).tx = none ∧ (t.splitAt l.ref).pc = l.next ∧
        (f.d = .vz → g.Kept (t.groupAt l.ref)) ∧ ∀ n, f.d = .g n → g.Wrote (t.groupAt l.ref) 0 f.d (fun _ => wd (if code = 6 then 6 + byte * 256 else code))) ∧
      (x.abort = none → x.accs = [] → ∃ t, exec (.tcommit f) s = .next t ∧ (t.groupAt l.ref).tx = none ∧ (t.splitAt l.ref).pc = l.next ∧
        (f.d = .vz → g.Kept (t.groupAt l.ref)) ∧ ∀ n, f.d = .g n → g.Wrote (t.groupAt l.ref) 0 f.d (fun _ => 0)) ∧
      (x.abort = none → x.accs ≠ [] → (g.split l.ref.split).st = 1 ∨ (g.split l.ref.split).st = 6 → ∃ t, exec (.tcommit f) s = .next t ∧ g.Kept (t.groupAt l.ref) ∧
        (t.groupAt l.ref).tx = some { x with sent := true } ∧ (t.splitAt l.ref).st = 5 ∧ (t.splitAt l.ref).wait = .commit f.d f.fs.toNat))) ∧
  (∀ (s : State) (l : Latch) (f : RegForm) (i : Instr) (x : Tx),
    i ∈ [Instr.fence f, .promo f, .bar f, .bararv f, .barwt f, .waitc f, .tbarv f, .tbexp f, .tbwait f, .hbar f, .exit f, .sysc f, .cbld f, .cbsave f, .cbsaveRst f, .cpyst f] →
    s.issuing l = true → (s.groupAt l.ref).tx = some x → x.sent = false → x.abort = none →
    (i = .bar f ∨ i = .bararv f → barIllop f l s = false) → (i = .sysc f → (s.operand l f.a 0).toNat < 2 ^ 16) →
    ∃ t, exec i s = .next t ∧ (s.groupAt l.ref).Kept (t.groupAt l.ref) ∧ s.Went t l l.next (fun h => { h with tx := none }) ∧
      (t.groupAt l.ref).tx = some { x with abort := some (7, 0) })

/-- COMMIT_ARRIVAL locks every line of a local commit, or answers 3 where another commit holds one; TCOMMIT_ANSWER writes the answer to D, ends the transaction and wakes the split: a commit that holds its locks has its buffered store in memory then, and one that does not leaves memory as it was (R254). -/
def Obligations.TransactionCommit : Prop :=
  ∀ (s : State) (team grp : Nat) (x : Tx), (s.group team grp).tx = some x →
    let g := s.group team grp
    (x.sent = true → x.answer = none → (∀ y ∈ x.accs, y.remote = none) → ∃ t, exec (.commitArrival team grp) s = .next t ∧ t.mem = s.mem ∧
      (t.group team grp).tx = some (if ∃ k ∈ x.keys, k ∈ s.lockedLines then { x with answer := some 3 } else { x with answer := some 0, locked := true })) ∧
    (∀ a i d scope, s.bad = [] → s.tests = [] → x.answer = some a → i < 8 → g.splits.length = 8 → (∀ t ∈ s.teams, ∀ h ∈ t.2.groups, h.2.oplog = []) →
      (g.split i).st = 5 → (g.split i).wait = .commit d scope → (∀ j, j < 8 → j ≠ i → (g.split j).st ≠ 5) →
      ∃ t, exec (.tcommitAnswer team grp) s = .next t ∧ (t.group team grp).tx = none ∧ ((t.group team grp).split i).st = (g.split i).ready ∧
        (∀ n, d = .g n → (t.group team grp).readG n.val = wd a) ∧ (x.locked = false → t.mem = s.mem) ∧
        (∀ y, x.locked = true → x.accs = [y] → y.op = .store → (y.acc.cells.map (fun c => c.loc)).Nodup → ∀ j c k, y.acc.cells[j]? = some c → c.loc = .mem k →
          t.mem.read k = BitVec.ofNat 8 (y.acc.val / 2 ^ (8 * j))))

/-! ### Barriers and waits -/

/-- BAR and BARARV count the threads of their split at the barrier, for an expected count that the phase's first arrival names, or all the team's threads: a phase that threads arrived and exited complete clears the barrier and counts q up by one. BAR parks until its phase has completed, and wakes every split parked for it; BARARV gives q and goes on; BARWT goes on where phase A lies behind q, and parks else. A split parked longer than the region's watchdog allows traps BARSTALL at the instruction where it parked (R115, R256, R257). That the watchdog is an event which may come at any moment is the model's choice (log 3), and which parks it covers its reading (log 68). -/
def Obligations.TeamBarriers : Prop :=
  (∀ (s : State) (l : Latch) (f : RegForm), s.issuing l = true →
    let g := s.groupAt l.ref
    let tm := s.team l.ref.team
    let n := f.mod.toNat % 128
    let b := tm.bar n
    let full := (s.launchOf l.ref.team).lrec.ngrp * 32
    let count := countOf g (l.self s) f.b
    let arrived := b.arrivals + (threadsOf (l.self s)).length
    let e := if b.arrivals = 0 then count.getD full else b.e
    let who := b.who ++ whoOf l.ref.grp (l.self s)
    let complete := 0 < arrived ∧ e ≤ arrived + tm.exitedOutside who
    let q := (s.operand l f.a 0).toNat % 2 ^ 16
    AMap.sorted tm.groups = true → full ≤ 2048 → g.tx = none → (g.split l.ref.split).st = 1 ∨ (g.split l.ref.split).st = 6 →
    logWaits g (l.self s) = false → s.groupStores l.ref.team l.ref.grp = [] →
    (tm.paired = true → s.lockedLines = [] ∧ s.remoteOf l.ref.team l.ref.grp 0xFFFFFFFF = false) →
    ((∀ c, count = some c → 0 < c ∧ c ≤ full) → (s.det l.ref.team = true → count = none) → s.matrixHolds l.ref.team l.ref.grp = false →
      (∃ t, exec (.bar f) s = .next t ∧ g.Kept (t.groupAt l.ref) ∧ (t.splitAt l.ref).pc = l.next ∧ (tm.paired = false → t.mem = s.mem) ∧
        (complete → (t.team l.ref.team).bar n = { q := (b.q + 1) % 2 ^ 16 } ∧ (t.splitAt l.ref).st = (s.splitAt l.ref).ready ∧ (t.splitAt l.ref).wait = .none ∧
          ∀ r : SplitRef, r.team = l.ref.team → r ≠ l.ref → r.split < 8 → (s.splitAt r).st = 5 → (s.splitAt r).wait = .bar n b.q →
            (t.splitAt r).st = (s.splitAt r).ready ∧ (t.splitAt r).wait = .none) ∧
        (¬ complete → (t.team l.ref.team).bar n = { arrivals := arrived, who := who, q := b.q, e := e } ∧
          (t.splitAt l.ref).st = 5 ∧ (t.splitAt l.ref).wait = .bar n b.q)) ∧
      ∃ t, exec (.bararv f) s = .next t ∧ t.splitAt l.ref = { s.splitAt l.ref with pc := l.next, waitCnt := 0, urgent := false } ∧
        (∀ m, f.d = .g m → g.Wrote (t.groupAt l.ref) 0 f.d (fun _ => wd b.q)) ∧ (tm.paired = false → t.mem = s.mem) ∧
        (t.team l.ref.team).bar n = (if complete then { q := (b.q + 1) % 2 ^ 16 } else { arrivals := arrived, who := who, q := b.q, e := e })) ∧
    (phaseDone b.q q = true → ∃ t, exec (.barwt f) s = .next t ∧ g.Kept (t.groupAt l.ref) ∧ t.mem = s.mem ∧
      t.splitAt l.ref = { s.splitAt l.ref with pc := l.next, waitCnt := 0, urgent := false }) ∧
    (phaseDone b.q q = false → ∃ t, exec (.barwt f) s = .next t ∧ g.Kept (t.groupAt l.ref) ∧ t.mem = s.mem ∧ (t.splitAt l.ref).pc = l.next ∧
      (t.splitAt l.ref).st = 5 ∧ (t.splitAt l.ref).wait = .bar n q ∧ (t.team l.ref.team).bar n = b)) ∧
  ∀ (s : State) (r : SplitRef) (h : Word),
    let sp := s.splitAt r
    let trap := fun (w : Word × Word) => (⟨{ code := 0x0E }, sp.parkPc, w.1, w.2, sp.pc⟩ : TrapAt)
    (s.team r.team).saved = none → (s.groupAt r).stopped = false → (s.launchOf r.team).region.wdbar ≠ 0 → sp.st = 3 ∨ sp.st = 4 ∨ sp.st = 5 →
    sp.wait.watched = true → (s.launchOf r.team).handler = some h → sp.handler = false → (s.groupAt r).handling r.split = false → r.split < 8 →
    let s1 := s.setGroupAt r { s.groupAt r with counted := if sp.wait = .sysc then (s.groupAt r).counted else (s.groupAt r).counted ||| sp.mask }
    (∀ w, ∃ u, (s1.setSplitAt r { sp with st := sp.ready, wait := .none }).recordTrap r.team r.grp r.split (trap w) = some u) →
    ∃ t, exec (.barstallWatchdog r) s = .next t ∧ (t.splitAt r).st = 6 ∧ (t.splitAt r).pc = h ∧ (t.splitAt r).mask = sp.mask ∧
      AMap.get (t.groupAt r).trap 0x20 0 = 0x0E ∧ AMap.get (t.groupAt r).trap 0x21 0 = sp.parkPc

/-- WAITC goes on where its word has reached the threshold, with the value in D, and parks else, until WAITC_RELEASE finds it there. TBARV and TBEXP give the old phase of their barrier, which receives their update with all others of the cycle as one: what R344 makes of their sums, when the next cycle begins. TBWAIT gives the phase and goes on where its parity differs, and parks else, counted among the waiters (R258, R259, R343, R344). A cycle ends when a slot has its turn that has had one, by the model's choice (log 2). -/
def Obligations.CountedAndTransactionWaits : Prop :=
  (∀ (s : State) (l : Latch) (f : RegForm), s.issuing l = true → s.canonical = true →
    let g := s.groupAt l.ref
    let addr := s.operand l f.a 0
    let old := fun (p : Nat × Nat × Nat) => s.tb p.1 p.2.1 p.2.2
    let passed := fun (t : State) (w : Word) => t.splitAt l.ref = { s.splitAt l.ref with pc := l.next, waitCnt := 0, urgent := false } ∧
      (f.d = .vz → g.Kept (t.groupAt l.ref)) ∧ ∀ m, f.d = .g m → g.Wrote (t.groupAt l.ref) 0 f.d (fun _ => w)
    let parked := fun (t : State) (w : Wait) => g.Kept (t.groupAt l.ref) ∧ (t.splitAt l.ref).st = 5 ∧ (t.splitAt l.ref).wait = w ∧ (t.splitAt l.ref).pc = l.next
    g.openTx = none → (g.split l.ref.split).st = 1 ∨ (g.split l.ref.split).st = 6 → logWaits g (l.self s) = false → s.groupStores l.ref.team l.ref.grp = [] →
    s.lockedLines = [] → s.remoteOf l.ref.team l.ref.grp 0xFFFFFFFF = false →
    (∀ cs, s.det l.ref.team = false ∨ f.d = .vz → (s.advance l).placeUniform l (formSpace f) addr 8 8 false = .cells (s.advance l) cs →
      let v := leNat (s.readCells g.core cs).1
      ∃ t, exec (.waitc f) s = .next t ∧ s.KeepsMemory t g.core ∧
        ((s.operand l f.b 0).toNat ≤ v → passed t (wd v)) ∧
        (v < (s.operand l f.b 0).toNat → parked t (.counted f.fs.toNat f.d (f.mod.toNat / 512 % 4) addr (s.operand l f.b 0)))) ∧
    (l.self s &&& g.live = 0 → ∀ i, i = Instr.tbarv f ∨ i = .tbexp f → ∃ t, exec i s = .next t ∧ s.Passed t l l.next ∧ g.Kept (t.groupAt l.ref)) ∧
    (∀ p, (s.advance l).placeTb l addr true = .ok p → l.self s &&& g.live ≠ 0 →
      let r : TbRef := ⟨p.1, p.2.1, p.2.2⟩
      let b := sextNat 32 (s.operand l f.b 0).toNat
      (∃ t, exec (.tbarv f) s = .next t ∧ passed t (wd (old p).phase) ∧ t.tb p.1 p.2.1 p.2.2 = old p ∧
        t.tbNow = s.tbNow ++ [⟨r, (match f.b with | .g _ => (s.operand l f.b 0).toNat % 2 ^ 20 | _ => 1 : Nat), 0, 0, 0⟩]) ∧
      ∃ t, exec (.tbexp f) s = .next t ∧ passed t (wd (old p).phase) ∧ t.tb p.1 p.2.1 p.2.2 = old p ∧
        t.tbNow = s.tbNow ++ [if f.mod.getLsbD 0 then ⟨r, 1, 0, b, 0⟩ else ⟨r, 0, 0, 0, b⟩]) ∧
    (∀ p, (s.advance l).placeTb l addr false = .ok p →
      let par := (s.operand l f.b 0).toNat % 2
      ((old p).phase % 2 ≠ par → ∃ t, exec (.tbwait f) s = .next t ∧ passed t (wd (old p).phase) ∧ t.tb p.1 p.2.1 p.2.2 = old p) ∧
      ((old p).phase % 2 = par → ∃ t, exec (.tbwait f) s = .next t ∧ parked t (.tb f.d p.1 p.2.1 p.2.2 par) ∧
        t.tb p.1 p.2.1 p.2.2 = tbOf { old p with waiters := ((old p).waiters + 1) % 2 ^ 16 }.bits))) ∧
  (∀ (s : State) (core slot : Nat), 4 * core + slot < s.slotAt → s.noTbWaits →
    ∃ t, exec (.slotSelect core slot) s = .next t ∧ t.tbNow = [] ∧
      ∀ r : TbRef, (AMap.find s.teams r.team).isSome = true → (s.tbNow.map (fun u => u.tb)).contains r = true →
        (∀ u ∈ s.tbNow, u.tb = r ∨ u.tb.team ≠ r.team ∨ u.tb.side * 2 ^ 32 + u.tb.off + 16 ≤ r.side * 2 ^ 32 + r.off ∨ r.side * 2 ^ 32 + r.off + 16 ≤ u.tb.side * 2 ^ 32 + u.tb.off) →
        let mine := s.tbNow.filter (fun u => u.tb = r)
        let sum := fun (x : TbUpdate → Int) => (mine.map x).sum
        t.tb r.team r.side r.off = tbOf ((s.tb r.team r.side r.off).update (sum (fun u => u.arr)) (sum (fun u => u.sec)) (sum (fun u => u.withArv)) (sum (fun u => u.after))).bits) ∧
  ∀ (s : State) (r : SplitRef) (scope space : Nat) (d : Opnd) (addr thr : Word) (cs : List Machine.Cell),
    (s.splitAt r).st = 5 → (s.splitAt r).wait = .counted scope d space addr thr → r.split < 8 → (s.team r.team).saved = none → s.waitWord r space addr = some cs → s.atsMissing cs = [] →
    let v := leNat (s.readCells (s.groupAt r).core (cs.map (fun c => { c with path := .home }))).1
    (v < thr.toNat → s.bad = [] → exec (.waitcRelease r) s = .next s) ∧
    (thr.toNat ≤ v → s.bad = [] → cellsLocked s.lockedLines cs = false →
      ∃ t, exec (.waitcRelease r) s = .next t ∧ (t.splitAt r).st = (s.splitAt r).ready ∧ (t.splitAt r).wait = .none ∧
      (t.splitAt r).pc = (s.splitAt r).pc ∧ ∀ m, d = .g m → (t.groupAt r).readG m.val = wd v)

/-- HBAR parks its split and notes its threads arrived at the scope. At a cluster, a team whose threads have all arrived is counted; with every team of the launch there counted or exited, a barrier of scope cluster completes; its release wakes each split parked for it and clears the arrivals (R260, R401, R402). The numbers of the combiners' places are the model's (log 93). -/
def Obligations.HierarchicalBarriers : Prop :=
  (∀ (s : State) (l : Latch) (f : RegForm), s.issuing l = true →
    let g := s.groupAt l.ref
    let scope := f.fs.toNat
    g.openTx = none → (g.split l.ref.split).st = 1 ∨ (g.split l.ref.split).st = 6 → logWaits g (l.self s) = false → s.groupStores l.ref.team l.ref.grp = [] →
    s.lockedLines = [] → s.remoteOf l.ref.team l.ref.grp 0xFFFFFFFF = false →
    ∃ t, exec (.hbar f) s = .next t ∧ g.Kept (t.groupAt l.ref) ∧ (t.splitAt l.ref).st = 5 ∧ (t.splitAt l.ref).wait = .hbar scope ∧ (t.splitAt l.ref).pc = l.next ∧
      AMap.get (t.groupAt l.ref).hbarArr scope 0 = AMap.get g.hbarArr scope 0 ||| l.self s) ∧
  (∀ (s : State) (id place a : Nat) (tm : Team), AMap.sorted s.teams = true → AMap.find s.teams a = some tm → tm.launch = id → clusterOf tm.core = place → place < 512 →
    AMap.get (s.launch id).hbar (2 * 4096 + place) 0 = 0 → (s.launch id).region.det = false →
    tm.hbarDone.contains 2 = false → tm.allExited = false → tm.hbarReady 2 = true →
    let others := ∀ b u, AMap.find s.teams b = some u → b ≠ a → u.launch = id → clusterOf u.core = place → u.hbarDone.contains 2 = true ∨ u.allExited = true
    (others → ∃ t, exec (.hbarCombinerArrival id 2 place) s = .next t ∧ (t.team a).hbarDone = tm.hbarDone ++ [2] ∧
      AMap.get (t.launch id).hbar (2 * 4096 + place) 0 = 2) ∧
    (¬ others → ∃ t b, exec (.hbarCombinerArrival id 2 place) s = .next t ∧ (t.team b).launch = id ∧ (s.team b).hbarReady 2 = true ∧
      (t.team b).hbarDone = (s.team b).hbarDone ++ [2] ∧ t.launches = s.launches)) ∧
  ∀ (s : State) (id scope place a : Nat) (tm : Team), AMap.sorted s.teams = true → AMap.get (s.launch id).hbar (scope * 4096 + place) 0 = 2 → place < 512 →
    AMap.find s.teams a = some tm → tm.launch = id → clusterOf tm.core = place → tm.hbarDone.contains scope = true →
    ∃ t, exec (.hbarRelease id scope place) s = .next t ∧ AMap.get (t.launch id).hbar (scope * 4096 + place) 0 = 0 ∧ (t.team a).hbarDone.contains scope = false ∧
      ∀ b i, i < 8 → (s.splitAt ⟨a, b, i⟩).st = 5 → (s.splitAt ⟨a, b, i⟩).wait = .hbar scope →
        (t.splitAt ⟨a, b, i⟩).st = (s.splitAt ⟨a, b, i⟩).ready ∧ AMap.get (t.group a b).hbarArr scope 0 = 0

/-! ### Codebooks -/

/-- CBWR writes and validates the shadow entries of its active live threads, CBINV invalidates its range, both clearing BOUND; CBSWAP changes the planes' places, and what issues in its cycle still reads the plane that was active before; CBBIND sets the shadow's configuration, or traps CBSHAPE with cause 0x04 on a reserved descriptor; CBLD and a CBBIND with a backing address read their words at issue, which CODEBOOK_LOAD_DONE writes; CBSAVE stores the image and CBSAVE with RST loads it; CBRD and CBXP leave pending the entry, or the expanded operand. Without a live thread no bank changes (R264, R268, R269, R271 to R281). When the words of CBLD and CBBIND are read is the model's choice (log 56), and what TRAPAUX of CBINV holds its reading (log 57). -/
def Obligations.Codebooks : Prop :=
  (∀ (s : State) (l : Latch) (f : RegForm), s.issuing l = true →
    let g := s.groupAt l.ref
    let c := s.core g.core
    let k := f.fs.toNat % 8
    let b := c.bank k
    let after := fun (t : State) => (t.core g.core).bank k
    let passes := fun (i : Instr) (effect : State → Prop) => ∃ t, exec i s = .next t ∧ s.Moved t l l.next ∧ g.Kept (t.groupAt l.ref) ∧ t.mem = s.mem ∧ effect t
    let writes := fun (i : Instr) (effect : State → Prop) => passes i (fun t => (after t).plane b.active = b.plane b.active ∧ (after t).active = b.active ∧ effect t)
    let act := s.activeLive l f.mask
    let A := (s.operand l f.a 0).toNat
    let range := bookRange (s.operand l f.a 0)
    g.tx = none →
    (l.self s &&& g.live = 0 → ∀ i, i ∈ [Instr.cbld f, .cbwr f, .cbswap f, .cbbind f, .cbinv f, .cbsave f, .cbsaveRst f] → passes i (fun t => t.cores = s.cores)) ∧
    (s.shadowBusy g.core k = false → l.self s &&& g.live ≠ 0 →
      (isVec f.b = true → writes (.cbwr f) (fun t => (act ≠ 0 → (after t).shadow.bound = false) ∧
        (∀ n, n < 32 → act.getLsbD n = true → (after t).shadow.entry ((A + n) % 256) = some (s.operand l f.b n)) ∧
        ∀ x, (∀ n, n < 32 → act.getLsbD n = true → (A + n) % 256 ≠ x) → (after t).shadow.entry x = b.shadow.entry x)) ∧
      (isUni f.b = true → act ≠ 0 → writes (.cbwr f) (fun t => (after t).shadow.bound = false ∧
        ∀ x, (after t).shadow.entry x = if x = A % 256 then some (s.operand l f.b 0) else b.shadow.entry x)) ∧
      (bindBad (s.operand l f.a 0) = false → isUni f.b = false → writes (.cbbind f) (fun t => (after t).shadow = { b.shadow with config := A % 1024, back := 0 })) ∧
      writes (.cbinv f) (fun t => (after t).shadow.bound = false ∧
        ∀ x, x < 256 → (after t).shadow.entry x = if (x + 256 - range.1) % 256 < range.2 then none else b.shadow.entry x)) ∧
    (s.bookBusy g.core k = false → l.self s &&& g.live ≠ 0 →
      passes (.cbswap f) (fun t => after t = { b with active := !b.active, before := some b.side } ∧ (after t).reads = b.reads ∧
        ({ after t with before := none } : Bank).reads = b.shadow ∧ (after t).shadow = b.plane b.active)) ∧
    (bindBad (s.operand l f.a 0) = true → l.self s &&& g.live ≠ 0 → exec (.cbbind f) s = .next (s.takeTrap l { code := 0x06, aux := 4 })) ∧
    ((f.mod.getLsbD 0 = true → s.bookBusy g.core k = false) → s.Begins l f.mask f.d (.cbrd f) [f.a] (fun n =>
      ((b.plane (if f.mod.getLsbD 0 then !b.side else b.side)).entry ((s.operand l f.a n).toNat % 256)).getD 0)) ∧
    (l.self s &&& g.live ≠ 0 → s.bookBusy g.core k = false →
      (let space := formSpace f
       let words := fun (req : MemReq) (n : Nat) => (List.range n).map (fun j => s.loadedWord l req (1000 + j) 0)
       let goes := fun (i : Instr) (req : MemReq) (effect : State → Prop) => s.Reaches l req none → s.Settled l req →
         ∃ t, exec i s = .next t ∧ s.Moved t l l.next ∧ g.Kept (t.groupAt l.ref) ∧ s.Local t l.ref ∧ s.KeepsMemory t g.core ∧ effect t
       let rb := bookRange (s.operand l f.b 0)
       let load := bookReq g (l.self s) space 8 (s.operand l f.a 0) rb.2 ⟨k, rb.1, .load⟩
       let bind := bookReq g (l.self s) .glob 8 (s.operand l f.b 0) 256 ⟨k, 0, .bind (A % 1024) (s.operand l f.b 0)⟩
       let image := bookReq g (l.self s) space 64 (s.operand l f.a 0) 528 ⟨k, 0, .image⟩
       let whole : Acc := { thr := eventThread g (l.self s), ea := s.operand l f.a 0, va := spanFrom (s.operand l f.a 0) 4224, val := leNat b.image }
       let save : MemReq := { op := .store, space := space, align := 64, cache := 0, order := .plain, scope := 0, accs := [whole], untagged := true }
       goes (.cbld f) load (fun t => after t = b ∧ ∃ x, (t.core g.core).loads = c.loads ++ [x] ∧ x.bank = k ∧ x.first = rb.1 ∧ x.plane = (!b.active) ∧ x.back = none ∧
         x.vals = words load rb.2) ∧
       (isUni f.b = true → bindBad (s.operand l f.a 0) = false → s.bookRead g.core k (!b.active) = false →
         goes (.cbbind f) bind (fun t => (after t).shadow = { b.shadow with config := A % 1024, back := 0 } ∧
           ∃ x, (t.core g.core).loads = c.loads ++ [x] ∧ x.bank = k ∧ x.first = 0 ∧ x.plane = (!b.active) ∧ x.back = some (s.operand l f.b 0) ∧ x.vals = words bind 256)) ∧
       (s.bookRead g.core k false = false → s.bookRead g.core k true = false → goes (.cbsaveRst f) image (fun t => after t = bankOfWords (words image 528))) ∧
       (s.Reaches l save none → ∃ t, exec (.cbsave f) s = .next t ∧ s.Queues t l save))) ∧
    (let x := cbxpExpansion f
     x.shapeTrap c g = none → x.invTrap c g (threadsOf (s.activeSet l f.mask)) (s.operand l f.a) = none →
       s.Begins l f.mask f.d (.cbxp f) [] (fun n => x.word c g (s.operand l f.a n)))) ∧
  ∀ (s : State) (core id : Nat) (x : BankLoad),
    let c := s.core core
    c.loads.find? (fun y => y.id = id) = some x → (c.loads.find? (fun y => y.bank = x.bank)).map (fun y => y.id) = some id →
    s.bookRead core x.bank x.plane = false → s.bad = [] → 0 < x.vals.length → x.vals.length ≤ 256 → x.first < 256 →
    ∃ t, exec (.codebookLoadDone core { it := id }) s = .next t ∧ t.mem = s.mem ∧ t.teams = s.teams ∧
      let p := ((t.core core).bank x.bank).plane x.plane
      (t.core core).loads = c.loads.filter (fun y => y.id ≠ id) ∧ p.bound = x.back.isSome ∧ p.back = x.back.getD 0 ∧
        ((t.core core).bank x.bank).plane (!x.plane) = (c.bank x.bank).plane (!x.plane) ∧
        ∀ y, y < 256 → p.entry y = if (y + 256 - x.first) % 256 < x.vals.length then x.vals[(y + 256 - x.first) % 256]? else ((c.bank x.bank).plane x.plane).entry y

/-! ### The matrix engine -/

/-- A matrix instruction of a split that holds every thread, whose checks raise no trap and for which its core's order has room, enters the order behind those there, with its tile and the operand words read at issue, its status pending for D; a paired one enters both orders. MDRAIN and MARM of a split without a live thread have no effect but the status 4 of MDRAIN, pending where LA is not 0. While a paired instruction stands in its core's order, a matrix instruction of the follower of a paired team waits in state 5 at its address. MWAIT goes on where no earlier instruction of its group on the tile is in the order, and parks else. MSEL24 writes the kept elements and their positions at once (R288, R293 to R296, R298, R302 to R309). -/
def Obligations.MatrixInstructions : Prop :=
  ∀ (s : State) (l : Latch) (f : RegForm), s.issuing l = true →
    let s1 := s.advance l
    let g := s.groupAt l.ref
    let g1 := s1.groupAt l.ref
    let self := l.self s
    let c := s.core g.core
    let paired := s.drivesPair l.ref.team g f
    let enters := fun (i : Instr) (kind : MatrixKind) (both : Bool) (a b x : Word) => ∃ t, exec i s = .next t ∧ s.Moved t l l.next ∧ g.Kept (t.groupAt l.ref) ∧ t.mem = s.mem ∧
      (∃ o, (t.core g.core).order = c.order ++ [o] ∧ o.kind = kind ∧ o.team = l.ref.team ∧ o.grp = l.ref.grp ∧ o.inst = g.nextInst ∧ o.tile = f.fs.toNat ∧ o.mod = f.mod.toNat ∧
        o.paired = both ∧ o.copy = false ∧ o.started = false ∧ o.a = a ∧ o.b = b ∧ o.c = x ∧
        (both = true → ∃ p, (t.core (g.core + 1)).order = (s.core (g.core + 1)).order ++ [p] ∧ p.copy = true ∧ p.id = o.id)) ∧
      ∀ n, f.d = .g n → ∃ p ∈ (t.groupAt l.ref).pends, p.inst = g.nextInst ∧ p.reg = 192 + n.val ∧ p.src = .unit ∧ p.arrived = false
    let A := s.operand l f.a 0
    let stride := fun n => rowStride f g self n
    let x := s1.dieCtx l.ref.team g.core
    let reach := fun (write : Bool) (xs : List (Nat × Nat)) => ∃ m, s1.xlateSpans x write xs = .ok s1 m
    let locks := (s.cluster (clusterOf g.core)).locks.length < 64
    let F := s.fmtAt l f.fs.toNat
    g.openTx = none → (g.split l.ref.split).st = 1 ∨ (g.split l.ref.split).st = 6 →
    (self ≠ 0 → self = g.present → (paired = false → s.pairBlocks l.ref.team g.core = false) → c.orderRoom = true → (paired = true → (s.core (g.core + 1)).orderRoom = true) →
      enters (.mzero f) .mzero paired 0 0 0 ∧
      (∀ (sparse : Bool), mmaIllop sparse f l s1 = false → firstTrap (mmaChecks sparse f l s1 g1 paired) = none →
        let ops := mmaOperands f g self
        let fb := g.fmt (descSlot ops.2.1)
        let rb := rowBytes ops.2.1 (descCb ops.2.1) false fb.w (matrixDepth (g.fmt (descSlot ops.1)) fb (descSlot ops.1) (descSlot ops.2.1) sparse)
        (f.mod.getLsbD 0 = true → reach false [(ops.2.2.toNat, rowsEnd 0 (descStride ops.2.1) 128 rb)] ∧ locks) →
        enters (if sparse then .mmas f else .mma f) (if sparse then .mmas else .mma) paired ops.1 ops.2.1 ops.2.2) ∧
      (align4 A (stride 512) self false = none → s1.rowsTrap l g1 (formSpace f) (rowSpans A (stride 512) (rowsA paired) 512) false = none →
        (formSpace f ≠ .scratch → reach false (rowSpans A (stride 512) (rowsA paired) 512)) → enters (.mlda f) .mlda paired A (stride 512) 0) ∧
      (self &&& g.live ≠ 0 → s.det l.ref.team = false → logWaits g self = false →
        let mode := drainMode f.mod.toNat
        let D := s.fmtAt l (drainSlot f.mod.toNat)
        (mode = 0 → D.rnd ≠ 5 → s1.rowsTrap l g1 .scratch (rowSpans A (stride (drainRow D)) (rowsA paired) (drainRow D)) true = none →
          enters (.mdrain f) .mdrain paired A (stride (drainRow D)) 0) ∧
        (mode = 1 → align4 A (stride 512) self true = none → s1.rowsTrap l g1 .glob (rowSpans A (stride 512) (rowsA paired) 512) true = none →
          reach true (rowSpans A (stride 512) (rowsA paired) 512) → locks → enters (.mdrain f) .mdrain paired A (stride 512) 0) ∧
        (mode = 2 → peerTrap f g self paired = none → enters (.mdrain f) .mdrain paired A (s.operand l f.b 0) 0)) ∧
      (∀ p : Nat × Nat × Nat, self &&& g.live ≠ 0 → A.toNat % 65536 ≠ 0 → s1.placeTb l (s.operand l f.b 0) true = .ok p →
        enters (.marm f) .marm false A (wd (p.1 * 2 + p.2.1)) (wd p.2.2)) ∧
      (self &&& g.live = 0 → (∃ t, exec (.mdrain f) s = .next t ∧ s.Passed t l l.next ∧ ∀ n, f.d = .g n → g.Gave (t.groupAt l.ref) self f 4) ∧
        (A.toNat % 65536 ≠ 0 → ∃ t, exec (.marm f) s = .next t ∧ s.Passed t l l.next ∧ g.Kept (t.groupAt l.ref)))) ∧
    (s.pairBlocks l.ref.team g.core = true → ∀ i, (i = Instr.mzero f ∧ self = g.present ∧ paired = false) ∨ i = .mwait f ∨ (i = .msel24 f ∧ F.k % 4 = 0) →
      ∃ t, exec i s = .next t ∧ g.Kept (t.groupAt l.ref) ∧ t.mem = s.mem ∧ (t.core g.core).order = c.order ∧
        (t.splitAt l.ref).st = 5 ∧ (t.splitAt l.ref).wait = .paired ∧ (t.splitAt l.ref).pc = l.pc) ∧
    (let tile := if f.mod.getLsbD 0 then 4 else f.fs.toNat
     (s.pairBlocks l.ref.team g.core = false → s.matrixOwed l.ref.team l.ref.grp tile g.nextInst = false → ∃ t, exec (.mwait f) s = .next t ∧ s.Moved t l l.next ∧ g.Kept (t.groupAt l.ref) ∧ t.mem = s.mem) ∧
     (s.pairBlocks l.ref.team g.core = false → s.matrixOwed l.ref.team l.ref.grp tile g.nextInst = true → ∃ t, exec (.mwait f) s = .next t ∧ g.Kept (t.groupAt l.ref) ∧ t.mem = s.mem ∧
       (t.splitAt l.ref).st = 5 ∧ (t.splitAt l.ref).wait = .matrix tile g.nextInst ∧ (t.splitAt l.ref).pc = l.next)) ∧
    (∀ n : Fin 192, f.d = .v n → n.val + 1 < 192 → F.k % 4 = 0 → s.pairBlocks l.ref.team g.core = false → ∃ t, exec (.msel24 f) s = .next t ∧ s.Passed t l l.next ∧
      ∀ (m : Fin 192) (i : Nat), i < 32 → g.quiet m.val = true → (t.groupAt l.ref).readV m.val i =
        if (s.activeSet l f.mask).getLsbD i = true ∧ m = n then (selWords F (s.operand l f.a i)).1
        else if (s.activeSet l f.mask).getLsbD i = true ∧ m.val = n.val + 1 then (selWords F (s.operand l f.a i)).2 else g.readV m.val i)

/-- The array performs the first instruction of its core's order that it is free for, every earlier one having started or being a stalled stream of another context, once its tile is not armed, its pages are there, its lock entry is free, no commit holds a line and it can meet no uncorrectable word; no schedule entry of its cluster is due: MZERO clears the tile; MLDA loads it row by row; MMA adds the chunk sums of its products to each value; MDRAIN `.sp` stores the rows; MARM arms the tile. Completion drops the entry, makes the status ready and wakes the MWAITs that nothing holds; a drain whose peer does not answer ends with REMFAULT, cause 0x07 (R288, R296 to R298, R303 to R309). That the array acts at one moment is the model's reading (log 51). -/
def Obligations.MatrixEvents : Prop :=
  (∀ (s : State) (core : Nat) (o : MatrixOp), (s.core core).order.find? (s.arrayFree core) = some o → s.bad = [] → s.lockedLines = [] → s.noneDue (clusterOf core) → o.paired = false → o.lock = none → o.fatal = none →
    ((s.core core).tile o.tile).armed = none → (o.readsTile = true → ((s.core core).tile o.tile).invalid = false) → s.groupStores o.team o.grp = [] → o.status = 0 →
    (∀ x ∈ (s.core core).order, x.id = o.id → x.copy = false → x = o) →
    let old := (s.core core).tile o.tile
    let runs := fun (effect : State → Tile → Prop) => ∃ t, exec (.matrixArrayStart { it := core }) s = .next t ∧ t.mem = s.mem ∧ effect t ((t.core core).tile o.tile) ∧
      { o with started := true } ∈ (t.core core).order ∧ ∀ n, n ≠ o.tile → (t.core core).tile n = (s.core core).tile n
    (o.kind = .mzero → runs (fun _ u => u.invalid = false ∧ ∀ i, u.at i = 0)) ∧
    (o.kind = .mlda → o.mod / 512 % 4 ≠ 0 → runs (fun _ u => u.invalid = false ∧ ∀ r c, r < 128 → c < 128 → u.at (128 * r + c) =
      leNat ((s.spCells o.team core { thr := 0, ea := o.a + wd r * o.b, va := spanFrom (o.a + wd r * o.b) 512 }).map s.peek) / 2 ^ (32 * c) % 2 ^ 32)) ∧
    (o.kind = .mma → bitAt o.mod 0 = false → o.plane = none →
      let fa := o.fmt (descSlot o.a)
      let fb := o.fmt (descSlot o.b)
      let k := matrixDepth fa fb (descSlot o.a) (descSlot o.b) false
      let bytesA := fun m => s.teamBytes o.team (descOff o.a + m * descStride o.a) (rowBytes o.a false false fa.w k)
      let bytesB := fun n => s.teamBytes o.team (descOff o.b + n * descStride o.b) (rowBytes o.b (descCb o.b) false fb.w k)
      runs (fun _ u => u.invalid = false ∧ ∀ m n, m < 128 → n < 128 → u.at (128 * m + n) = chunkSums (k / 32) (old.at (128 * m + n))
        (matProducts (tablePath fa fb (descSlot o.a) (descSlot o.b)) fa ((List.range k).map (rowElem o.a fa (bytesA m)))
          ((List.range k).map (rowElem o.b fb (bytesB n % 2 ^ (8 * rowBytes o.b (descCb o.b) false fb.w k))))) % 2 ^ 32)) ∧
    (o.kind = .mdrain → drainMode o.mod = 0 → s.noTbWaits →
      let F := o.fmt (drainSlot o.mod)
      let row := fun (r : Nat) => s.spCells o.team core { thr := 0, ea := o.a + wd r * o.b, va := spanFrom (o.a + wd r * o.b) (drainRow F) }
      (((List.range 128).flatMap row).map (fun e => e.loc)).Nodup → (∀ r, ∀ e ∈ row r, ∃ a b d, e.loc = .sp a b d ∧ d < 2 ^ 32) →
      runs (fun t u => u = old ∧ ∀ r i e, r < 128 → (row r)[i]? = some e → t.peek e = BitVec.ofNat 8 (drainRowBits F (old.row r) / 2 ^ (8 * i)))) ∧
    (o.kind = .marm → s.fab.contribs = [] → runs (fun _ u => u.vals = old.vals ∧ u.seen = [] ∧
      u.armed = some { count := o.a.toNat % 65536, team := o.b.toNat / 2, side := o.b.toNat % 2, off := o.c.toNat }))) ∧
  ∀ (s : State) (core id : Nat) (o : MatrixOp), (s.core core).order.find? (fun x => x.id = id && !x.copy) = some o → o.started = true → o.paired = false → o.lock = none → s.noneDue (clusterOf core) →
    (o.peers = 0 → ∃ t, exec (.matrixComplete core id) s = .next t ∧ t.mem = s.mem ∧ (t.core core).order = (s.core core).order.filter (fun x => !(x.id = id && !x.copy)) ∧
      (∀ n, (t.core core).tile n = (s.core core).tile n) ∧
      (∀ (r : SplitRef) tile inst, r.split < 8 → (s.splitAt r).st = 5 → (s.splitAt r).wait = .matrix tile inst → t.matrixOwed r.team r.grp tile inst = false →
        (t.splitAt r).st = (s.splitAt r).ready ∧ (t.splitAt r).wait = .none) ∧
      ∀ r, o.reg = some r → 192 ≤ r → ∀ p ∈ (s.group o.team o.grp).pends, p.inst = o.inst → p.reg = r → p.src = .unit →
        (∀ p' ∈ (s.group o.team o.grp).pends, p'.inst = o.inst → p'.reg = r → p' = p) →
        ∃ p' ∈ (t.group o.team o.grp).pends, p'.inst = o.inst ∧ p'.reg = r ∧ p'.src = .ready ∧ AMap.get p'.vals 0 0 = wd o.status) ∧
    (o.kind = .mdrain → o.peers ≠ 0 → ∃ t d, exec (.drainPeerTimeout core id) s = .next t ∧ t.mem = s.mem ∧
      (t.core core).order = (s.core core).order.filter (fun x => !(x.id = id && !x.copy)) ∧ (t.group o.team o.grp).deferred = (s.group o.team o.grp).deferred ++ [d] ∧
      d.inst = o.inst ∧ d.split = o.split ∧ d.trap.req.code = 0x0F ∧ d.trap.req.aux = 7 ∧ d.trap.pc = o.pc ∧
      (∀ x ∈ t.fab.contribs, x.drain ≠ some (core, id)) ∧ ∀ r ∈ t.fab.reqs, r.owner ≠ .drain core id)

/-! ### The cluster engine -/

/-- CPY, GATH, SCAT, RGET and RPUT of a split that holds every thread, whose checks pass and for which the cluster has room, enter the cluster's operations with their ranges locked, take the next tag and give it, RGET and RPUT as a result under lookahead, once no remote acquire of its threads is unanswered; with STRICT, GATH and SCAT park until their list is read. RCPL fills its slot with a valid image; STGADV advances the team's stage, up to 255; CPYST gives the status of an operation. Without a live thread each gives 0 and has no effect (R341, R348, R360 to R369, R474, R475). -/
def Obligations.EngineInstructions : Prop :=
  ∀ (s : State) (l : Latch) (f : RegForm), s.issuing l = true →
    let s1 := s.advance l
    let g := s.groupAt l.ref
    let self := l.self s
    let k := clusterOf g.core
    let c := s.cluster k
    let team := l.ref.team
    let words := commandWord g self f.a
    let passed := fun (t : State) => t.splitAt l.ref = { s.splitAt l.ref with pc := l.next, waitCnt := 0, urgent := false }
    let takes := fun (i : Instr) (late strict : Bool) (prev : Nat) (plan : Except TrapReq (EngineOp × List RangeUse)) => ∀ op rs, plan = .ok (op, rs) →
      let locks := rs.flatMap (s.lockEntries c.nextTag c.nextSeq op.core (s.launch op.launch).region.djid)
      op.core = g.core → c.ops.length < 32 → c.locks.length + locks.length ≤ 64 →
      ∃ t, exec i s = .next t ∧ t.mem = s.mem ∧ (t.cluster k).ops = c.ops ++ [{ op with tag := c.nextTag, seq := c.nextSeq, strict := strict, prev := prev }] ∧
        (t.cluster k).locks = c.locks ++ locks ∧ (t.cluster k).nextTag = nextTagOf c.nextTag ∧ (t.cluster k).status.head? = some { tag := c.nextTag } ∧
        (t.groupAt l.ref).lastOp = c.nextTag ∧
        (strict = false → passed t ∧ ∀ n, f.d = .g n → if late then g.Gave (t.groupAt l.ref) self f (wd c.nextTag) else g.Wrote (t.groupAt l.ref) 0 f.d (fun _ => wd c.nextTag)) ∧
        (strict = true → g.Kept (t.groupAt l.ref) ∧ (t.splitAt l.ref).st = 5 ∧ (t.splitAt l.ref).wait = .engine f.d c.nextTag ∧ (t.splitAt l.ref).pc = l.next)
    let new := fun (kind : EngineKind) => newOp kind s1 team l.ref.grp l.ref.split g.core l.pc l.w0
    let flag := f.mod.getLsbD 0
    g.openTx = none → (g.split l.ref.split).st = 1 ∨ (g.split l.ref.split).st = 6 → logWaits g self = false → s.groupStores team l.ref.grp = [] →
    (self = g.present → self &&& g.live ≠ 0 →
      (s.recipeBusy k f.fs.toNat = false → takes (.cpy f) false false 0 (s1.cpyPlan (new .cpy) words (AMap.find c.recipes f.fs.toNat) g.readF self none)) ∧
      takes (.gath f) false flag g.lastOp (s1.listPlan false (new .gath) words (s.operand l f.b 0) (s.operand l f.c 0) (listSize f) self none) ∧
      takes (.scat f) false flag g.lastOp (s1.listPlan true (new .scat) words (s.operand l f.b 0) (s.operand l f.c 0) (listSize f) self none) ∧
      (s.acquirePending team l.ref.grp (threadsOf self) = false →
        takes (.rget f) true false 0 (s1.bulkPlan false (new .rget) words self none) ∧ takes (.rput f) true false 0 (s1.bulkPlan true (new .rput) words self none)) ∧
      (let a := s.operand l f.a 0
       let first : Acc := { thr := eventThread g self, ea := wd (if a.getLsbD 63 then fld a 35 0 else fld a 56 0) }
       let req := s.sized (s.whoAt l) { op := .load, space := if a.getLsbD 63 then .scratch else .glob, align := 32, cache := 0, order := .plain, scope := 0, accs := [first], book := some ⟨f.fs.toNat, 0, .recipe⟩, untagged := true }
       let cells := cellsOf ((List.range req.dests.length).map (fun j => s.loadedWord l req (1000 + j) (eventThread g self)))
       s.recipeBusy k f.fs.toNat = false → a.toNat % 32 = 0 → badAddrWord a = false → s.Reaches l req none → s.Settled l req → recipeFault (cells.headD 0) (cells.drop 1) = none →
         ∃ t, exec (.rcpl f) s = .next t ∧ s.Moved t l l.next ∧ g.Kept (t.groupAt l.ref) ∧ s.KeepsMemory t g.core ∧ AMap.find (t.cluster k).recipes f.fs.toNat = some (cells.drop 1)) ∧
      (let n := match f.a with | .g _ => (s.operand l f.a 0).toNat % 256 | _ => 1
       let stage := min 255 ((s.team team).stage + n)
       (∀ (e i : Nat), (e, i) ∈ (s.launchOf team).sched.zipIdx → (s.team team).released.contains i = true ∨ stage < schedStage e) →
         ∃ t, exec (.stgadv f) s = .next t ∧ passed t ∧ g.Kept (t.groupAt l.ref) ∧ (t.team team).stage = stage ∧ t.clusters = s.clusters ∧ t.mem = s.mem)) ∧
    (self = g.present → self &&& g.live = 0 → ∀ i, i ∈ [Instr.cpy f, .gath f, .scat f, .rget f, .rput f, .rcpl f, .stgadv f] →
      ∃ t, exec i s = .next t ∧ s.Passed t l l.next ∧ ∀ n, f.d = .g n → g.Gave (t.groupAt l.ref) self f 0) ∧
    (let tag := match f.a with | .g _ => (s.operand l f.a 0).toNat | _ => g.lastOp
     ∃ t, exec (.cpyst f) s = .next t ∧ s.Passed t l l.next ∧
       ∀ n, f.d = .g n → g.Wrote (t.groupAt l.ref) 0 f.d (fun _ => statusWord (c.status.find? (fun x => x.tag = tag))))

/-- An operation that no earlier range lock and no commit holds back starts, once its list and pages are there: what it will write is formed from its source, element by element, an invalid list entry giving zeros, with the check codes of its data. Each sector is then written under its masks and counted at its barrier, the last count at each held back; completion removes the operation and its locks, counts what was held and pushes into the rings (R346, R349, R358, R362). Which counts are held back is the model's reading (log 33). -/
def Obligations.EngineOperations : Prop :=
  ∀ (s : State) (k tag : Nat) (o : EngineOp), s.engineOp k tag = some o →
    let counts := fun (t : State) (b : TbRef) (n : Nat) => t.tbNow = s.tbNow ++ [⟨b, 0, n, 0, 0⟩]
    (∀ (es : List Nat) (r w : ChunkMap), o.started = false → o.waits = [] → o.fatal = none → o.strict = false → (s.team o.team).saved = none → s.lockFree o.core o.seq = true → s.lockedLines = [] →
      (o.kind = .cpy ∧ es = []) ∨ ((o.kind = .gath ∨ o.kind = .scat) ∧ o.entries = some es) →
      let q := s.enginePlan o es (fun _ _ _ => 0)
      let p := s.enginePlan o es (s.engSource r w o)
      s.engPages (s.dieCtx o.team o.core) (globalSpans o.src q.reads) (o.dsts.flatMap (fun d => q.writes.flatMap (fun x => globalSpans d.1 (x.1.map (fun y => (y.off, 1)))))) = .ok s r w →
      ∃ t u, exec (.engineOpStart k tag) s = .next t ∧ t.mem = s.mem ∧ t.engineOp k tag = some u ∧ u.started = true ∧ u.writes = (s.planWrites w o p).map SectorWrite.coded ∧ u.pushes = p.pushes ∧
        (∀ x ∈ (t.cluster k).status, x.tag = tag → x.state = 1 ∧ x.err = p.err ∧ x.srcb = p.srcb) ∧
        (o.kind = .gath → (∀ d ∈ o.dsts, ∀ a b, a < es.length * o.size → b < o.param * o.size → (s.engCell w d.1 (d.1.base + a)).loc ≠ (s.engCell r o.src (o.src.base + b)).loc) →
          ∀ i x j, es[i]? = some x → j < o.size → ∀ d ∈ o.dsts, ∃ y ∈ u.writes, y.tb = d.2 ∧
            (s.engCell w d.1 (d.1.base + i * o.size + j), 255, if entryValid o.param x then s.engRead r o.src (x * o.size : Nat) o.size / 2 ^ (8 * j) % 256 else 0) ∈ y.bytes)) ∧
    (∀ w rest, o.started = true → o.writes = w :: rest → o.kind ≠ .rget → o.kind ≠ .rput → cellsLocked s.lockedLines (w.bytes.map (fun b => b.1)) = false →
      (∀ b ∈ w.bytes, ∃ n, b.1.loc = .mem n) →
      ∃ t u, exec (.engineSectorWrite k { it := tag }) s = .next t ∧ t.engineOp k tag = some u ∧ u.writes = rest ∧ t.teams = s.teams ∧
        (∀ n, (∀ b ∈ w.bytes, b.1.loc ≠ .mem n) → t.mem.read n = s.mem.read n) ∧
        ((w.bytes.map (fun b => b.1.loc)).Nodup → ∀ b ∈ w.bytes, ∀ i, i < 8 →
          (t.peek b.1).getLsbD i = if b.2.1.testBit i then b.2.2.testBit i else (s.peek b.1).getLsbD i) ∧
        ((∀ x ∈ rest, x.tb ≠ w.tb) → u.held = o.held ++ [{ w with bytes := [] }] ∧ t.tbNow = s.tbNow) ∧
        (∀ x b, x ∈ rest → x.tb = w.tb → w.tb = some b → u.held = o.held ∧ counts t b w.dec)) ∧
    (o.started = true → o.unsent = [] → o.pieces = 0 → o.writes = [] → o.fail = false → (∀ tm ∈ s.teams, (s.launchOf tm.1).sched = []) → (∀ c ∈ s.clusters, ∀ x ∈ c.2.ops, x.unsent = []) →
      ∃ t, exec (.engineOpComplete k tag) s = .next t ∧ t.mem = s.mem ∧ (t.cluster k).ops = (s.cluster k).ops.filter (fun x => x.tag ≠ tag) ∧
        (t.cluster k).locks = (s.cluster k).locks.filter (fun x => x.seq ≠ o.seq) ∧ (∀ x ∈ (t.cluster k).status, x.tag = tag → x.state = 2) ∧
        (∀ w b, o.held = [w] → w.tb = some b → counts t b w.dec) ∧
        ∀ n v i, o.pushes = [(n, v)] → i < 16 → AMap.get (t.die (dieOf (k * 8))).rings (16 * n + i) 0 = if i = 15 then v else AMap.get (s.die (dieOf (k * 8))).rings (16 * n + i + 1) 0)

/-! ### Remote access and submissions -/

/-- RLD, RST, RATOM and RCAS, whose addresses, peers and routes are good and whose group awaits no earlier answer, while no commit holds a line, send one request for each access, a store one for each 256-byte block: it goes to the peer with the access's address, operation, operands and order, on its way or waiting at the endpoint, and D stays pending for the answer (R465 to R472). RSIG sends one signal with its address, core and count, and DRED adds the words of its threads to its launch's phase, which then waits for its result (R476, R486). One STORE for a block is the model's reading (log 66). -/
def Obligations.RemoteInstructions : Prop :=
  (∀ (s : State) (l : Latch) (f : RegForm) (k : RemKind) (i : Instr),
    (k = .load ∧ i = .rld f) ∨ (k = .store ∧ i = .rst f) ∨ (k = .atomic ∧ i = .ratom f) ∨ (k = .cas ∧ i = .rcas f) → s.issuing l = true →
    let g := s.groupAt l.ref
    let self := l.self s
    let xs := remAccs k f g self
    let n := remSize f
    let data := fun (x : RemAcc) => match k with
      | .load => [] | .atomic => leBytes n x.val | _ => leBytes n x.cmp ++ leBytes n x.val
    s.canonical = true → g.tx = none → s.det l.ref.team = false → logWaits g self = false → s.groupStores l.ref.team l.ref.grp = [] →
    s.remotePending l.ref.team l.ref.grp = false → s.lockedLines = [] → uniformBad f.d (remSources k f) = false →
    (∀ x ∈ xs, x.addr.toNat % n = 0 ∧ x.peer.toNat < 1024 ∧ s.routeValid x.pkg = true ∧ x.addr.toNat < 2 ^ 57) →
    ∃ t, exec i s = .next t ∧ s.Moved t l l.next ∧ g.Kept (t.groupAt l.ref) ∧ s.KeepsMemory t g.core ∧ t.launches = s.launches ∧ t.clusters = s.clusters ∧
      (∀ x ∈ xs, ∃ r, (r ∈ t.fab.queue ∨ (r ∈ t.fab.reqs ∧ ∃ p ∈ t.fab.net, p.pkt = r.pkt)) ∧ r.owner = .thread l.ref.team l.ref.grp l.ref.split g.nextInst ∧
        (x.thr, 0, x.addr.toNat) ∈ r.parts ∧ r.pkt.dest = x.pkg ∧ r.pkt.src = s.ctl.self ∧ r.pkt.djid = (s.launchOf l.ref.team).region.djid ∧ r.pkt.resp = false ∧
        r.pkt.op = (match k with | .load => 0x01 | .store => 0x02 | .atomic => 0x03 | .cas => 0x04) ∧
        r.pkt.acq = (k != .store && decide (remOrder f = 2)) ∧ r.pkt.rel = (k != .load && decide (remOrder f = 3)) ∧
        (k ≠ .store → r.pkt.va = x.addr.toNat ∧ r.pkt.data = data x) ∧ (k = .atomic → r.pkt.sub = remOpc f) ∧ (k = .atomic ∨ k = .cas → r.pkt.asz = decide (n = 8)) ∧
        (k = .store → (∀ y ∈ xs, x.thr < y.thr → y.pkg = x.pkg → y.addr ≠ x.addr) → r.pkt.va ≤ x.addr.toNat ∧
          ∀ j, j < n → r.pkt.data.getD (x.addr.toNat + j - r.pkt.va) 0 = BitVec.ofNat 8 (x.val / 2 ^ (8 * j)))) ∧
      (k ≠ .store → ∀ d, destField f.d = some d → xs ≠ [] → self ≠ 0 → ∃ p ∈ (t.groupAt l.ref).pends, p.inst = g.nextInst ∧ p.reg = d ∧ p.src = .remote ∧
        p.arrived = false ∧ p.mask = if isUni f.d then self else maskOf (fun t => (xs.map (fun x => x.thr)).contains t))) ∧
  (∀ (s : State) (l : Latch) (f : RegForm), s.issuing l = true → s.canonical = true →
    let g := s.groupAt l.ref
    let self := l.self s
    let a := s.operand l f.a 0
    let b := s.operand l f.b 0
    g.tx = none →
    (let count := match f.c with | .g _ => (s.operand l f.c 0).toNat % 2 ^ 20 | _ => 1
     self &&& g.live ≠ 0 → b.toNat % 16 = 0 → a.toNat < 2 ^ 22 → s.routeValid (fld a 21 12) = true → b.toNat < 2 ^ 32 → count ≠ 0 → logWaits g self = false →
     s.groupStores l.ref.team l.ref.grp = [] → s.remotePending l.ref.team l.ref.grp = false → s.lockedLines = [] →
     ∃ t, exec (.rsig f) s = .next t ∧ s.Moved t l l.next ∧ g.Kept (t.groupAt l.ref) ∧ s.KeepsMemory t g.core ∧
       ∃ r, (r ∈ t.fab.queue ∨ (r ∈ t.fab.reqs ∧ ∃ p ∈ t.fab.net, p.pkt = r.pkt)) ∧ r.owner = .thread l.ref.team l.ref.grp l.ref.split g.nextInst ∧
         r.pkt.op = 0x05 ∧ r.pkt.dest = fld a 21 12 ∧ r.pkt.core = a.toNat % 4096 ∧ r.pkt.va = b.toNat ∧ r.pkt.count = count ∧ r.pkt.resp = false) ∧
    (let n := match f.b with | .g _ => b.toNat % 16 | _ => 8
     let la := s.launchOf l.ref.team
     uniformBad f.d [f.a] = false → 1 ≤ n → n ≤ 8 → (isUni f.d = true → n = 1) → s.fab.phases.any (fun p => p.launch = la.id && !p.hbar && p.waiting) = false →
     ∃ t, exec (.dred f) s = .next t ∧ s.Moved t l l.next ∧ g.Kept (t.groupAt l.ref) ∧ t.mem = s.mem ∧ t.cores = s.cores ∧
       (∃ p ∈ t.fab.phases, p.launch = la.id ∧ p.dbgrp = la.lrec.dbgrp ∧ p.hbar = false ∧ p.waiting = true ∧ p.inst = g.nextInst ∧
         p.own = some { op := f.fs.toNat, size := f.mod.toNat / 64 % 8, n := n, words := (List.range n).map (s.operand l f.a) }) ∧
       ∀ d, destField f.d = some d → (if isUni f.d then self else s.activeSet l f.mask &&& maskOf (fun t => decide (t < n))) ≠ 0 →
         ∃ p ∈ (t.groupAt l.ref).pends, p.inst = g.nextInst ∧ p.reg = d ∧ p.src = .remote ∧ p.arrived = false))

/-- LNCH and LNCHD of a record that passes the checks of a launch, taken at once where no queue is open, start or arm it and leave its identifier pending for D; one that fails them gives 0. LNTRG counts its threads as triggered; GSIG stores its word with release order; SYSC posts KIND 6 where the region's ring has room, and parks at its own address else (R325, R442 to R446). When submissions are taken is the model's reading (log 77). -/
def Obligations.SubmissionsAndSignals : Prop :=
  ∀ (s : State) (l : Latch) (f : RegForm), s.issuing l = true → s.canonical = true →
    let g := s.groupAt l.ref
    let self := l.self s
    let a := s.operand l f.a 0
    let la := s.launchOf l.ref.team
    let lid := (s.team l.ref.team).launch
    g.tx = none → logWaits g self = false → s.groupStores l.ref.team l.ref.grp = [] → (∀ k b, (s.core g.core).l1At k = some b → b.dirty = false) →
    s.lockedLines = [] → s.remoteOf l.ref.team l.ref.grp 0xFFFFFFFF = false →
    (self &&& g.live = 0 → ∀ i, i ∈ [Instr.lnch f, .lnchd f, .lntrg f, .gsig f] → ∃ t, exec i s = .next t ∧ s.Passed t l l.next ∧
      ∀ n, f.d = .g n → i = .lnch f ∨ i = .lnchd f → g.Wrote (t.groupAt l.ref) 0 f.d (fun _ => 0)) ∧
    (self &&& g.live ≠ 0 →
      (∀ (arm : Bool) (i : Instr), i = (if arm then .lnchd f else .lnch f) → a.toNat % 64 = 0 → a.toNat < 2 ^ 57 → s.subs = [] → (∀ q, (s.queue q).open_ = false) →
        la.region.prio < 8 → la.ended = none → la.armed = [] →
        let x : Accept := { addr := a.toNat, rcb := la.region.rcb, origin := if arm then .armed lid else .kernel lid, acquire := some f.fs.toNat, held := arm || la.region.det }
        (∀ id u, s.accept x = .ok (id, u) → ∃ t, exec i s = .next t ∧ s.Moved t l l.next ∧ g.Kept (t.groupAt l.ref) ∧ t.mem = s.mem ∧ t.subs = [] ∧
          (arm = false → t.launch id = u.launch id) ∧ (arm = true → (t.launch lid).armed = (u.launch lid).armed ++ [(a.toNat, id)]) ∧
          ∀ n, f.d = .g n → g.Pends (t.groupAt l.ref) (192 + n.val) self (fun _ => wd id)) ∧
        ∀ e, s.accept x = .error e → ∃ t, exec i s = .next t ∧ s.Moved t l l.next ∧ g.Kept (t.groupAt l.ref) ∧ t.launches = s.launches ∧ t.subs = [] ∧
          ∀ n, f.d = .g n → g.Pends (t.groupAt l.ref) (192 + n.val) self (fun _ => 0)) ∧
      (∃ t, exec (.lntrg f) s = .next t ∧ g.Kept (t.groupAt l.ref) ∧ t.splitAt l.ref = { s.splitAt l.ref with pc := l.next, waitCnt := 0, urgent := false } ∧ t.mem = s.mem ∧
        (t.groupAt l.ref).trigger = g.trigger ||| self ∧ ((t.team l.ref.team).allTriggered = true → (t.launchOf l.ref.team).triggered.contains (s.team l.ref.team).linear = true)) ∧
      (let acc : Acc := { thr := eventThread g self, ea := a, va := spanFrom a 8, val := (s.operand l f.b 0).toNat }
       let req : MemReq := { op := .store, space := .glob, align := 8, cache := 0, order := .release, scope := f.fs.toNat, accs := [acc], party := self, untagged := true }
       s.Reaches l req none → s.Settled l req → ((s.reached l req acc).map (fun x => x.loc)).Nodup →
         ∃ t, exec (.gsig f) s = .next t ∧ s.Moved t l l.next ∧ g.Kept (t.groupAt l.ref) ∧ s.Local t l.ref ∧ t.stores = s.stores ∧
           ∀ j x, (s.reached l req acc)[j]? = some x → (∃ k, x.loc = .mem k) → (t.readCell g.core x).1 = BitVec.ofNat 8 (acc.val / 2 ^ (8 * j))) ∧
      (a.toNat < 2 ^ 16 → la.region.rcb ≠ 0 → la.region.apart = true →
        (s.ringRoom la.region = true → ∃ t, exec (.sysc f) s = .next t ∧ s.Moved t l l.next ∧ g.Kept (t.groupAt l.ref) ∧
          s.Notes t la.region { kind := 6, launch := la.id, team := (s.team l.ref.team).linear, gidx := g.gidx, arg := (s.operand l f.b 0).toNat, pc := l.pc.toNat, call := a.toNat }) ∧
        (s.ringRoom la.region = false → (g.split l.ref.split).st = 1 ∨ (g.split l.ref.split).st = 6 →
          ∃ t, exec (.sysc f) s = .next t ∧ g.Kept (t.groupAt l.ref) ∧ (t.splitAt l.ref).st = 5 ∧ (t.splitAt l.ref).wait = .sysc ∧ (t.splitAt l.ref).pc = l.pc ∧ t.mem = s.mem)))

/-! ### Packets at their destination and answers at their source -/

/-- PACKET_ROUTE delivers a packet of this package, hands one for another to the stream of its class and VC on the port of its first usable column, which sends what it can, and drops and counts one without a column. A request of each kind that its context admits, seen for the first time and held back by nothing, at bytes that no page tags, is performed at its home and answered: LOAD and GETREAD give the bytes, STORE and PUTWRITE leave theirs where every check passes, ATOMIC and CAS give the old value and leave the new one, TBARRIVE's arrivals are due at its barrier when the cycle ends (R463, R469 to R471, R475, R476, R479, R495). DRAIN's first piece opens a contribution buffer that holds it; TXLINE is kept and answered with what its context entry gives; TXCOMMIT, its lines here and admitted, applies its store and answers 0; REDUCE of the one member of a root answers with its own words (R473, R487, R488). How DRAIN, TXLINE, TXCOMMIT and REDUCE use the header fields is the model's choice (logs 23, 24, 26), and that requests touch no L1 its reading (log 71). -/
def Obligations.RequestsServed : Prop :=
  ((∀ (s : State) (n : NetPkt) (rest : List NetPkt), s.fab.net = n :: rest →
    let leaves := fun (f : Fabric) => ∃ t, exec .packetRoute s = .next t ∧ { t with fab := { t.fab with ports := s.fab.ports } } = { s with fab := f } ∧ (n.buf = none → t = { s with fab := f })
    (n.pkt.dest = s.ctl.self → leaves { s.fab with net := rest, inbox := s.fab.inbox ++ [n.pkt] }) ∧
    (n.pkt.dest ≠ s.ctl.self →
      let e := AMap.get s.fab.routes n.pkt.dest (0, 0)
      let columns := if n.pkt.resent then [e.2, e.1] else [e.1, e.2]
      (∀ c, columns.find? (s.columnUsable n.hop) = some c → ∃ t, exec .packetRoute s = .next t ∧ t.fab.net = rest ∧
        t.port (bitsOf c 4 0) = { ((s.port (bitsOf c 4 0)).append (6 * natOfBool n.pkt.resp + n.hop) { bytes := packetBytes n.pkt, buf := n.buf }).send rest.isEmpty with
          ownStop := (t.port (bitsOf c 4 0)).ownStop }) ∧
      ((∀ c ∈ columns, s.columnUsable n.hop c = false) →
        leaves { s.fab with net := rest, drops := min (s.fab.drops + 1) (2 ^ 32 - 1) }))) ∧
  ∀ (s : State) (p : Packet), p.resp = false → p ∈ s.fab.inbox → s.fab.handled.find? (fun h => h.isOf p) = none → (s.core noCore).l1 = [] → s.bad = [] →
    let answered := fun (t : State) (r : Packet) => t.fab.net = s.fab.net ++ [{ pkt := r, hop := 0 }] ∧ t.fab.inbox = s.fab.inbox.erase p
    let clear := fun (u : State) (cs : List Machine.Cell) => cellsLocked u.lockedLines cs = false ∧ (∀ c ∈ cs, c.dtag = false ∧ ∃ k, c.loc = .mem k) ∧ (cs.map (fun c => c.loc)).Nodup
    let others := fun (t : State) (cs : List Machine.Cell) => ∀ k, (∀ c ∈ cs, c.loc ≠ .mem k) → t.mem.read k = s.mem.read k
    (∀ u cs, s.grant p p.len false false = .cells u cs → cellsLocked u.lockedLines cs = false →
      (p.op = 0x01 → (∀ c ∈ cs, c.dtag = false) → ∃ t, exec (.loadReq p) s = .next t ∧ t.mem = s.mem ∧ answered t (responseTo p 0 (cs.map s.peek))) ∧
      (p.op = 0x06 → ∃ t, exec (.getreadReq p) s = .next t ∧ t.mem = s.mem ∧ answered t (responseTo p 0 (cs.map s.peek)))) ∧
    (∀ u cs i, s.grant p p.len true false = .cells u cs → clear u cs → p.count = 0 → p.data.length = p.len → (p.op = 0x02 ∧ i = .storeReq { it := p }) ∨ (p.op = 0x07 ∧ i = .putwriteReq { it := p }) →
      ∃ t, exec i s = .next t ∧ answered t (responseTo p 0 []) ∧ others t cs ∧ ∀ j c, cs[j]? = some c → t.peek c = p.data.getD j 0) ∧
    (let n := atomBytes p
     (∀ u cs, s.grant p n true (p.sub != 0) = .cells u cs → clear u cs → p.op = 0x03 →
       let old := leNat (cs.map s.peek)
       ∃ t, exec (.atomicReq p) s = .next t ∧ answered t (responseTo p 0 (if p.count = 1 then [] else leBytes n old)) ∧ others t cs ∧
         ∀ j c, cs[j]? = some c → t.peek c = BitVec.ofNat 8 (atomVal (.int p.sub) n old (leNat p.data) 0 / 2 ^ (8 * j))) ∧
     (∀ u cs, s.grant p n true false = .cells u cs → clear u cs → p.op = 0x04 →
       let old := leNat (cs.map s.peek)
       ∃ t, exec (.casReq p) s = .next t ∧ answered t (responseTo p 0 (leBytes n old)) ∧ others t cs ∧
         ∀ j c, cs[j]? = some c → t.peek c = BitVec.ofNat 8 ((if old = leNat (p.data.take n) then leNat (p.data.drop n) else old) / 2 ^ (8 * j)))) ∧
    (∀ u tm, p.op = 0x05 → s.entryStatus p = none → s.teamInContext p.core p.djid = some (u, tm) → p.va + 16 ≤ (s.launch tm.launch).lrec.scratch → p.va % 16 = 0 → s.lockedLines = [] →
      ∃ t, exec (.tbarriveReq p) s = .next t ∧ answered t (responseTo p 0 []) ∧ t.mem = s.mem ∧ t.teams = s.teams ∧
        t.tbNow = s.tbNow ++ [⟨⟨u, tm.sideOn p.core, p.va⟩, p.count, 0, 0, 0⟩])) ∧
  (∀ (s : State) (p : Packet), p.resp = false → p ∈ s.fab.inbox → s.fab.handled.find? (fun h => h.isOf p) = none → (s.core noCore).l1 = [] →
    let answered := fun (t : State) (r : Packet) => t.fab.net = s.fab.net ++ [{ pkt := r, hop := 0 }] ∧ t.fab.inbox = s.fab.inbox.erase p
    (∀ team, p.op = 0x08 → s.fab.contribs = [] → s.entryStatus p = none → s.tileTeam p.djid p.core p.tile = some team →
      ∃ t, exec (.drainReq p) s = .next t ∧ t.mem = s.mem ∧ t.cores = s.cores ∧ t.fab.net = s.fab.net ∧
        t.fab.contribs = [{ src := p.src, index := if p.count = 1 then none else some p.index, djid := p.djid, core := p.core, tile := p.tile, parts := [(p.va, p.data)], pkts := [p] }]) ∧
    (p.op = 0x09 → ∃ t x, exec (.txlineReq p) s = .next t ∧ t.mem = s.mem ∧ answered t (responseTo p ((s.entryStatus p).getD 0) []) ∧ x ∈ t.fab.incoming ∧ x.src = p.src ∧ x.rtag = p.rtag ∧
      x.lines = (((s.fab.incoming.find? (fun y => y.src = p.src && y.rtag = p.rtag)).map (fun y => y.lines)).getD []) ++ [{ p with sub := (s.entryStatus p).getD 0 }]) ∧
    (∀ x u a, p.op = 0x0A → s.fab.incoming.find? (fun x => x.src = p.src && x.rtag = p.rtag) = some x → p.count ≤ x.lines.length → (∀ y ∈ x.lines, y.sub = 0) →
      s.admitLines (orderLines x.lines) [] = .inr (u, [a]) → a.op = .store → s.bad = [] → s.tests = [] →
      let cs := a.acc.cells
      cellsLocked u.lockedLines cs = false → (∀ c ∈ cs, ∀ d ∈ cs, u.locHome c.loc = u.locHome d.loc) → (∀ c ∈ cs, ∃ k, c.loc = .mem k) → (cs.map (fun c => c.loc)).Nodup →
      ∃ t, exec (.txcommitReq p) s = .next t ∧ answered t (responseTo p 0 []) ∧ (∀ y ∈ t.fab.incoming, ¬ (y.src = p.src ∧ y.rtag = p.rtag)) ∧
        (∀ k, (∀ c ∈ cs, c.loc ≠ .mem k) → t.mem.read k = s.mem.read k) ∧ ∀ j c, cs[j]? = some c → t.peek c = BitVec.ofNat 8 (a.acc.val / 2 ^ (8 * j))) ∧
    (∀ n, p.op = 0x0B → p.count = 0 → p.data.length % 8 = 0 → s.treeNode p.va = some n → n.root = true → n.list = [p.src] → p.src ≠ s.ctl.self →
      (∀ x ∈ s.fab.phases, x.isOf p.va p.index false = false) →
      ∃ t, exec (.reducePkt p) s = .next t ∧ t.mem = s.mem ∧ t.fab.phases = s.fab.phases ∧ answered t (responseTo p 0 p.data)))

/-- The answer to the one request of a thread instruction makes its value ready for D, or its status a deferred REMFAULT; a response with no request is dropped; REQUEST_RESEND sends a copy marked RESENT, and REMOTE_TIMEOUT ends a request with status 7. DRED_RESULT makes the words of a phase ready, or its status a deferred REMFAULT; DRED_PHASE_TIMEOUT gives status 7 (R468, R477 to R479, R486, R487). That a timeout may come at any moment is the model's choice (log 3). -/
def Obligations.AnswersAtTheSource : Prop :=
  ∀ (s : State),
    let faulted := fun (t : State) (team grp inst cause : Nat) => ∃ d ∈ (t.group team grp).deferred, d.inst = inst ∧ d.trap.req.code = 0x0F ∧ d.trap.req.aux = cause ∧ d.trap.req.deferred = true
    (∀ (r : RemoteReq) (team grp split inst : Nat), r ∈ s.fab.reqs → r.owner = .thread team grp split inst → (s.team team).saved = none → r.pkt.acq = false → r.parts ≠ [] →
      (∀ x ∈ s.fab.reqs, x.owner = r.owner → x.pkt.dest = r.pkt.dest ∧ x.pkt.eseq = r.pkt.eseq) → (∀ x ∈ s.fab.queue, x.owner ≠ r.owner) →
      (∀ x ∈ s.fab.fails, ¬ (x.team = team ∧ x.grp = grp ∧ x.inst = inst)) →
      let gone := fun (t : State) => ∀ x ∈ t.fab.reqs, x.owner ≠ r.owner
      (∀ p : Packet, p.resp = true → p ∈ s.fab.inbox → s.requestOf p = some r →
        (p.sub = 0 → p.count ≠ 2 → (p.count ≠ 4 ∨ r.pkt.op ≠ 0x02) → ∃ t, exec (.remoteResponse p) s = .next t ∧ t.mem = s.mem ∧ gone t ∧
          ∀ reg q, r.reg = some reg → q ∈ (s.group team grp).pends → q.inst = inst → q.reg = reg → q.src = .remote →
            ∃ u ∈ (t.group team grp).pends, u.id = q.id ∧ u.inst = inst ∧ u.reg = reg ∧ u.src = .ready ∧
              ∀ x ∈ r.parts, AMap.get u.vals (if 192 ≤ reg then 0 else x.1) 0 = r.value p.data) ∧
        (p.sub ≠ 0 → ∃ t, exec (.remoteResponse p) s = .next t ∧ t.mem = s.mem ∧ gone t ∧ faulted t team grp inst p.sub)) ∧
      (s.requestNamed r.pkt.dest 0 r.pkt.eseq = some r →
        exec (.requestResend r.pkt.dest 0 r.pkt.eseq) s = .next { s with fab := { s.fab with net := s.fab.net ++ [{ pkt := { r.pkt with resent := true }, hop := 0 }] } } ∧
        ∃ t, exec (.remoteTimeout r.pkt.dest 0 r.pkt.eseq) s = .next t ∧ t.mem = s.mem ∧ gone t ∧ faulted t team grp inst 7)) ∧
    (∀ p : Packet, p.resp = true → p ∈ s.fab.inbox → s.requestOf p = none → exec (.remoteResponse p) s = .next { s with fab := { s.fab with inbox := s.fab.inbox.erase p } }) ∧
    (∀ launch p, s.dredOf launch = some p →
      (∀ v, p.result = some v → ∃ t, exec (.dredResult launch) s = .next t ∧ ((s.team p.team).saved = none → t.mem = s.mem) ∧ (∀ x ∈ t.fab.phases, x.isOf p.dbgrp p.phase false = false) ∧
        (v.status = 0 → ∀ q ∈ (s.group p.team p.grp).pends, q.inst = p.inst → q.src = .remote → ∃ u ∈ (t.group p.team p.grp).pends, u.id = q.id ∧ u.reg = q.reg ∧ u.src = .ready ∧
          ∀ i w, v.words[i]? = some w → AMap.get u.vals i 0 = w) ∧
        (v.status ≠ 0 → faulted t p.team p.grp p.inst v.status)) ∧
      (p.result = none → ∃ t, exec (.dredPhaseTimeout launch) s = .next t ∧ ((s.team p.team).saved = none → t.mem = s.mem) ∧ faulted t p.team p.grp p.inst 7 ∧
        ∀ x ∈ t.fab.phases, x.isOf p.dbgrp p.phase false = true → x.waiting = false))

/-! ### What issues, what arrives and what pages need -/

/-- SLOT_SELECT begins a new cycle where the slot has had its turn in this one, then chooses a ready split of the slot's groups that no urgent split's reservation keeps out: an urgent one with the highest count where one is urgent, else the one that the slot's last cycle put off if it is ready, else its policy's; but of two that R14 or R192 keep apart the lower entry, and another is then put off to its next cycle. With it goes at most one other ready split of its group that may pair, the lower entry first. With none ready it chooses none (R14, R111, R192, R203, R206). SPLIT_URGENT marks a split passed over 192 times. INSTRUCTION_FETCH of words there changes no team and no byte; of a page the host must supply it parks the split and asks; PRI_RESPONSE lets the splits that wait for the page go on, or traps FETCHF cause 2 (R321, R394). The order of events around issue and the cycle are the model's choice (log 2), what is put off and the reservation its reading (log 97), the size of the page asked for and the base word kept beside a waiting extension word another (log 49). -/
def Obligations.SelectionAndFetch : Prop :=
  (∀ (s : State) (core slot : Nat),
    let s0 := s.turnOf core slot
    let groups := s0.slotGroups core slot
    let s1 := if s.selectsAgain core slot then s0 else groups.foldl (fun (acc : State) x => acc.prepare x.2.1 x.2.2) (s0.settlePick core slot)
    let ready := fun (r : SplitRef) => ∃ x ∈ s1.candidates groups, r.team = x.1 ∧ r.grp = x.2.1 ∧ r.split ∈ x.2.2
    let apart := fun (lo hi : SplitRef) => lo.team = hi.team ∧ lo.grp = hi.grp ∧ lo.split < hi.split ∧
      ∃ a b, s1.upcoming lo = some a ∧ s1.upcoming hi = some b ∧ ((sameClass a b && sharedClash a b) || s1.slotClash lo hi a b) = true
    (4 * core + slot < s.slotAt → ∃ t, exec (.slotSelect core slot) s = .next t ∧ t.ctl.clk = (s.ctl.clk + 1) % 2 ^ 64 ∧ ∀ e ∈ t.cores, ∀ b ∈ e.2.banks, b.2.before = none) ∧
    (s.slotAt ≤ 4 * core + slot → ∃ t, exec (.slotSelect core slot) s = .next t ∧ t.ctl.clk = s.ctl.clk ∧ t.tbNow = s.tbNow) ∧
    ((∀ r, ¬ ready r) → ∃ t, exec (.slotSelect core slot) s = .next t ∧ t.issueQ = s.issueQ) ∧
    ((∃ r, ready r) → ∃ t r, exec (.slotSelect core slot) s = .next t ∧ ready r ∧
      (AMap.find (s1.core core).next slot = some r ∧ (∀ q, ready q → (s1.splitAt q).urgent = false) ∨
        (∀ q, ready q → ¬ apart q r) ∧ ∃ p, ready p ∧ (r = p ∨ r.team = p.team ∧ r.grp = p.grp ∧ r.split < p.split ∧ ∃ q, ready q ∧ apart r q) ∧
          ((∀ q, AMap.find (s1.core core).next slot = some q → ¬ ready q) ∨ (s1.splitAt p).urgent = true) ∧
          ∀ q, ready q → (s1.splitAt q).urgent = true → (s1.splitAt p).urgent = true ∧ (s1.splitAt q).waitCnt ≤ (s1.splitAt p).waitCnt) ∧
      (∃ k, AMap.find (t.core core).pick slot = some k ∧ k.chosen.head? = some r ∧ ((∃ q, ready q ∧ (apart q r ∨ apart r q)) → k.next ≠ none)) ∧
      (t.issueQ = s.issueQ ++ [r] ∨ ∃ lo hi, t.issueQ = s.issueQ ++ [lo, hi] ∧ lo.team = hi.team ∧ lo.grp = hi.grp ∧ lo.split < hi.split ∧ (r = lo ∧ ready hi ∨ r = hi ∧ ready lo) ∧
        ∃ a b, s1.upcoming lo = some a ∧ s1.upcoming hi = some b ∧ mayPair (s1.groupAt r) lo.split hi.split a b = true))) ∧
  (∀ (s : State) (r : SplitRef), 192 ≤ (s.splitAt r).waitCnt → r.split < (s.groupAt r).splits.length →
    ∃ t, exec (.splitUrgent r) s = .next t ∧ (t.splitAt r).urgent = true ∧ t.mem = s.mem) ∧
  (∀ (s : State) (r : SplitRef), (s.splitAt r).st = 1 ∨ (s.splitAt r).st = 6 →
    let f := s.fetch r.team (s.groupAt r).core (s.splitAt r).pc
    (∀ u w0 w1, f = .words u w0 w1 → ∃ t, exec (.instructionFetch r) s = .next t ∧ t.mem = s.mem ∧ t.teams = s.teams) ∧
    (∀ va, f = .page va → ∃ t, exec (.instructionFetch r) s = .next t ∧ t.mem = s.mem ∧ (t.splitAt r).st = 2 ∧ (t.splitAt r).wait = .fetch va ∧
      ((s.launchOf r.team).region.djid, wd (va.toNat / 4096 * 4096)) ∈ t.pri)) ∧
  ∀ (s : State) (djid : Nat) (va : Word) (r : SplitRef) (a : Word),
    let page := fun (x : Word) => wd (x.toNat / 4096 * 4096)
    let waits := fun (q : SplitRef) (b : Word) => q ∈ s.allSplits ∧ (s.launchOf q.team).region.djid = djid ∧ (s.splitAt q).st = 2 ∧ (s.splitAt q).wait = .fetch b ∧ page b = page va
    (djid, page va) ∈ s.pri → waits r a → (s.team r.team).saved = none →
    (∃ t, exec (.priResponse djid va true) s = .next t ∧ t.mem = s.mem ∧ (djid, page va) ∉ t.pri ∧ (t.splitAt r).st = (s.splitAt r).ready ∧ (t.splitAt r).wait = .none) ∧
    ((∀ q b, waits q b → q = r) → (s.allSplits.filter (fun q => q = r)).length = 1 →
      let u := { s with pri := s.pri.filter (fun p => p != (djid, page va)) }
      let sp := { s.splitAt r with st := (s.splitAt r).ready, wait := .none }
      exec (.priResponse djid va false) s = .next ((u.setSplitAt r sp).present r ⟨fetchTrap 2 a sp.mask, sp.pc, (u.setSplitAt r sp).baseWordAt r, 0, sp.pc⟩))

/-- RESULT_ARRIVAL writes a result without an open window to its register in its threads, and it is pending no more; one check mismatch repeats the read. DEFERRED_TRAP presents a deferred trap at the split's next instruction, its instruction's pending writes cancelled (R202, R315). PAGER_RESPONSE and PAGER_TIMEOUT answer an outstanding request, whose one waiter here is a logged instruction: a serviced response issues it again from the log; a fatal one, or the region's time, leaves a deferred PGFAULT with cause 2 in its place; a response to no request is counted. PAGER_LAUNCH_START accepts the region's pager launch while its ring holds records, or reports its refusal. TAG_SWEEP drops exactly the stale race tags, and ATS_COMPLETION caches the host's answer for the accesses that wait (R319, R391 to R393, R412, R430, R440, R451). That arrivals and timeouts may come at any moment, and that a check fails as the event says, is the model's choice (logs 3, 14). -/
def Obligations.ArrivalsAndPages : Prop :=
  ((∀ (s : State) (team grp id : Nat) (p : Pend),
    let g := s.group team grp
    g.pends.find? (fun x => x.id = id) = some p → p.src = .ready → p.arrived = false → (s.team team).saved = none →
    p.cnt = [] → p.disc = 0 → (∀ q ∈ g.pends, q.reg = p.reg → q = p) → ∀ mismatches, mismatches < 2 → ∃ t, exec (.resultArrival team grp id mismatches) s = .next t ∧ t.mem = s.mem ∧
      (∀ q ∈ (t.group team grp).pends, q.reg ≠ p.reg) ∧
      (p.reg < 192 → ∀ n, n < 32 → (t.group team grp).readV p.reg n = if p.mask.getLsbD n then AMap.get p.vals n 0 else g.readV p.reg n) ∧
      (192 ≤ p.reg → (t.group team grp).readG (p.reg - 192) = AMap.get p.vals 0 0)) ∧
  ∀ (s : State) (team grp : Nat) (d : Deferred) (rest : List Deferred),
    let g := s.group team grp
    (s.team team).saved = none → g.stopped = false → g.deferred = d :: rest → d.split < 8 → g.used d.split = true → (g.split d.split).canTrap = true → d.e2e = none → d.trap.req.code ≠ 0x09 →
    exec (.deferredTrap team grp) s = .next ((s.setGroup team grp (({ g with deferred := rest } : Group).cancel d.inst)).present ⟨team, grp, d.split⟩
      { d.trap with resume := (g.split d.split).pc })) ∧
  ((∀ (s : State) (die : Nat) (q : PagerReq) (team grp inst : Nat) (e : LogEntry), (s.die die).requests.find? (fun x => x.reqid = q.reqid) = some q →
    q.waiters = [.inst team grp inst] → (s.group team grp).oplog = [e] → e.inst = inst → e.waits = [(die, q.reqid)] → (s.team team).saved = none → (s.team team).restoring = false →
    let g := s.group team grp
    let left := s.setDie die { s.die die with requests := (s.die die).requests.filter (fun (x : PagerReq) => x.reqid != q.reqid) }
    let fatal := fun (t : State) => t.mem = s.mem ∧ (t.group team grp).oplog = [] ∧ (∀ x ∈ (t.die die).requests, x.reqid ≠ q.reqid) ∧
      ∃ d ∈ (t.group team grp).deferred, d.inst = inst ∧ d.split = e.split ∧ d.trap.req.code = 0x09 ∧ d.trap.req.aux = 2 ∧ d.trap.req.deferred = true
    (∀ resp : Word, fld resp 63 32 = q.reqid →
      (fld resp 1 0 = 0 → exec (.pagerResponse die resp) s = .next ((left.setGroup team grp { g with oplog := [{ e with waits := [] }] }).replayEntry team grp { e with waits := [] })) ∧
      (fld resp 1 0 ≠ 0 → ∃ t, exec (.pagerResponse die resp) s = .next t ∧ fatal t)) ∧
    (q.region.wdpager ≠ 0 → ∃ t, exec (.pagerTimeout die q.reqid) s = .next t ∧ fatal t)) ∧
  (∀ (s : State) (die : Nat) (resp : Word), die < 8 → (∀ x ∈ (s.die die).requests, x.reqid ≠ fld resp 63 32) →
    ∃ t, exec (.pagerResponse die resp) s = .next t ∧ t.mem = s.mem ∧ (AMap.get (t.die die).errors 32 0).toNat = min (2 ^ 32 - 1) ((AMap.get (s.die die).errors 32 0).toNat + 1)) ∧
  (∀ (s : State) (rcb : Nat) (r : Region), s.region rcb = .ok r → s.ctl.service = 2 ∨ s.ctl.service = 3 → r.pager = 2 → s.ringBad r.pprod r.pcons = [] → s.ringUsed r.pprod r.pcons ≠ 0 → s.pagerRuns rcb = false →
    (∀ id u, s.accept { addr := r.plaunch, rcb := rcb, origin := .pager rcb } = .ok (id, u) → exec (.pagerLaunchStart rcb) s = .next u ∧ (u.launch id).lrec.addr = r.plaunch) ∧
    ∀ e, s.accept { addr := r.plaunch, rcb := rcb, origin := .pager rcb } = .error e → r.rcb ≠ 0 → r.apart = true → s.ringRoom r = true →
      ∃ t, exec (.pagerLaunchStart rcb) s = .next t ∧ s.Notes t r { kind := 2, status := e, addr := r.plaunch }) ∧
  (∀ s : State, ∃ t, exec .tagSweep s = .next t ∧ t.mem = s.mem ∧ ∀ x, x ∈ t.l2tags ↔ x ∈ s.l2tags ∧ s.staleTag x.2 = false) ∧
  ∀ (s : State) (pa h : Nat), s.atsWaits.contains pa = true → (∀ t ∈ s.teams, ∀ g ∈ t.2.groups, g.2.oplog = []) →
    exec (.atsCompletion pa (some h)) s = .next { s with atsWaits := s.atsWaits.filter (fun p => p != pa), atc := AMap.put s.atc pa h } ∧
    exec (.atsCompletion pa none) s = .next { s with atsWaits := s.atsWaits.filter (fun p => p != pa) })

/-! ### Teams and launches -/

/-- TEAM_PLACE seats the next team of the one placing launch on the lowest core of the die that can take it, every group fresh at the entry point; GROUP_RETIRE of a group that has nothing left to do retires it and drops its private lines; of memory its private bytes change, and bytes that its cores held dirty may be written back; with the last group its team retires, and its cores are left with no dirty byte but private ones. LAUNCH_COMPLETE of a launch whose teams have all retired completes its queue entry, with a notification if asked for, counts at DONEADDR, and lets launches held for it go; ARMED_SUCCESSOR_START starts a successor once every team has triggered (R126, R216, R407, R436, R438, R445, R447). That the private bytes of a retired group hold free values is log 17. -/
def Obligations.TeamsAndLaunches : Prop :=
  (∀ (s : State) (die : Nat) (l : Launch) (c n : Nat), die < 8 → s.running = true → s.launchOrder = [l] → s.launch l.id = l → s.detMayStart l = true →
    s.restoreWaits die l.prio = false → l.lrec.coop = false → l.lrec.paired = false → l.sched = [] → l.redo = [] → s.lockedLines = [] → l.nextOn die = some n → s.coreFor l die = some c →
    ∃ t tm, exec (.teamPlace die) s = .next t ∧ AMap.find t.teams s.nextTeam = some tm ∧ tm.launch = l.id ∧ tm.linear = n ∧ tm.core = c ∧ tm.saved = none ∧
      (∀ i, i < l.lrec.ngrp → ∃ g, AMap.find tm.groups i = some g ∧ g.gidx = i ∧ g.core = c ∧ g.live = 0xFFFFFFFF ∧ g.splits = freshSplits 0xFFFFFFFF l.entry ∧
        ∀ j w, l.args[j]? = some w → g.readG j = w) ∧
      ((t.launch l.id).share die).lo = (l.share die).lo + 1 ∧ (t.launch l.id).started = true) ∧
  (∀ (s : State) (team grp : Nat) (g : Group),
    let tm := s.team team
    s.canonical = true → s.tests = [] → s.lockedLines = [] →
    AMap.find tm.groups grp = some g → g.retired = false → tm.saved = none → tm.restoring = false → g.present = 0 ∨ g.stopped = true → s.groupQuiet team grp = true →
    ∃ t, exec (.groupRetire team grp) s = .next t ∧ (∀ k b, (t.core g.core).l1At k = some b → b.priv ≠ some (team, grp)) ∧
      (∀ k, (∀ c ∈ s.privCells team grp, c.loc ≠ .mem k) → t.mem.read k = s.mem.read k ∨
        ∃ c ∈ g.core :: teamCores tm.paired tm.core, ∃ b, (s.core c).l1At k = some b ∧ b.dirty = true ∧ t.mem.read k = b.val) ∧
      ((∀ x ∈ tm.groups, x.1 ≠ grp → x.2.retired = true) → AMap.find t.teams team = none ∧ (t.launch tm.launch).retired = (s.launch tm.launch).retired + 1 ∧
        ∀ c ∈ teamCores tm.paired tm.core, ∀ k b, (t.core c).l1At k = some b → b.priv = none → b.dirty = false) ∧
      ((∃ x ∈ tm.groups, x.1 ≠ grp ∧ x.2.retired = false) → (t.group team grp).retired = true ∧ (t.group team grp).live = 0 ∧ (t.launch tm.launch).retired = (s.launch tm.launch).retired)) ∧
  (∀ (s : State) (id q idx : Nat) (l : Launch) (e : QTaken), AMap.find s.launches id = some l → l.id = id → l.complete = false → l.ended = none → l.lrec.teams ≤ l.retired → l.lrec.dbgrp = 0 →
    s.subs = [] → l.cores = [] → l.origin = .queue q idx → (s.queue q).taken.find? (fun x => x.idx = idx) = some e →
    ∃ t, exec (.launchComplete id) s = .next t ∧ (t.launch id).complete = true ∧ (∀ x ∈ (t.queue q).taken, x.idx ≠ idx) ∧
      (∀ y, y ≠ id → (s.launch y).origin = .kernel id ∨ (s.launch y).origin = .armed id → (t.launch y).held = false) ∧
      (let r := e.region
       l.lrec.doneAddr = 0 → e.notify = true → r.rcb ≠ 0 → r.apart = true → s.ringRoom r = true →
         s.Notes t r { kind := 1, launch := id, addr := e.addr, tag := e.tag.toNat }) ∧
      (∀ cs, e.notify = false → l.lrec.doneAddr ≠ 0 → s.madderCells (regionCtx l.region 0) l.lrec.doneAddr 8 .write = some cs → (∀ c ∈ cs, ∃ k, c.loc = .mem k) →
        (cs.map (fun c => c.loc)).Nodup → leNat (cs.map t.peek) = (leNat (cs.map s.peek) + 1) % 2 ^ 64)) ∧
  ∀ (s : State) (id a : Nat), (s.launch id).origin = .armed a → (s.launch id).held = true → (s.launch id).complete = false →
    let x := s.launch a
    x.region.det = false → (∀ d ∈ x.shares, d.2.hi ≤ d.2.lo) → x.redo = [] → x.held = false →
    (∀ t ∈ s.launchTeams a, t.2.allTriggered = true ∨ x.triggered.contains t.2.linear = true) →
    ∃ t, exec (.armedSuccessorStart id) s = .next t ∧ (t.launch id).held = false ∧ (∀ y ∈ (t.launch a).armed, y.2 ≠ id) ∧ t.mem = s.mem

/-- PREEMPT_REQUEST asks Madder's victim to stop: each split of a discardable team halts, and of another each split at a listed address. PREEMPT_FORCE_STOP halts every split of a group after 2,048 instructions. PREEMPT_SAVE discards a discardable team, which its die starts again, and saves any other in an image; REPLY_TO_IMAGE, and REMOTE_TIMEOUT in its place, counts an acknowledgement in the image of a saved group; TEAM_RESTORE brings the next saved team back to the core that can take it (R327 to R331, R436, R437). What is stopped, discarded and kept as data are the model's readings (logs 16, 81, 82, 83, 94). -/
def Obligations.PreemptionAndRestore : Prop :=
  (∀ (s : State) (team : Nat),
    let tm := s.team team
    let l := s.launch tm.launch
    s.running = true → s.victim (dieOf tm.core) = some team → l.lrec.coop = false →
    ∃ t, exec (.preemptRequest team) s = .next t ∧ t.mem = s.mem ∧ (t.team team).preempt = true ∧
      ∀ b i, let sp := s.splitAt ⟨team, b, i⟩
        sp.st ≠ 0 → (s.discardable tm = true ∨ (sp.st = 1 ∨ sp.st = 6) ∧ (l.sideAt sp.pc).isSome = true) → (t.splitAt ⟨team, b, i⟩).halted = true ∧ (t.splitAt ⟨team, b, i⟩).pc = sp.pc) ∧
  (∀ (s : State) (team grp : Nat),
    let g := s.group team grp
    (s.team team).preempt = true → 2048 ≤ g.preCount → g.forced = false → g.splits.all Split.stoppedNow = false →
    ∃ t, exec (.preemptForceStop team grp) s = .next t ∧ t.mem = s.mem ∧ (t.group team grp).forced = true ∧
      ∀ i, (g.split i).st ≠ 0 → ((t.group team grp).split i).halted = true) ∧
  (∀ (s : State) (team : Nat),
    let tm := s.team team
    let l := s.launch tm.launch
    tm.preempt = true → tm.saved = none → (∀ g ∈ tm.groups, g.2.splits.all Split.stoppedNow = true) → s.teamQuiet team tm = true → s.lockedLines = [] →
    (s.discardable tm = true → ∃ t, exec (.preemptSave team) s = .next t ∧ AMap.find t.teams team = none ∧ (t.launch tm.launch).redo = l.redo ++ [(dieOf tm.core, tm.linear)]) ∧
    (∀ a, s.discardable tm = false → s.hbmAllows l.region (l.lrec.imageSize l.lrec.scratch) = true → s.imagePlace l.region (l.lrec.imageSize l.lrec.scratch) = some a →
      ∃ t, exec (.preemptSave team) s = .next t ∧ (t.team team).saved = some a ∧ (t.team team).preempt = false)) ∧
  (∀ (s : State) (r : RemoteReq) (team grp split inst addr : Nat), r.owner = .thread team grp split inst → r.reg = none → r.pkt.acq = false →
    let tm := s.team team
    let g := s.group team grp
    let base := addr + gimgOff tm.paired tm.spBytes + grp * groupImageSize (s.launchOf team).lrec.alloc
    let counted := fun (t : State) => (t.group team grp).ackcnt = g.ackcnt - 1 ∧ t.readPhys (base + 28) 2 = some (g.ackcnt - 1)
    tm.saved = some addr → g.replies.filter (fun x => x.inst = inst) = [] → 0 < g.ackcnt → g.ackcnt < 2 ^ 16 → base + 30 ≤ physEnd →
    (∀ p : Packet, p.resp = true → p ∈ s.fab.inbox → s.requestOf p = some r → ∃ t, exec (.replyToImage p) s = .next t ∧ counted t) ∧
    (s.requestNamed r.pkt.dest 0 r.pkt.eseq = some r → ∃ t, exec (.remoteTimeout r.pkt.dest 0 r.pkt.eseq) s = .next t ∧ counted t)) ∧
  ∀ (s u : State) (team core : Nat),
    let tm := s.team team
    let l := s.launch tm.launch
    s.running = true → (s.nextRestore (dieOf tm.core)).map (fun x => x.1) = some team → tm.saved.isSome = true →
    (∀ x ∈ s.launchOrder, l.prio < x.prio → s.waitsOn x (dieOf tm.core) = false) → l.lrec.coop = false → tm.replied = true → s.coreFor l (dieOf tm.core) = some core →
    s.restoreAt team core = some u → (∀ t ∈ u.teams, ∀ g ∈ t.2.groups, g.2.oplog = []) →
    exec (.teamRestore team core) s = .next u ∧ (u.team team).saved = none ∧ (u.team team).core = core ∧ (u.team team).launch = tm.launch ∧ (u.team team).linear = tm.linear

/-! ### Queues, graphs and rings -/

/-- A doorbell, by QWRITE or read again at QDOOR after a write there, moves E to an index within the ring, stops the queue beyond it, and changes nothing behind E; clearing ERR sets E to QREAD. The entry at the head of the queue that arbitration picks is taken and QREAD advances: LAUNCH accepts its record or reports KIND 2; GRAPH starts an instance; WAIT completes when its word reaches VALUE and is looked at again until then; SIGNAL writes its word; NOP completes; INVAL starts an invalidation; an entry that completes with NOTIFY posts KIND 1. An entry that breaks the rules stops its queue with KIND 2 and 0xF2 (R420 to R423, R426, R437 to R439). When the doorbell word is looked at, and what an entry that stops its queue leaves, are the model's readings (logs 74, 75, 76, 110). -/
def Obligations.HardwareQueues : Prop :=
  (∀ (s : State) (q : Nat) (v : Word), q < 64 →
    let x := s.queue q
    let near := fun (t : State) => 4 ≤ x.logsz → x.logsz ≤ 20 →
      ((v - x.qread).toNat ≤ 2 ^ x.logsz → (t.queue q).eff = (if (v - x.qread).toNat < (x.eff - x.qread).toNat then x.eff else v) ∧ (t.queue q).err = x.err ∧ t.mem = s.mem) ∧
      (2 ^ x.logsz < (v - x.qread).toNat → (t.queue q).err = true ∧ (t.queue q).enable = false ∧ (t.queue q).eff = x.eff)
    (∃ t, exec (.qwrite q v) s = .next t ∧ (t.queue q).qwrite = v ∧ near t) ∧
    (x.qdoor ≠ 0 → s.readPhys (x.qdoor.toNat / 8 * 8) 8 = some v.toNat → (x.rings v = false → exec (.qdoorCandidate q) s = .next s) ∧
      (x.doorDue = true ∨ (x.door = none ∧ x.enable = true) ∨ (x.door ≠ none ∧ x.door ≠ some v) → ∃ t, exec (.qdoorCandidate q) s = .next t ∧ (t.queue q).door = some v ∧ (t.queue q).doorDue = false ∧ near t)) ∧
    ∃ t, exec (.queueErrClear q) s = .next t ∧ t.queue q = { x with err := false, eff := x.qread }) ∧
  (∀ (s : State) (q : Nat), s.serving = true → (s.queue q).open_ = true → s.subs = [] →
    let x := s.queue q
    let e := s.headEntry q
    let idx := x.qread.toNat
    let r := s.queueRegion q
    let mine : QTaken := { idx := idx, kind := e.kind, tag := e.tag, addr := if e.kind = 1 then e.addr else e.at_, word := e.addr, value := e.value, notify := e.notify, region := r }
    let room := r.rcb ≠ 0 ∧ r.apart = true ∧ s.ringRoom r = true
    let taken := fun (t : State) => (t.queue q).qread = x.qread + 1 ∧ (t.queue q).taken = x.taken ++ [mine]
    let gone := fun (t : State) => (t.queue q).qread = x.qread + 1 ∧ (t.queue q).taken = x.taken
    let done := fun (t : State) => gone t ∧ (e.notify = true → room → s.Notes t r { kind := 1, addr := e.at_, tag := e.tag.toNat }) ∧ (e.notify = false → t.mem = s.mem)
    (e.bad = true → ∀ i, i ∈ [Instr.queueLaunch q, .queueGraph q, .queueWait q, .queueSignal q, .queueNop q, .queueInval q] → ∃ t, exec i s = .next t ∧
      (t.queue q).err = true ∧ (t.queue q).enable = false ∧ (t.queue q).qread = x.qread ∧ (room → s.Notes t r { kind := 2, status := 0xF2, addr := e.at_, tag := e.tag.toNat })) ∧
    (e.bad = false → s.pickQueue = some q → (∀ y ∈ x.taken, y.idx ≠ idx) →
      (e.kind = 1 →
        let a : Accept := { addr := e.addr, rcb := x.rcb.toNat, origin := .queue q idx, tag := e.tag, notify := e.notify, producers := if e.dep then x.producers else [] }
        (∀ id u, s.accept a = .ok (id, u) → ∃ t, exec (.queueLaunch q) s = .next t ∧ taken t ∧ t.launch id = u.launch id ∧ t.mem = s.mem) ∧
        (∀ c, s.accept a = .error c → ∃ t, exec (.queueLaunch q) s = .next t ∧ gone t ∧ t.launches = s.launches ∧
          (room → s.Notes t r { kind := 2, status := c, addr := e.addr, tag := e.tag.toNat }))) ∧
      (e.kind = 5 → ∃ t, exec (.queueNop q) s = .next t ∧ done t) ∧
      (s.region x.rcb.toNat = .ok r →
        (e.kind = 2 → ∃ t g, exec (.queueGraph q) s = .next t ∧ taken t ∧ AMap.find t.graphs s.nextGraph = some g ∧ g.q = q ∧ g.idx = idx ∧ g.arrivals = [(e.addr, false)] ∧ g.ended = false) ∧
        (e.kind = 3 → ∀ v, s.readRegion r e.addr 8 = some v →
          (e.value ≤ v → ∃ t, exec (.queueWait q) s = .next t ∧ done t) ∧ (v < e.value → ∃ t, exec (.queueWait q) s = .next t ∧ taken t ∧ t.mem = s.mem)) ∧
        (e.kind = 4 → ∀ u, s.writeVa (regionCtx r 0) e.addr (leBytes 8 e.value) = some u → ∃ t, exec (.queueSignal q) s = .next t ∧ gone t ∧ (e.notify = false → t.mem = u.mem) ∧
          (e.notify = true → r.rcb ≠ 0 → r.apart = true → u.ringRoom r = true → u.Notes t r { kind := 1, addr := e.at_, tag := e.tag.toNat })) ∧
        (e.kind = 6 → ∃ t, exec (.queueInval q) s = .next t ∧ taken t ∧ t.invals = s.invals ++ [{ djid := r.djid, base := e.addr, log := e.value, queue := some (q, idx) }])))) ∧
  ∀ (s : State) (q : Nat) (e : QTaken) (v : Nat), s.subs = [] → (s.queue q).taken.find? (fun x => x.kind = 3) = some e →
    let r := e.region
    s.readRegion r e.word 8 = some v → (s.queue q).taken.find? (fun x => x.idx = e.idx) = some e →
    (v < e.value → ∃ t, exec (.queueWaitSatisfied q) s = .next t ∧ t.queues = s.queues ∧ t.mem = s.mem) ∧
    (e.value ≤ v → ∃ t, exec (.queueWaitSatisfied q) s = .next t ∧ (∀ x ∈ (t.queue q).taken, x.idx ≠ e.idx) ∧
      (e.notify = true → r.rcb ≠ 0 → r.apart = true → s.ringRoom r = true → s.Notes t r { kind := 1, addr := e.addr, tag := e.tag.toNat }))

/-- An arrival that does not complete a node's count only counts; a node that starts by a BACK arrival acts by its kind: LAUNCH accepts its record, COND and LOOP send the arrivals their condition chooses, JOIN sends all, NOTIFY posts KIND 4 and sends all, END ends the walk. An instance that has ended without running launches completes its entry, or reports KIND 5 (R432 to R434). HELD_RECORD_POST posts a held record once there is room, and MSIX_COALESCE closes a window with one signal (R439). The TAG of a graph's launches is the model's reading (log 78). -/
def Obligations.GraphsAndRings : Prop :=
  (∀ (s : State) (inst : Nat) (g : Graph) (a : Nat × Bool) (rest : List (Nat × Bool)) (x : Nat), AMap.find s.graphs inst = some g → g.arrivals = a :: rest → g.ended = false →
    s.serving = true → s.subs = [] → addrOk a.1 64 = true → s.readRegion g.region a.1 64 = some x →
    let n := nodeOf x
    let next := fun (t : State) (more : List (Nat × Bool)) => ∃ h, AMap.find t.graphs inst = some h ∧ h.arrivals = rest ++ more ∧ h.ended = false ∧ h.q = g.q
    (a.2 = false → n.arrived + 1 < max 1 n.npred → ∀ u, s.writeVa (regionCtx g.region 0) (a.1 + 6) (leBytes 2 (n.arrived + 1)) = some u →
      ∃ t, exec (.graphNodeArrival inst) s = .next t ∧ next t [] ∧ t.mem = u.mem) ∧
    (∀ ws, a.2 = true → n.ok = true → s.successors g.region n = some ws → ws.all (succOk n.branches) = true →
      (n.kind = 1 →
        let acc : Accept := { addr := n.addr, rcb := g.region.rcb, origin := .node inst a.1, tag := s.graphTag g, producers := g.producers }
        (∀ id u, s.accept acc = .ok (id, u) → ∃ t h, exec (.graphNodeArrival inst) s = .next t ∧ AMap.find t.graphs inst = some h ∧ h.arrivals = rest ∧
          AMap.find h.launches id = some ((ws.filter (fun w => !bitAt w 1)).map succArrival) ∧ t.launch id = u.launch id) ∧
        (∀ c, s.accept acc = .error c → ∃ t h, exec (.graphNodeArrival inst) s = .next t ∧ AMap.find t.graphs inst = some h ∧ (g.failed = false → h.ended = true ∧ h.status = c) ∧ t.launches = s.launches)) ∧
      (n.kind = 2 ∨ n.kind = 3 → ∀ w, s.readRegion g.region n.addr 8 = some w →
        ∃ t, exec (.graphNodeArrival inst) s = .next t ∧ next t ((ws.filter (fun y => bitAt y 1 != condHolds n.cmp w n.value)).map succArrival) ∧ t.mem = s.mem) ∧
      (n.kind = 4 → ∃ t, exec (.graphNodeArrival inst) s = .next t ∧ next t (ws.map succArrival) ∧ t.mem = s.mem) ∧
      (n.kind = 5 → ∃ t, exec (.graphNodeArrival inst) s = .next t ∧ next t (ws.map succArrival) ∧
        (g.region.rcb ≠ 0 → g.region.apart = true → s.ringRoom g.region = true → s.Notes t g.region { kind := 4, addr := a.1, tag := n.value })) ∧
      (n.kind = 6 → ∃ t h, exec (.graphNodeArrival inst) s = .next t ∧ AMap.find t.graphs inst = some h ∧ h.ended = true ∧ h.arrivals = []))) ∧
  (∀ (s : State) (inst : Nat) (g : Graph) (e : QTaken), AMap.find s.graphs inst = some g → g.ended = true → g.launches = [] → s.subs = [] →
    (s.queue g.q).taken.find? (fun x => x.idx = g.idx) = some e →
    let r := e.region
    ∃ t, exec (.graphInstanceComplete inst) s = .next t ∧ AMap.find t.graphs inst = none ∧ (∀ x ∈ (t.queue g.q).taken, x.idx ≠ g.idx) ∧
      (r.rcb ≠ 0 → r.apart = true → s.ringRoom r = true → g.failed = true ∨ e.notify = true →
        s.Notes t r { kind := if g.failed then 5 else 1, status := if g.failed then g.status else 0, addr := e.addr, tag := e.tag.toNat })) ∧
  ∀ (s : State) (rcb : Nat) (r : Region) (x : Ring), AMap.find s.rings r.nprod = some x → x.region = r →
    (∀ n : Note, s.rings.filter (fun y => y.2.region.rcb = rcb) = [(r.nprod, x)] → r.apart = true → x.held = [(r, n.bits)] → s.ringBad r.nprod r.ncons = [] → s.ringUsed r.nprod r.ncons < 2 ^ r.nlogsz →
      ∃ t, exec (.heldRecordPost rcb) s = .next t ∧ s.Notes t r n ∧ (t.ring r).held = [] ∧
        ∀ q : SplitRef, t.ringRoom r = true → (s.launchOf q.team).region.nprod = r.nprod → (s.splitAt q).st = 5 → (s.splitAt q).wait = .sysc → q.split < 8 →
          (t.splitAt q).st = (s.splitAt q).ready ∧ (t.splitAt q).wait = .none) ∧
    (s.rings.filter (fun y => y.2.region.rcb = rcb && y.2.window) = [(r.nprod, x)] → ∃ t, exec (.msixCoalesce rcb) s = .next t ∧ t.mem = s.mem ∧ (t.ring r).window = false ∧
      if s.msixMasked r.msix then t.msix.contains r.msix = true else AMap.get t.msixSent r.msix 0 = AMap.get s.msixSent r.msix 0 + 1)

/-! ### The host's side -/

/-- BAR2 writes its bytes at their homes and reads change nothing; registers take what the host writes them; invalidations drop the translations of their range and no other, in order; service moves to FULL after a good calibration at quiescence, to BASIC on request, and stays with CALFAIL else; a reset or a recovery image brings the package up with memory zero, or leaves it FAILED with the reason; a supply fault and a thermal trip stop it; clock steps follow the sensors, and the error log counts what is corrected on use and what a scrub finds (R388, R399, R449 to R460). What a reset keeps is the model's choice (log 87), the readings of the service states and the clock logs 86, 88 and 89, what errors are met log 99. -/
def Obligations.HostAndService : Prop :=
  (∀ (s : State) (off : Nat) (bytes : List Byte), s.lockedLines = [] → off + bytes.length ≤ physEnd → ∃ t, exec (.bar2Write off bytes) s = .next t ∧ t.readPhys off bytes.length = some (leNat bytes) ∧
    ∀ k, (∀ i, i < bytes.length → physKey 0 (off + i) ≠ some k) → t.mem.read k = s.mem.read k) ∧
  (∀ (s : State) (off n : Nat), exec (.bar2Read off n) s = .next s ∧ exec (.spdmRequest n) s = .next s) ∧
  (∀ (s : State) (v : Word), ∃ t, exec (.registerWrite 0x50 v) s = .next t ∧ t.ctl.pwrcap = max 2000 (min 10000 (v.toNat % 2 ^ 14)) ∧ t.mem = s.mem) ∧
  (∀ (s : State) (q : Nat) (v : Word), q < 64 → ∃ t u, exec (.registerWrite (0x1000 + 64 * q) v) s = .next t ∧ t.queue q = { s.queue q with base := v } ∧
    exec (.registerWrite (0x1000 + 64 * q + 0x10) v) s = .next u ∧ u.queue q = { s.queue q with rcb := v }) ∧
  (∀ (s : State) (base size : Nat), s.stores.any (fun p => p.onHost base size) = false → s.clusters.any (fun c => c.2.ops.any (fun o => o.onHost base size)) = false →
    ∃ t, exec (.atsInvalidate base size) s = .next t ∧ t.mem = s.mem ∧
      ∀ e, e ∈ t.atc ↔ e ∈ s.atc ∧ ¬ (e.1 % 2 ^ 40 * 4096 < base + size ∧ base < e.1 % 2 ^ 40 * 4096 + 4096)) ∧
  (∀ (s : State) (log : Nat), let n := log % 64
    (16 ≤ n ∧ n ≤ 57 → exec (.invgo log) s = .next { s with invals := s.invals ++ [{ djid := s.ctl.invctx, base := s.ctl.invbase.toNat, log := n }] }) ∧
    (¬ (16 ≤ n ∧ n ≤ 57) → exec (.invgo log) s = .next { s with ctl := { s.ctl with inverr := true } })) ∧
  (∀ (s : State) (x : Inval) (rest : List Inval), s.invals = x :: rest → x.queue = none → s.invalBusy x = false →
    ∃ t, exec .invalidationComplete s = .next t ∧ t.invals = rest ∧ t.ctl.invdone = s.ctl.invdone + 1 ∧ t.mem = s.mem ∧
      (∀ c l, l ∈ (t.core c).tlb ↔ l ∈ (s.core c).tlb ∧ x.drops l = false) ∧ ∀ d l, l ∈ (t.die d).tlb ↔ l ∈ (s.die d).tlb ∧ x.drops l = false) ∧
  (∀ s : State,
    (s.ctl.service = 2 → s.ctl.calibrating = false → exec .reqfull s = .next { s with ctl := { s.ctl with calbusy := true, calibrating := true } }) ∧
    (s.ctl.service = 3 → s.ctl.calibrating = false → exec .reqbasic s = .next { s with ctl := { s.ctl with calibrating := true } }) ∧
    (s.ctl.calibrating = true → s.quiescent = true →
      (s.ctl.calbusy = true →
        (∃ t, exec (.calibrationDone true) s = .next t ∧ t.ctl.service = 3 ∧ t.ctl.calbusy = false ∧ t.ctl.calfail = false) ∧
        ∀ i, i = Instr.calibrationDone false ∨ i = .calibrationTimeout → ∃ t, exec i s = .next t ∧ t.ctl.service = s.ctl.service ∧ t.ctl.calbusy = false ∧ t.ctl.calfail = true) ∧
      (s.ctl.calbusy = false → ∀ ok, ∃ t, exec (.calibrationDone ok) s = .next t ∧ t.ctl.service = 2))) ∧
  (∀ (s : State) (images : List BootImage) (dies : BitVec 8) (stackBits : BitVec 16) (version : Nat) (raise : Bool),
    let up := fun (t : State) => t.ctl.dieok = dies ∧ t.ctl.stackok = stackBits ∧
      (dies = 0xFF → stackBits = 0xFFFF → t.ctl.service = 2 ∧ t.ctl.failcode = 0 ∧ t.mem = [] ∧ t.l2 = [] ∧ ∀ c, (t.core c).l1 = [] ∧ (t.core c).tlb = []) ∧ (dies ≠ 0xFF → t.ctl.service = 4 ∧ t.ctl.failcode = 2) ∧
      (dies = 0xFF → stackBits ≠ 0xFFFF → t.ctl.service = 4 ∧ t.ctl.failcode = 3)
    let good := fun (x : BootImage) => x.sigOk = true ∧ x.formOk = true ∧ s.ctl.minSvn ≤ x.version
    ((∀ x ∈ images, good x) → ∃ t, exec (.packageReset images dies stackBits) s = .next t ∧ up t ∧ t.mem = [] ∧ t.teams = [] ∧ t.launches = [] ∧
      s.ctl.minSvn ≤ t.ctl.minSvn ∧ (∀ x ∈ images, x.raise = true → x.version ≤ t.ctl.minSvn) ∧ (t.ctl.minSvn = s.ctl.minSvn ∨ ∃ x ∈ images, x.raise = true ∧ t.ctl.minSvn = x.version)) ∧
    ((∃ x ∈ images, ¬ good x) → ∃ t, exec (.packageReset images dies stackBits) s = .next t ∧ t.ctl.service = 4 ∧ t.ctl.failcode = 1 ∧ t.ctl.recovery = true ∧ t.ctl.minSvn = s.ctl.minSvn) ∧
    (s.ctl.recovery = true → s.ctl.minSvn ≤ version → ∃ t, exec (.recoveryImageLoad true true version raise dies stackBits) s = .next t ∧ up t ∧
      t.ctl.minSvn = if raise then version else s.ctl.minSvn) ∧
    (∀ sig form, sig = false ∨ form = false ∨ version < s.ctl.minSvn → exec (.recoveryImageLoad sig form version raise dies stackBits) s = .next s)) ∧
  (∀ s : State, (∃ t, exec .supplyFault s = .next t ∧ t.ctl.service = 4 ∧ t.ctl.failcode = 5 ∧ t.issueQ = []) ∧
    ∃ t, exec .thermalTrip s = .next t ∧ t.ctl.service = 4 ∧ t.ctl.failcode = 4 ∧ t.issueQ = []) ∧
  (∀ (s : State) (power tinlet tjmax : Nat),
    let hot := s.ctl.pwrcap < power % 2 ^ 14 ∨ 95 ≤ tjmax % 256
    (s.running = true → hot → tjmax % 256 < 110 → ∃ t, exec (.clockStepDown power tinlet tjmax) s = .next t ∧ t.ctl.steps = min 4 (s.ctl.steps + 1) ∧ t.ctl.pwrnow = power % 2 ^ 14) ∧
    (110 ≤ tjmax % 256 → ∀ i, i = Instr.clockStepDown power tinlet tjmax ∨ i = .clockStepUp power tinlet tjmax → ∃ t, exec i s = .next t ∧ t.ctl.service = 4 ∧ t.ctl.failcode = 4) ∧
    (¬ hot → ∃ t, exec (.clockStepUp power tinlet tjmax) s = .next t ∧ t.ctl.steps = s.ctl.steps - 1 ∧ t.ctl.tjmax = tjmax % 256)) ∧
  ∀ (s : State) (die source n m : Nat) (x : Scrubbed), x.used = true ∨ s.ctl.scrub ≠ 0 → die < 8 → 1 ≤ source → source ≤ 7 →
    let log := fun (u : State) (off : Nat) => (AMap.get (u.die die).errors off 0).toNat
    ∃ t, exec (.scrub die source n m x) s = .next t ∧ t.mem = s.mem ∧ log t (4 * (source - 1)) = min (2 ^ 32 - 1) (log s (4 * (source - 1)) + n) ∧
      (x.used = true → log t 28 = log s 28) ∧ (x.used = false → log t 28 = min (2 ^ 32 - 1) (log s 28 + m) ∧ (m ≠ 0 → log t 40 = x.loc % 2 ^ 64))

/-- A store whose end-to-end test fails twice leaves the failing sectors as they were, and their L1 bytes; its other bytes are written, its group stops with E2E in TRAPCODE, and its launch ends with status 0x10. The write-back of a dirty L2 sector makes it clean, its uncorrectable words then standing in HBM; one whose code fails twice puts back what HBM held. Bytes written at their home leave in their sector's L2 entry the code of the merged bytes, beside what HBM holds (R379, R396, R397). A read whose check fails twice still writes its register, each word of it then uncorrectable with cause 8; SCRUB makes the words it names uncorrectable with the cause of their place; an instruction that consumes an uncorrectable register of an active thread, or a load that finds an uncorrectable word, traps UCE with that cause and does nothing else (R235, R398, R399). When words fail is the event's to say, and the words' size and what clears them are the model's readings (logs 14, 91, 99). -/
def Obligations.UncorrectableWords : Prop :=
  (∀ (s : State) (id k : Nat) (p : PStore) (fails : List SectorFail) (x : SectorFail), s.canonical = true → s.stores.find? (fun q => q.id = id) = some p → p.op = .store → s.tests = [] →
    (s.stores.takeWhile (fun q => q.id != id)).any (fun q => q.before p) = false → cellsLocked s.lockedLines p.cells = false → s.matrixReads p = false → s.noTbWaits →
    firstFail fails (p.cells.map (fun c => c.loc)) = some (k, x) → (AMap.find (s.team p.team).groups p.grp).isSome = true →
    let bad := failedSectors fails
    let lid := (s.team p.team).launch
    (∃ u : State, exec (.storePerformed (.performed id) { fails := fails }) s =
        .next (u.e2e p.team p.grp (if 2 ≤ x.old then 0 else lid) k ⟨{ code := 0x10 }, p.pc, p.w0, p.w1, ((s.group p.team p.grp).split p.split).pc⟩) ∧
      u.stores = s.stores.filter (fun q => q.id ≠ id) ∧
      (∀ j, bad.contains (j / 32) = true → u.mem.read j = s.mem.read j ∧ ∀ c, (u.core c).l1At j = (s.core c).l1At j) ∧
      ((p.cells.map (fun c => c.loc)).Nodup → (∀ c ∈ p.cells, ∃ j, c.loc = .mem j) → ∀ a ∈ p.accs, ∀ i c, a.cells[i]? = some c → c.loc.inSectors bad = false →
        (u.readCell p.core c).1 = BitVec.ofNat 8 (a.val / 2 ^ (8 * i)))) ∧
    ∃ t, exec (.storePerformed (.performed id) { fails := fails }) s = .next t ∧ (t.group p.team p.grp).stopped = true ∧ AMap.get (t.group p.team p.grp).trap 0x20 0 = 0x10 ∧
      ((s.launch lid).complete = false → (s.launch lid).ended = none → (t.launch lid).ended = some 0x10)) ∧
  (∀ (s : State) (sec failures team grp : Nat) (e : L2Sector), s.canonical = true → AMap.find s.l2 sec = some e →
    (failures < 2 → ∃ t, exec (.storePerformed (.writeBack sec team grp) { mismatches := failures }) s = .next t ∧ t.mem = s.mem ∧ AMap.find t.l2 sec = none ∧
      (∀ k, k ≠ sec → AMap.find t.l2 k = AMap.find s.l2 k) ∧ ∀ w, w / 4 = sec → s.badAt (.l2 w) ≠ none → t.badAt (.l2 w) = none ∧ t.badAt (.hbm w) = some 7) ∧
    (2 ≤ failures → exec (.storePerformed (.writeBack sec team grp) { mismatches := failures }) s = .next ((s.dropL2 sec).e2e team grp 0 (32 * sec) ⟨{ code := 0x10 }, 0, 0, 0, 0⟩) ∧
      ∀ i b, e.old[i]? = some b → (s.dropL2 sec).mem.read (32 * sec + i) = b)) ∧
  (∀ (s : State) (off i k : Nat) (bytes : List Byte), s.canonical = true → i < bytes.length → physKey 0 (off + i) = some k →
    s.lockedLines = [] → ∃ t e, exec (.bar2Write off bytes) s = .next t ∧ AMap.find t.l2 (k / 32) = some e ∧ e.code = checkCode (l2Bytes t.mem (k / 32)) (2 ^ 32 - 1) ∧
      e.old = (match AMap.find s.l2 (k / 32) with | some e0 => e0.old | none => l2Bytes s.mem (k / 32))) ∧
  (∀ (s : State) (team grp id mismatches : Nat) (p : Pend) (xs : AMap Word),
    let g := s.group team grp
    g.pends.find? (fun x => x.id = id) = some p → p.src = .ready → p.arrived = false → (s.team team).saved = none → p.cnt = [] → p.disc = 0 →
    (∀ q ∈ g.pends, q.reg = p.reg → q = p) → p.addrs = some xs → 2 ≤ mismatches → ∃ t, exec (.resultArrival team grp id mismatches) s = .next t ∧ t.mem = s.mem ∧
      (p.reg < 192 → ∀ n, n < 32 → p.mask.getLsbD n = true → (t.group team grp).readV p.reg n = AMap.get p.vals n 0 ∧ ∃ b ∈ (t.group team grp).bad, b.reg = p.reg ∧ b.thr = n ∧ b.cause = 8) ∧
      (192 ≤ p.reg → (t.group team grp).readG (p.reg - 192) = AMap.get p.vals 0 0 ∧ ∃ b ∈ (t.group team grp).bad, b.reg = p.reg ∧ b.cause = 8)) ∧
  (∀ (s : State) (die source n m : Nat) (x : Scrubbed), ∃ t, exec (.scrub die source n m x) s = .next t ∧ t.mem = s.mem ∧ t.tests = s.tests ++ x.tests ∧ t.misreads = s.misreads ++ x.misreads ∧
    (∀ p ∈ x.words, (∀ team grp reg thr, p ≠ .reg team grp reg thr) → t.badAt p = some (BadPlace.cause p)) ∧
    ∀ team grp reg thr, .reg team grp reg thr ∈ x.words → (AMap.find (s.team team).groups grp).isSome = true →
      ∃ b ∈ (t.group team grp).bad, b.reg = reg ∧ b.thr = (if 192 ≤ reg then 0 else thr) ∧ b.cause = 1) ∧
  ∀ (s : State) (l : Latch), s.latch = some l → (s.groupAt l.ref).splits.length = 8 → l.ref.split < 8 →
    let g := s.groupAt l.ref
    (∀ (f : RegForm) (n : Fin 192) (i : Instr) (b : BadReg), i ∈ [Instr.iadd f, .isub f, .imul f, .and f, .or f, .xor f] → f.a = .v n → uniformBad f.d [f.a, f.b] = false →
      decodeWords (s.decodeCtx l.ref) l.w0 l.w1 = .ok i → b ∈ g.bad → b.reg = n.val → (s.activeSet l f.mask).getLsbD b.thr = true →
      ∃ q : TrapReq, q.code = 0x11 ∧ (∃ x ∈ g.bad, q.aux = x.cause) ∧ exec i s = .next (s.takeTrap l q)) ∧
    ∀ (f : MemForm), isVec f.d = true → f.order = .plain →
      let req := s.loadReq l f false
      s.Reaches l req none → s.Settled l req → (∃ a ∈ req.accs, ∃ c ∈ s.reached l req a, (s.badCell g.core c).isSome = true) →
      ∃ q : TrapReq, q.code = 0x11 ∧ (∃ a ∈ req.accs, ∃ c ∈ s.reached l req a, s.badCell g.core c = some q.aux) ∧ exec (.ld f) s = .next (s.takeTrap l q)

/-! ### Ports -/

/-- A port is configured and locked, started, stopped and drained by its commands in the states that R506 gives, and a write to a locked one is not performed but moves it to ERROR; it trains to the widest good width, advertises its VCs, retrains around a lost lane, never to a greater width, and goes down without one; sessions are accepted and keys updated by what was verified; the route tables take their images (R492 to R494, R498 to R508). FLIT_RECEIVE accepts the flit in sequence of a running port, whose whole packets wait to be routed, but one that lost bytes with its bank; it discards a repeated one and a control flit that fails, and answers any other, or one that fails, with a replay; only a session counts failed tags. IDLE, REPLAY, VCADV, SPDM, RESUME and STATE act as their messages say, and ten microseconds of silence clear PEERRUN (R498, R500 to R502, R504, R507). How packets fill flits is the model's choice (log 29), as are the readings of logs 32 and 65. -/
def Obligations.PortsAndFlits : Prop :=
  ((∀ (s : State) (v : Word), (s.fab.ports.filter (fun p => p.2.lstate = 1 || p.2.lstate = 2)) = [] →
    exec (.fabricConfigWrite 0xA40 v) s = .next { s with ctl := { s.ctl with self := v.toNat % 1024 } } ∧
    exec (.fabricConfigWrite 0xA50 v) s = .next { s with fab := { s.fab with rctBase := v } }) ∧
  (∀ (s : State) (p : Nat) (x : Port), s.fab.ports = [(p, x)] → x.lstate = 1 ∨ x.lstate = 2 → ∀ v, ∃ t, exec (.fabricConfigWrite 0xA40 v) s = .next t ∧ t.ctl = s.ctl ∧ (t.port p).lstate = 3) ∧
  (∀ s : State, exec .rtload s = .next { s with fab := { s.fab with loading := true } } ∧
    (s.fab.loading = true → ∃ t, exec .routeTableLoaded s = .next t ∧ t.fab.loading = false ∧ t.fab.rtGen = (s.fab.rtGen + 1) % 2 ^ 32 ∧ t.mem = s.mem ∧
      ∀ n e, n < 1024 → n ≠ s.ctl.self → s.readPhys (s.fab.rtBase.toNat + 4 * n) 4 = some e →
        AMap.get t.fab.routes n (0, 0) = (columnOf (bitsOf e 15 0), columnOf (bitsOf e 31 16)))) ∧
  ∀ (s : State) (p : Nat), p < 18 →
    let x := s.port p
    (∀ v : Word,
      (x.lstate = 0 → ∃ t, exec (.pcfgWrite p v) s = .next t ∧ (t.port p).peerPkg = fld v 9 0 ∧ (t.port p).peerPort = fld v 14 10 ∧ (t.port p).enable = v.getLsbD 15 ∧
        (t.port p).laneMask.toNat = fld v 31 16) ∧
      (x.lstate = 1 ∨ x.lstate = 2 → ∃ t, exec (.pcfgWrite p v) s = .next t ∧ (t.port p).lstate = 3 ∧ (t.port p).peerPkg = x.peerPkg ∧ (t.port p).retained = [])) ∧
    (x.lstate = 0 → x.session = true → ∃ t, exec (.lockPort p) s = .next t ∧ (t.port p).lstate = 1 ∧ (t.port p).control = some (6, 1)) ∧
    (x.lstate = 1 → x.stopping = false → ∃ t, exec (.startPort p) s = .next t ∧ (t.port p).lstate = 2 ∧ (t.port p).control = some (6, 2)) ∧
    (x.lstate = 1 ∨ x.lstate = 2 → ∃ t, exec (.stopPort p) s = .next t ∧ t.port p = { x with stopping := true }) ∧
    (x.stopping = true → ∃ t, exec (.portStopDrained p) s = .next t ∧ (t.port p).lstate = 0 ∧ (t.port p).session = false ∧ (t.port p).retained = [] ∧ (t.port p).stopping = false) ∧
    (∀ good w, x.enable = true → x.train = true → x.lstate ≠ 3 → x.width = 0 → 2 ≤ x.healthy → widthOf (good &&& x.laneMask) = some w →
      ∃ t, exec (.linkTrained p good) s = .next t ∧ (t.port p).width = w.1 ∧ (t.port p).part = w.2 ∧ (t.port p).laneFail = ~~~good ∧ (t.port p).vcTop = min 5 (x.healthy / 2 - 1) ∧
        (t.port p).txSeq = 0 ∧ (t.port p).expected = 0 ∧ (t.port p).control = some (3, min 5 (x.healthy / 2 - 1))) ∧
    (∀ lane, x.width ≠ 0 → lane < 16 → x.lstate ≠ 3 → ∃ t, exec (.laneFail p lane) s = .next t ∧ (t.port p).laneFail.getLsbD lane = true ∧ (t.port p).retraining = true) ∧
    (x.retraining = true →
      (∀ w, x.retrainWidth = some w → w.1 ≤ x.width ∧ ∃ t, exec (.retrainComplete p true) s = .next t ∧ (t.port p).width = w.1 ∧ (t.port p).retraining = false ∧ (t.port p).resuming = true ∧
        (t.port p).retained = x.retained ∧ (t.port p).txSeq = x.txSeq ∧ (t.port p).control = some (5, x.expected) ∧ bitAt t.fab.fevt p = true) ∧
      ∃ t, exec (.retrainComplete p false) s = .next t ∧ (t.port p).width = 0 ∧ (t.port p).session = false ∧ (t.port p).retained = []) ∧
    (x.width ≠ 0 → x.healthy < 2 ∨ x.retrainWidth = none → ∃ t, exec (.portDown p) s = .next t ∧ (t.port p).width = 0 ∧ (t.port p).retained = [] ∧ (x.lstate ≠ 3 → (t.port p).lstate = 0)) ∧
    (∀ bank, bank < 16 → x.banks.getLsbD bank = true → 3 ≤ x.healthy → ∃ t, exec (.rxBankError p bank) s = .next t ∧ (t.port p).healthy = x.healthy - 1 ∧ (t.port p).vcTop = min x.vcTop (min 5 ((x.healthy - 1) / 2 - 1))) ∧
    (x.enable = true → x.session = false → x.width ≠ 0 → x.lstate = 0 →
      (∃ t, exec (.sessionAttempt p true x.peerPkg x.peerPort) s = .next t ∧ (t.port p).session = true ∧ (t.port p).sessions = x.sessions + 1 ∧
        (t.port p).requester = decide (s.ctl.self < x.peerPkg) ∧ (t.port p).measured = some x.peerPkg) ∧
      ∀ ok pkg port, ok = false ∨ pkg ≠ x.peerPkg ∨ port ≠ x.peerPort → ∃ t, exec (.sessionAttempt p ok pkg port) s = .next t ∧ t.port p = x ∧ bitAt t.fab.fevt p = true) ∧
    (x.session = true → 2 ^ 36 ≤ x.sent →
      (∃ t, exec (.keyUpdate p true) s = .next t ∧ (t.port p).kph = !x.kph ∧ (t.port p).sent = 0) ∧
      (x.lstate = 1 ∨ x.lstate = 2 → ∃ t, exec (.keyUpdate p false) s = .next t ∧ (t.port p).lstate = 3))) ∧
  (∀ (s : State) (p : Nat),
    let x := s.port p
    x.width ≠ 0 → x.lstate ≠ 3 →
    (∀ f : Flit, x.retraining = false → x.retained = [] → x.waiting = [] → f.ctrl = false → x.lstate = 2 →
      (f.seq = x.expected → x.expected < 4096 →
        let key := 6 * natOfBool f.cls + f.vc
        let bs := AMap.get x.rx key [] ++ f.payload
        let got := takePackets (bs.length / 32 + 1) bs []
        ∃ t, exec (.flitReceive p f true true) s = .next t ∧ (t.port p).expected = (x.expected + 1) % 4096 ∧ (t.port p).control = x.control ∧ AMap.get (t.port p).rx key [] = got.2 ∧
          t.fab.net = s.fab.net ++ (if x.broken.contains key then got.1.drop 1 else got.1).map (fun q => { pkt := q, hop := f.vc + 1, buf := some (p, key) })) ∧
      (∀ d, 1 ≤ d → d ≤ 1024 → x.expected < 4096 → f.seq < 4096 → (f.seq + d) % 4096 = x.expected →
        ∃ t, exec (.flitReceive p f true true) s = .next t ∧ (t.port p).expected = x.expected ∧ (t.port p).control = x.control ∧ t.fab.net = s.fab.net) ∧
      (∀ d, d < 3071 → x.expected < 4096 → f.seq = (x.expected + 1 + d) % 4096 →
        ∃ t, exec (.flitReceive p f true true) s = .next t ∧ (t.port p).expected = x.expected ∧ t.fab.net = s.fab.net ∧
          (x.asked = none → (t.port p).control = some (2, x.expected)) ∧
          (∀ at_, x.asked = some (x.expected, at_) → s.ctl.time < at_ + 1000 → (t.port p).control = x.control)) ∧
      ∀ ok, (x.repeats f = true → exec (.flitReceive p f false ok) s = .next s) ∧
        (x.repeats f = false → ∃ t, exec (.flitReceive p f false ok) s = .next t ∧ t.fab.net = s.fab.net ∧ (t.port p).retained = x.retained ∧
          (x.asked = none → (t.port p).control = some (2, x.expected) ∧ (t.port p).asked = some (x.expected, s.ctl.time)) ∧
          (∀ at_, x.asked = some (x.expected, at_) → s.ctl.time < at_ + 1000 → t.port p = x))) ∧
    (∀ (f : Flit) (ok : Bool), x.retraining = false → f.ctrl = true → exec (.flitReceive p f false ok) s = .next s) ∧
    (∀ f : Flit, x.retraining = false → ∃ t, exec (.flitReceive p f true false) s = .next t ∧ t.fab.net = s.fab.net ∧
      (t.port p).tagFail = if x.session then min (x.tagFail + 1) (2 ^ 16 - 1) else x.tagFail) ∧
    (x.retraining = false → ∃ t, exec (.idleMsg p) s = .next t ∧ t.port p = x.say 1 0) ∧
    (x.retraining = true → ∀ bytes, exec (.idleMsg p) s = .next s ∧ exec (.spdmMsg p bytes) s = .next s) ∧
    (∀ seq n, x.retraining = false → (x.retained.dropWhile (fun f => f.seq != seq)).length = n →
      (x.running = true → ∃ t, exec (.replayMsg p seq) s = .next t ∧ t.port p = { x with replays := (x.replays + n) % 2 ^ 32, sent := x.sent + n }) ∧
      (x.running = false → exec (.replayMsg p seq) s = .next s)) ∧
    (∀ top, top ≤ 5 → top ≠ x.peerVc → ∃ t, exec (.vcadvMsg p top) s = .next t ∧ (t.port p).peerVc = top ∧ (x.peerVc ≠ 7 → bitAt t.fab.fevt p = true)) ∧
    (∀ bytes, x.retraining = false → ∃ t, exec (.spdmMsg p bytes) s = .next t ∧ t.port p = x.say 4 bytes.length) ∧
    (∀ seq, x.retraining = false → x.waiting = [] → x.retained = [] → ∃ t, exec (.resumeMsg p seq) s = .next t ∧ (t.port p).resuming = false ∧ (t.port p).retained = [] ∧ (t.port p).sent = x.sent) ∧
    (∀ n, x.waiting = [] → ∃ t, exec (.stateMsg p n) s = .next t ∧ t.port p = { x with peerRun := decide (n = 2) }) ∧
    ∃ t, exec (.peerSilenceTimeout p) s = .next t ∧ t.port p = { x with peerRun := false })
end

