-- ==== Sys2Proof/Laws/Fields.lean ====
section
/-! SUPPORT. Laws of the encoding: fields packed into words and taken out again, and operands by their field values. -/

namespace Sys2Proof.Machine

/-- Appending is adding above. -/
theorem append_toNat {n m : Nat} (x : BitVec n) (y : BitVec m) : (x ++ y).toNat = x.toNat * 2 ^ m + y.toNat := by
  rw [BitVec.toNat_append, ← Nat.shiftLeft_add_eq_or_of_lt y.isLt, Nat.shiftLeft_eq]

/-- The base word as a number (R58). -/
theorem base_toNat (f : Fields) : f.base.toNat =
    f.op.toNat * 2 ^ 56 + f.la.toNat * 2 ^ 52 + f.fs.toNat * 2 ^ 48 + f.mi.toNat * 2 ^ 47 + f.mkr.toNat * 2 ^ 44 + f.d.toNat * 2 ^ 36 +
      f.a.toNat * 2 ^ 28 + f.b.toNat * 2 ^ 20 + f.c.toNat * 2 ^ 12 + f.mod.toNat * 2 + f.x.toNat := by
  have h : f.base = (f.op ++ f.la ++ f.fs ++ f.mi ++ f.mkr ++ f.d ++ f.a ++ f.b ++ f.c ++ f.mod ++ f.x) := rfl
  rw [h]
  simp only [append_toNat]
  omega

/-- A field of a base word, by its number. -/
theorem field_eq {n lo : Nat} (w : Word) (y : BitVec n) (h : w.toNat / 2 ^ lo % 2 ^ n = y.toNat) : w.extractLsb' lo n = y := by
  apply BitVec.eq_of_toNat_eq
  rw [BitVec.extractLsb'_toNat, Nat.shiftRight_eq_div_pow, h]

/-- The fields of a base word are those it was made of (R58). -/
theorem ofWords_base (f : Fields) (ext : Word) :
    Fields.ofWords f.base ext = { f with ext := if f.x = 0 then 0 else ext } := by
  have hb := base_toNat f
  have h1 := f.op.isLt
  have h2 := f.la.isLt
  have h3 := f.fs.isLt
  have h4 := f.mi.isLt
  have h5 := f.mkr.isLt
  have h6 := f.d.isLt
  have h7 := f.a.isLt
  have h8 := f.b.isLt
  have h9 := f.c.isLt
  have h10 := f.mod.isLt
  have h11 := f.x.isLt
  have hx : f.base.extractLsb' 0 1 = f.x := field_eq _ _ (by omega)
  simp only [Fields.ofWords, hx, Fields.mk.injEq]
  refine ⟨field_eq _ _ ?_, field_eq _ _ ?_, field_eq _ _ ?_, field_eq _ _ ?_, field_eq _ _ ?_, field_eq _ _ ?_, field_eq _ _ ?_,
    field_eq _ _ ?_, field_eq _ _ ?_, field_eq _ _ ?_, trivial, trivial⟩ <;> omega

/-- A register field holds its operand (R8). -/
theorem regOf_opndBits (o : Opnd) (h : ∀ n, o ≠ .lit n) : regOf (opndBits o) = some o := by
  cases o with
  | v n => simp [regOf, opndBits, Nat.mod_eq_of_lt (Nat.lt_trans n.isLt (by decide : 192 < 256)), n.isLt]
  | g n =>
    have := n.isLt
    have e : (192 + n.val) % 256 = 192 + n.val := by omega
    simp [regOf, opndBits, e]
  | k n =>
    have := n.isLt
    have e : (240 + n.val) % 256 = 240 + n.val := by omega
    have e2 : ¬ (240 + n.val - 192 < 48) := by omega
    simp [regOf, opndBits, e, e2]; omega
  | vz => simp [regOf, opndBits]
  | lit n => exact absurd rfl (h n)

/-- An operand that is canonical for its position is read back from its field (R8, R61, R62). -/
theorem opndOf_opndBits (cl : Classes) (o : Opnd) (h : wfOpnd cl o = true) : opndOf cl (opndBits o) = o := by
  by_cases hl : ∃ n, o = .lit n
  · obtain ⟨n, rfl⟩ := hl
    have h' : isRegPos cl = false := by simpa only [wfOpnd, Bool.not_eq_true'] using h
    simp only [opndOf, h', opndBits, Bool.false_eq_true, if_false]
  · have h' : isRegPos cl = true := by
      cases o with
      | lit n => exact absurd ⟨n, rfl⟩ hl
      | _ => exact h
    simp only [opndOf, h', if_true, regOf_opndBits o (fun n e => hl ⟨n, e⟩), Option.getD_some]

/-- MI and MK hold their mask (R10, R58). -/
theorem mask_roundtrip (m : Mask) (op : BitVec 8) (la fs : BitVec 4) (d a b c : BitVec 8) (mod : BitVec 11) (x : BitVec 1) (e : Word) :
    Fields.mask ⟨op, la, fs, bit1 m.neg, BitVec.ofNat 3 m.k.val, d, a, b, c, mod, x, e⟩ = m := by
  obtain ⟨neg, k⟩ := m
  simp only [Fields.mask, Mask.mk.injEq]
  refine ⟨by cases neg <;> simp [bit1], ?_⟩
  apply Fin.ext
  simp

/-- A space is read back from its code (R66). -/
theorem spaceOf_code (s : Space) : spaceOf (spaceCode s) = s := by cases s <;> rfl

/-- An order is read back from its code (R66). -/
theorem orderOf_code (o : Order) : orderOf (orderCode o) = o := by cases o <;> rfl

end Sys2Proof.Machine
end

