-- ==== Sys2Proof/Laws/Encoding.lean ====
section
/-! SUPPORT. Laws of decoding: a form packed into its words is read back, one lemma for each of the five forms. -/

namespace Sys2Proof.Machine

/-- The form of an opcode's row. -/
def formAt (op : Nat) : Option Form := (rows.find? (fun r => r.op == op)).map (fun r => r.form)

/-- The adjustments of a row keep its opcode and form. -/
theorem adjust_op (r : Row) (f : Fields) : (r.adjust f).op = r.op := by unfold Row.adjust; repeat (first | rfl | split)

/-- The adjustments of a row keep its form. -/
theorem adjust_form (r : Row) (f : Fields) : (r.adjust f).form = r.form := by
  unfold Row.adjust; repeat (first | rfl | split)

/-- The row found for fields has their opcode and its form. -/
theorem rowFor_spec {f : Fields} {r : Row} {op : Nat} {fm : Form} (hop : f.op = BitVec.ofNat 8 op) (ho : op < 256)
    (hfm : formAt op = some fm) (hr : rowFor f = some r) : r.op = op ∧ r.form = fm := by
  have e : f.op.toNat = op := by rw [hop]; simp; omega
  unfold rowFor at hr
  rw [e] at hr
  unfold formAt at hfm
  cases h : rows.find? (fun r => r.op == op) with
  | none => rw [h] at hr; simp at hr
  | some r0 =>
    rw [h] at hr hfm
    simp only [Option.map_some, Option.some.injEq] at hr hfm
    subst hr
    have := List.find?_some h
    exact ⟨by rw [adjust_op]; simpa using this, by rw [adjust_form, hfm]⟩

/-- What decoding gives for the words of fields that pass the checks. -/
theorem decodeWords_fields {cx : DecodeCtx} {f : Fields} {r : Row} {v : View} {i : Instr} (ext : Word) (hx : f.x = 0 → f.ext = 0)
    (hi : illopCause cx f = none) (hr : rowFor f = some r) (ht : typedOf r f = v) (hb : v.build = some i) :
    decodeWords cx f.base (if f.x = 1 then f.ext else ext) = .ok i := by
  have e : Fields.ofWords f.base (if f.x = 1 then f.ext else ext) = f := by
    rw [ofWords_base]
    have : f.x = 0 ∨ f.x = 1 := by
      have h := f.x.isLt
      rcases Nat.lt_or_ge f.x.toNat 1 with h' | h'
      · exact .inl (BitVec.eq_of_toNat_eq (by simp; omega))
      · exact .inr (BitVec.eq_of_toNat_eq (by simp; omega))
    rcases this with h | h
    · have := hx h
      obtain ⟨_, _, _, _, _, _, _, _, _, _, _, _⟩ := f
      simp_all
    · obtain ⟨_, _, _, _, _, _, _, _, _, _, _, _⟩ := f
      simp only at h
      simp [h]
  simp only [decodeWords, e, hi, hr, ht, hb]

/-- What well-formedness says of an instruction with fields. -/
theorem wf_fields {cx : DecodeCtx} {i : Instr} {f : Fields} (h : i.wf cx = true) (hf : instrFields i = some f) :
    ∃ r, rowFor f = some r ∧ wfOperands r (viewOf i) = true ∧ illopCause cx f = none ∧ wfSave i = true := by
  simp only [Instr.wf, hf, Bool.and_eq_true, wfFields] at h
  obtain ⟨h1, h2⟩ := h
  cases hr : rowFor f with
  | none => rw [hr] at h1; simp at h1
  | some r =>
    rw [hr] at h1
    simp only [Bool.and_eq_true, Option.isNone_iff_eq_none] at h1
    exact ⟨r, rfl, h1.1, h1.2, h2⟩

end Sys2Proof.Machine

namespace Sys2Proof.Laws.Encodes

open Sys2Proof.Machine

/-- An instruction of the register form is read back from its words. -/
theorem reg_encodes (op : Nat) (F : RegForm) (i : Instr) (ho : op < 256) (hfm : formAt op = some .reg) (hv : viewOf i = .reg op F)
    (hb : wfSave i = true → (View.reg op F).build = some i) (cx : DecodeCtx) (ext : Word) (f : Fields) (hw : i.wf cx = true)
    (hf : instrFields i = some f) : decodeWords cx f.base (if f.x = 1 then f.ext else ext) = .ok i := by
  obtain ⟨r, hr, hops, hill, hsave⟩ := wf_fields hw hf
  rw [hv] at hops
  simp only [instrFields, hv, View.fields, Option.some.injEq] at hf
  subst hf
  obtain ⟨h1, h2⟩ := rowFor_spec rfl ho hfm hr
  refine decodeWords_fields ext (fun _ => rfl) hill hr ?_ (hb hsave)
  simp only [wfOperands, Bool.and_eq_true] at hops
  simp only [typedOf, h2, h1, mask_roundtrip, opndOf_opndBits _ _ hops.1.1.1, opndOf_opndBits _ _ hops.1.1.2, opndOf_opndBits _ _ hops.1.2,
    opndOf_opndBits _ _ hops.2]

/-- An event has no fields. -/
theorem event_encodes {i : Instr} (hv : viewOf i = .event) (cx : DecodeCtx) (ext : Word) (f : Fields) (_ : i.wf cx = true)
    (hf : instrFields i = some f) : decodeWords cx f.base (if f.x = 1 then f.ext else ext) = .ok i := by
  simp [instrFields, hv, View.fields] at hf

/-- The 27-bit immediate of its three fields. -/
theorem imm27_of (v : BitVec 27) : (v.extractLsb' 19 8 ++ v.extractLsb' 11 8 ++ v.extractLsb' 0 11 : BitVec 27) = v := by
  apply BitVec.eq_of_toNat_eq
  have h : (v.extractLsb' 19 8 ++ v.extractLsb' 11 8 ++ v.extractLsb' 0 11 : BitVec 27).toNat =
      (v.toNat / 2 ^ 19 % 2 ^ 8) * 2 ^ 19 + (v.toNat / 2 ^ 11 % 2 ^ 8) * 2 ^ 11 + v.toNat / 2 ^ 0 % 2 ^ 11 := by
    show ((v.extractLsb' 19 8 ++ v.extractLsb' 11 8) ++ v.extractLsb' 0 11).toNat = _
    simp only [append_toNat, BitVec.extractLsb'_toNat, Nat.shiftRight_eq_div_pow]
    omega
  rw [h]
  have := v.isLt
  omega

/-- An instruction of the immediate form is read back from its words (R64). -/
theorem imm_encodes (op : Nat) (F : ImmForm) (i : Instr) (ho : op < 256) (hfm : formAt op = some .imm) (hv : viewOf i = .imm op F)
    (hb : wfSave i = true → (View.imm op F).build = some i) (cx : DecodeCtx) (ext : Word) (f : Fields) (hw : i.wf cx = true)
    (hf : instrFields i = some f) : decodeWords cx f.base (if f.x = 1 then f.ext else ext) = .ok i := by
  obtain ⟨r, hr, hops, hill, hsave⟩ := wf_fields hw hf
  rw [hv] at hops
  simp only [instrFields, hv, View.fields, Option.some.injEq] at hf
  subst hf
  obtain ⟨h1, h2⟩ := rowFor_spec rfl ho hfm hr
  refine decodeWords_fields ext (fun h => ?_) hill hr ?_ (hb hsave)
  · cases hl : F.long <;> simp_all [bit1]
  · simp only [wfOperands, Bool.and_eq_true] at hops
    obtain ⟨⟨hd, ha⟩, hi⟩ := hops
    simp only [typedOf, h2, h1, mask_roundtrip, opndOf_opndBits _ _ hd, opndOf_opndBits _ _ ha, Fields.imm27, imm27_of]
    obtain ⟨fs, m, d, a, imm, long⟩ := F
    cases long
    · simp [bit1, wfShortImm] at hi ⊢; exact hi
    · simp [bit1]

/-- An instruction of the branch form is read back from its words (R65). -/
theorem branch_encodes (op : Nat) (F : BranchForm) (i : Instr) (ho : op < 256) (hfm : formAt op = some .branch) (hv : viewOf i = .branch op F)
    (hb : wfSave i = true → (View.branch op F).build = some i) (cx : DecodeCtx) (ext : Word) (f : Fields) (hw : i.wf cx = true)
    (hf : instrFields i = some f) : decodeWords cx f.base (if f.x = 1 then f.ext else ext) = .ok i := by
  obtain ⟨r, hr, hops, hill, hsave⟩ := wf_fields hw hf
  rw [hv] at hops
  simp only [instrFields, hv, View.fields, Option.some.injEq] at hf
  subst hf
  obtain ⟨h1, h2⟩ := rowFor_spec rfl ho hfm hr
  obtain ⟨fs, m, d, a, off, recv⟩ := F
  refine decodeWords_fields ext (fun h => ?_) hill hr ?_ (hb hsave)
  · cases recv <;> simp_all [bit1]
  · simp only [wfOperands, Bool.and_eq_true] at hops
    obtain ⟨hd, ha⟩ := hops
    simp only [typedOf, h2, h1, mask_roundtrip, opndOf_opndBits _ _ hd, opndOf_opndBits _ _ ha, Fields.imm27, imm27_of]
    cases recv with
    | none => simp [bit1]
    | some x =>
      have e : (x.setWidth 64).extractLsb' 0 32 = x := by
        apply BitVec.eq_of_toNat_eq
        have := x.isLt
        simp only [BitVec.extractLsb'_toNat, BitVec.toNat_setWidth, Nat.shiftRight_zero]
        omega
      simp only [bit1, Option.isSome_some, if_true, Option.getD_some, e]

/-- The MOD bits of the memory form (R66). -/
theorem memMod_toNat (sp : BitVec 2) (sz : BitVec 3) (ca : BitVec 2) (or : BitVec 3) (sx : BitVec 1) :
    (sp ++ sz ++ ca ++ or ++ sx : BitVec 11).toNat = sp.toNat * 512 + sz.toNat * 64 + ca.toNat * 16 + or.toNat * 2 + sx.toNat := by
  show ((((sp ++ sz) ++ ca) ++ or) ++ sx).toNat = _
  simp only [append_toNat]
  omega

/-- A field of MOD, by its number. -/
theorem modField_eq {n lo : Nat} (w : BitVec 11) (y : BitVec n) (h : w.toNat / 2 ^ lo % 2 ^ n = y.toNat) : w.extractLsb' lo n = y := by
  apply BitVec.eq_of_toNat_eq
  rw [BitVec.extractLsb'_toNat, Nat.shiftRight_eq_div_pow, h]

/-- A bit of MOD, by its number. -/
theorem modBit_eq (w : BitVec 11) (i : Nat) (b : Bool) (h : w.toNat / 2 ^ i % 2 = (bit1 b).toNat) : w.getLsbD i = b := by
  rw [BitVec.getLsbD, Nat.testBit_eq_decide_div_mod_eq, h]
  cases b <;> rfl

/-- An instruction of the memory form is read back from its words (R66). -/
theorem mem_encodes (op : Nat) (F : MemForm) (i : Instr) (ho : op < 256) (hfm : formAt op = some .mem) (hv : viewOf i = .mem op F)
    (hb : wfSave i = true → (View.mem op F).build = some i) (cx : DecodeCtx) (ext : Word) (f : Fields) (hw : i.wf cx = true)
    (hf : instrFields i = some f) : decodeWords cx f.base (if f.x = 1 then f.ext else ext) = .ok i := by
  obtain ⟨r, hr, hops, hill, hsave⟩ := wf_fields hw hf
  rw [hv] at hops
  simp only [instrFields, hv, View.fields, Option.some.injEq] at hf
  subst hf
  obtain ⟨h1, h2⟩ := rowFor_spec rfl ho hfm hr
  obtain ⟨la, fs, m, d, a, b, c, sp, sz, ca, od, sx, disp⟩ := F
  refine decodeWords_fields ext (fun h => ?_) hill hr ?_ (hb hsave)
  · cases disp <;> simp_all [bit1]
  · simp only [wfOperands, Bool.and_eq_true] at hops
    obtain ⟨⟨⟨hd, ha⟩, hb'⟩, hc⟩ := hops
    have hm := memMod_toNat (BitVec.ofNat 2 (spaceCode sp)) (BitVec.ofNat 3 sz.val) ca (BitVec.ofNat 3 (orderCode od)) (bit1 sx)
    have hs : (BitVec.ofNat 2 (spaceCode sp)).toNat = spaceCode sp := by cases sp <;> rfl
    have hz : (BitVec.ofNat 3 sz.val).toNat = sz.val := by have := sz.isLt; simp
    have ho' : (BitVec.ofNat 3 (orderCode od)).toNat = orderCode od := by cases od <;> rfl
    have b1 : spaceCode sp < 4 := by cases sp <;> decide
    have b2 := sz.isLt
    have b3 := ca.isLt
    have b4 : orderCode od < 4 := by cases od <;> decide
    have b5 := (bit1 sx).isLt
    have e1 : Fields.space ⟨BitVec.ofNat 8 op, la, fs, bit1 m.neg, BitVec.ofNat 3 m.k.val, opndBits d, opndBits a, opndBits b, opndBits c,
        (BitVec.ofNat 2 (spaceCode sp) ++ BitVec.ofNat 3 sz.val ++ ca ++ BitVec.ofNat 3 (orderCode od) ++ bit1 sx : BitVec 11),
        bit1 disp.isSome, disp.getD 0⟩ = spaceCode sp := by
      unfold Fields.space
      rw [BitVec.extractLsb'_toNat, Nat.shiftRight_eq_div_pow, hm]; omega
    have e2 : Fields.order ⟨BitVec.ofNat 8 op, la, fs, bit1 m.neg, BitVec.ofNat 3 m.k.val, opndBits d, opndBits a, opndBits b, opndBits c,
        (BitVec.ofNat 2 (spaceCode sp) ++ BitVec.ofNat 3 sz.val ++ ca ++ BitVec.ofNat 3 (orderCode od) ++ bit1 sx : BitVec 11),
        bit1 disp.isSome, disp.getD 0⟩ = orderCode od := by
      unfold Fields.order
      rw [BitVec.extractLsb'_toNat, Nat.shiftRight_eq_div_pow, hm]; omega
    have e3 : Fields.size ⟨BitVec.ofNat 8 op, la, fs, bit1 m.neg, BitVec.ofNat 3 m.k.val, opndBits d, opndBits a, opndBits b, opndBits c,
        (BitVec.ofNat 2 (spaceCode sp) ++ BitVec.ofNat 3 sz.val ++ ca ++ BitVec.ofNat 3 (orderCode od) ++ bit1 sx : BitVec 11),
        bit1 disp.isSome, disp.getD 0⟩ = sz.val := by
      unfold Fields.size
      rw [BitVec.extractLsb'_toNat, Nat.shiftRight_eq_div_pow, hm]; omega
    have e4 : (BitVec.ofNat 2 (spaceCode sp) ++ BitVec.ofNat 3 sz.val ++ ca ++ BitVec.ofNat 3 (orderCode od) ++ bit1 sx : BitVec 11).extractLsb' 4 2 = ca :=
      modField_eq _ _ (by rw [hm]; omega)
    have e5 : (BitVec.ofNat 2 (spaceCode sp) ++ BitVec.ofNat 3 sz.val ++ ca ++ BitVec.ofNat 3 (orderCode od) ++ bit1 sx : BitVec 11).getLsbD 0 = sx :=
      modBit_eq _ _ _ (by rw [hm]; omega)
    simp only [typedOf, h2, h1, mask_roundtrip, opndOf_opndBits _ _ hd, opndOf_opndBits _ _ ha, opndOf_opndBits _ _ hb', opndOf_opndBits _ _ hc,
      e1, e2, e3, e4, e5, spaceOf_code, orderOf_code]
    cases disp <;> simp [bit1]

/-- The MOD bits of the format form (R69). -/
theorem fmtMod_toNat (xa xb : BitVec 1) (bk iw : BitVec 3) (np : BitVec 2) (ng : BitVec 1) :
    (xa ++ xb ++ bk ++ iw ++ np ++ ng : BitVec 11).toNat =
      xa.toNat * 1024 + xb.toNat * 512 + bk.toNat * 64 + iw.toNat * 8 + np.toNat * 2 + ng.toNat := by
  show (((((xa ++ xb) ++ bk) ++ iw) ++ np) ++ ng).toNat = _
  simp only [append_toNat]
  omega

/-- An instruction of the format form is read back from its words (R69). -/
theorem fmt_encodes (op : Nat) (F : FmtForm) (i : Instr) (ho : op < 256) (hfm : formAt op = some .fmt) (hv : viewOf i = .fmt op F)
    (hb : wfSave i = true → (View.fmt op F).build = some i) (cx : DecodeCtx) (ext : Word) (f : Fields) (hw : i.wf cx = true)
    (hf : instrFields i = some f) : decodeWords cx f.base (if f.x = 1 then f.ext else ext) = .ok i := by
  obtain ⟨r, hr, hops, hill, hsave⟩ := wf_fields hw hf
  rw [hv] at hops
  simp only [instrFields, hv, View.fields, Option.some.injEq] at hf
  subst hf
  obtain ⟨h1, h2⟩ := rowFor_spec rfl ho hfm hr
  obtain ⟨la, sl, m, d, a, b, c, xa, xb, bk, iw, np, ng⟩ := F
  refine decodeWords_fields ext (fun _ => rfl) hill hr ?_ (hb hsave)
  simp only [wfOperands, Bool.and_eq_true] at hops
  obtain ⟨⟨⟨hd, ha⟩, hb'⟩, hc⟩ := hops
  have hm := fmtMod_toNat (bit1 xa) (bit1 xb) bk iw np (bit1 ng)
  have b1 := (bit1 xa).isLt
  have b2 := (bit1 xb).isLt
  have b3 := bk.isLt
  have b4 := iw.isLt
  have b5 := np.isLt
  have b6 := (bit1 ng).isLt
  have e1 : (bit1 xa ++ bit1 xb ++ bk ++ iw ++ np ++ bit1 ng : BitVec 11).getLsbD 10 = xa := modBit_eq _ _ _ (by rw [hm]; omega)
  have e2 : (bit1 xa ++ bit1 xb ++ bk ++ iw ++ np ++ bit1 ng : BitVec 11).getLsbD 9 = xb := modBit_eq _ _ _ (by rw [hm]; omega)
  have e3 : (bit1 xa ++ bit1 xb ++ bk ++ iw ++ np ++ bit1 ng : BitVec 11).extractLsb' 6 3 = bk := modField_eq _ _ (by rw [hm]; omega)
  have e4 : (bit1 xa ++ bit1 xb ++ bk ++ iw ++ np ++ bit1 ng : BitVec 11).extractLsb' 3 3 = iw := modField_eq _ _ (by rw [hm]; omega)
  have e5 : (bit1 xa ++ bit1 xb ++ bk ++ iw ++ np ++ bit1 ng : BitVec 11).extractLsb' 1 2 = np := modField_eq _ _ (by rw [hm]; omega)
  have e6 : (bit1 xa ++ bit1 xb ++ bk ++ iw ++ np ++ bit1 ng : BitVec 11).getLsbD 0 = ng := modBit_eq _ _ _ (by rw [hm]; omega)
  simp only [typedOf, h2, h1, mask_roundtrip, opndOf_opndBits _ _ hd, opndOf_opndBits _ _ ha, opndOf_opndBits _ _ hb', opndOf_opndBits _ _ hc,
    e1, e2, e3, e4, e5, e6]

end Sys2Proof.Laws.Encodes
end

