-- ==== Sys2Proof/Laws/Map.lean ====
section
/-! SUPPORT. Laws of sparse maps and memories: what a write leaves at each key, and that every operation keeps the canonical form. -/

namespace Sys2Proof.Machine

variable {α : Type}

/-- A key that a map does not list is not found. -/
theorem AMap.find_erase_same (m : AMap α) (k : Nat) : AMap.find (AMap.erase m k) k = none := by
  induction m with
  | nil => rfl
  | cons p rest ih =>
    by_cases h : p.1 = k
    · simpa [AMap.erase, List.filter, h] using ih
    · have : (p.1 != k) = true := by simpa using h
      simp only [AMap.erase, List.filter, this, AMap.find, h, if_false]
      exact ih

/-- Erasing one key leaves the others. -/
theorem AMap.find_erase_other (m : AMap α) {k j : Nat} (h : j ≠ k) : AMap.find (AMap.erase m k) j = AMap.find m j := by
  induction m with
  | nil => rfl
  | cons p rest ih =>
    by_cases hp : p.1 = k
    · have hj : ¬ p.1 = j := fun e => h (by rw [← e, hp])
      simp only [AMap.erase, List.filter, hp, bne_self_eq_false, AMap.find]
      rw [if_neg (by rw [hp] at hj; exact hj)]
      exact ih
    · have : (p.1 != k) = true := by simpa using hp
      simp only [AMap.erase, List.filter, this, AMap.find]
      split
      · rfl
      · exact ih

/-- Inserting a key that the map does not list. -/
theorem AMap.find_insert (m : AMap α) (k j : Nat) (v : α) (h : AMap.find m k = none) :
    AMap.find (AMap.insert m k v) j = if j = k then some v else AMap.find m j := by
  induction m with
  | nil =>
    by_cases e : j = k
    · simp [AMap.insert, AMap.find, e]
    · have e' : ¬ k = j := fun x => e x.symm
      simp [AMap.insert, AMap.find, e, e']
  | cons p rest ih =>
    have hp : p.1 ≠ k := by intro e; simp [AMap.find, e] at h
    have hr : AMap.find rest k = none := by simpa [AMap.find, hp] using h
    simp only [AMap.insert]
    split
    · simp only [AMap.find]
      by_cases e : j = k
      · simp [e]
      · have e' : ¬ k = j := fun x => e x.symm
        simp [e, e']
    · simp only [AMap.find, ih hr]
      by_cases e : j = k
      · have : ¬ p.1 = j := by rw [e]; exact hp
        simp [e, hp]
      · simp [e]

/-- What a map lists after a put. -/
theorem AMap.find_put (m : AMap α) (k j : Nat) (v : α) : AMap.find (AMap.put m k v) j = if j = k then some v else AMap.find m j := by
  unfold AMap.put
  rw [AMap.find_insert _ _ _ _ (AMap.find_erase_same m k)]
  by_cases e : j = k
  · simp [e]
  · simp [e, AMap.find_erase_other m e]

/-- `get` is `find` with a default. -/
theorem AMap.get_eq_find (m : AMap α) (k : Nat) (d : α) : AMap.get m k d = (AMap.find m k).getD d := by
  induction m with
  | nil => rfl
  | cons p rest ih => simp only [AMap.get, AMap.find]; split <;> simp [ih]

/-- What a map holds after a put. -/
theorem AMap.get_put (m : AMap α) (k j : Nat) (v d : α) : AMap.get (AMap.put m k v) j d = if j = k then v else AMap.get m j d := by
  rw [AMap.get_eq_find, AMap.find_put, AMap.get_eq_find]; split <;> rfl

/-- What a map holds after an erase. -/
theorem AMap.get_erase (m : AMap α) (k j : Nat) (d : α) : AMap.get (AMap.erase m k) j d = if j = k then d else AMap.get m j d := by
  rw [AMap.get_eq_find, AMap.get_eq_find]
  by_cases e : j = k
  · simp [e, AMap.find_erase_same]
  · simp [e, AMap.find_erase_other m e]

/-- A read after a write: the value written at its key, the old value elsewhere. -/
theorem AMap.get_set [DecidableEq α] (m : AMap α) (k j : Nat) (v d : α) :
    AMap.get (AMap.set m k v d) j d = if j = k then v else AMap.get m j d := by
  unfold AMap.set
  split
  · rename_i h; rw [AMap.get_erase]; simp [h]
  · exact AMap.get_put m k j v d

/-- The pairs of a map after an insert. -/
theorem AMap.mem_insert {m : AMap α} {k : Nat} {v : α} {q : Nat × α} (h : q ∈ AMap.insert m k v) : q = (k, v) ∨ q ∈ m := by
  induction m with
  | nil => simpa [AMap.insert] using h
  | cons p rest ih =>
    simp only [AMap.insert] at h
    split at h
    · simpa using h
    · rcases List.mem_cons.mp h with e | e
      · exact .inr (by simp [e])
      · rcases ih e with e' | e'
        · exact .inl e'
        · exact .inr (by simp [e'])

/-- Erasing keeps the keys rising. -/
theorem AMap.sorted_erase {m : AMap α} (h : AMap.sorted m = true) (k : Nat) : AMap.sorted (AMap.erase m k) = true := by
  induction m with
  | nil => rfl
  | cons p rest ih =>
    simp only [AMap.sorted, Bool.and_eq_true, List.all_eq_true] at h
    by_cases hp : p.1 = k
    · have e : AMap.erase (p :: rest) k = AMap.erase rest k := by simp [AMap.erase, hp]
      rw [e]; exact ih h.2
    · have e : AMap.erase (p :: rest) k = p :: AMap.erase rest k := by simp [AMap.erase, hp]
      rw [e]
      simp only [AMap.sorted, Bool.and_eq_true, List.all_eq_true]
      exact ⟨fun q hq => h.1 q ((List.mem_filter.mp hq).1), ih h.2⟩

/-- Inserting an unlisted key keeps the keys rising. -/
theorem AMap.sorted_insert {m : AMap α} (h : AMap.sorted m = true) {k : Nat} (hk : AMap.find m k = none) (v : α) :
    AMap.sorted (AMap.insert m k v) = true := by
  induction m with
  | nil => rfl
  | cons p rest ih =>
    have hs := h
    simp only [AMap.sorted, Bool.and_eq_true, List.all_eq_true] at h
    have hp : p.1 ≠ k := by intro e; simp [AMap.find, e] at hk
    have hr : AMap.find rest k = none := by simpa [AMap.find, hp] using hk
    simp only [AMap.insert]
    split
    · rename_i hlt
      simp only [AMap.sorted, Bool.and_eq_true, List.all_eq_true, List.mem_cons]
      refine ⟨fun q hq => ?_, fun q hq => h.1 q hq, h.2⟩
      rcases hq with e | e
      · rw [e]; simpa using hlt
      · have := h.1 q e
        simp only [decide_eq_true_eq] at this ⊢; omega
    · rename_i hlt
      simp only [AMap.sorted, Bool.and_eq_true, List.all_eq_true]
      refine ⟨fun q hq => ?_, ih h.2 hr⟩
      rcases AMap.mem_insert hq with e | e
      · rw [e]; simp only [decide_eq_true_eq]; omega
      · exact h.1 q e

/-- A put keeps the keys rising. -/
theorem AMap.sorted_put {m : AMap α} (h : AMap.sorted m = true) (k : Nat) (v : α) : AMap.sorted (AMap.put m k v) = true :=
  AMap.sorted_insert (AMap.sorted_erase h k) (AMap.find_erase_same m k) v

/-- Erasing keeps the canonical form. -/
theorem AMap.wf_erase [DecidableEq α] {m : AMap α} {d : α} (h : AMap.wf m d = true) (k : Nat) : AMap.wf (AMap.erase m k) d = true := by
  simp only [AMap.wf, Bool.and_eq_true, List.all_eq_true] at h ⊢
  exact ⟨AMap.sorted_erase h.1 k, fun q hq => h.2 q ((List.mem_filter.mp hq).1)⟩

/-- A write keeps the canonical form. -/
theorem AMap.wf_set [DecidableEq α] {m : AMap α} {d : α} (h : AMap.wf m d = true) (k : Nat) (v : α) : AMap.wf (AMap.set m k v d) d = true := by
  unfold AMap.set
  split
  · exact AMap.wf_erase h k
  · rename_i hv
    simp only [AMap.wf, Bool.and_eq_true, List.all_eq_true] at h ⊢
    refine ⟨AMap.sorted_put h.1 k v, fun q hq => ?_⟩
    rcases AMap.mem_insert hq with e | e
    · rw [e]; simpa using hv
    · exact h.2 q ((List.mem_filter.mp e).1)

/-- Every memory operation keeps the canonical form: writing a byte. -/
theorem Memory.wf_write {m : Memory} (h : m.wf = true) (a : Nat) (b : Byte) : (m.write a b).wf = true := AMap.wf_set h a b

/-- A byte reads as it was last written, and every other byte as before. -/
theorem Memory.read_write (m : Memory) (a j : Nat) (b : Byte) : (m.write a b).read j = if j = a then b else m.read j := AMap.get_set m a j b 0

end Sys2Proof.Machine
end

