-- ==== Sys2Proof/Laws/State.lean ====
section
/-! SUPPORT. Laws of the state's updates: every field that an update leaves alone, and what the replaced part reads as. -/

namespace Sys2Proof.Machine

@[simp] theorem State.setTeam_agenda (s : State) (t : Nat) (x : Team) : (s.setTeam t x).agenda = s.agenda := rfl
@[simp] theorem State.setTeam_issueQ (s : State) (t : Nat) (x : Team) : (s.setTeam t x).issueQ = s.issueQ := rfl
@[simp] theorem State.setTeam_latch (s : State) (t : Nat) (x : Team) : (s.setTeam t x).latch = s.latch := rfl
@[simp] theorem State.setTeam_mates (s : State) (t : Nat) (x : Team) : (s.setTeam t x).mates = s.mates := rfl
@[simp] theorem State.setTeam_turn (s : State) (t : Nat) (x : Team) : (s.setTeam t x).turn = s.turn := rfl
@[simp] theorem State.setTeam_slotAt (s : State) (t : Nat) (x : Team) : (s.setTeam t x).slotAt = s.slotAt := rfl
@[simp] theorem State.setTeam_tried (s : State) (t : Nat) (x : Team) : (s.setTeam t x).tried = s.tried := rfl
@[simp] theorem State.setTeam_tbNow (s : State) (t : Nat) (x : Team) : (s.setTeam t x).tbNow = s.tbNow := rfl
@[simp] theorem State.setTeam_free (s : State) (t : Nat) (x : Team) : (s.setTeam t x).free = s.free := rfl
@[simp] theorem State.setTeam_mem (s : State) (t : Nat) (x : Team) : (s.setTeam t x).mem = s.mem := rfl
@[simp] theorem State.setTeam_l2 (s : State) (t : Nat) (x : Team) : (s.setTeam t x).l2 = s.l2 := rfl
@[simp] theorem State.setTeam_bad (s : State) (t : Nat) (x : Team) : (s.setTeam t x).bad = s.bad := rfl
@[simp] theorem State.setTeam_tests (s : State) (t : Nat) (x : Team) : (s.setTeam t x).tests = s.tests := rfl
@[simp] theorem State.setTeam_misreads (s : State) (t : Nat) (x : Team) : (s.setTeam t x).misreads = s.misreads := rfl
@[simp] theorem State.setTeam_host (s : State) (t : Nat) (x : Team) : (s.setTeam t x).host = s.host := rfl
@[simp] theorem State.setTeam_atc (s : State) (t : Nat) (x : Team) : (s.setTeam t x).atc = s.atc := rfl
@[simp] theorem State.setTeam_atsWaits (s : State) (t : Nat) (x : Team) : (s.setTeam t x).atsWaits = s.atsWaits := rfl
@[simp] theorem State.setTeam_pri (s : State) (t : Nat) (x : Team) : (s.setTeam t x).pri = s.pri := rfl
@[simp] theorem State.setTeam_nextTeam (s : State) (t : Nat) (x : Team) : (s.setTeam t x).nextTeam = s.nextTeam := rfl
@[simp] theorem State.setTeam_cores (s : State) (t : Nat) (x : Team) : (s.setTeam t x).cores = s.cores := rfl
@[simp] theorem State.setTeam_clusters (s : State) (t : Nat) (x : Team) : (s.setTeam t x).clusters = s.clusters := rfl
@[simp] theorem State.setTeam_dies (s : State) (t : Nat) (x : Team) : (s.setTeam t x).dies = s.dies := rfl
@[simp] theorem State.setTeam_launches (s : State) (t : Nat) (x : Team) : (s.setTeam t x).launches = s.launches := rfl
@[simp] theorem State.setTeam_nextLaunch (s : State) (t : Nat) (x : Team) : (s.setTeam t x).nextLaunch = s.nextLaunch := rfl
@[simp] theorem State.setTeam_launchSeq (s : State) (t : Nat) (x : Team) : (s.setTeam t x).launchSeq = s.launchSeq := rfl
@[simp] theorem State.setTeam_queues (s : State) (t : Nat) (x : Team) : (s.setTeam t x).queues = s.queues := rfl
@[simp] theorem State.setTeam_chosen (s : State) (t : Nat) (x : Team) : (s.setTeam t x).chosen = s.chosen := rfl
@[simp] theorem State.setTeam_subs (s : State) (t : Nat) (x : Team) : (s.setTeam t x).subs = s.subs := rfl
@[simp] theorem State.setTeam_graphs (s : State) (t : Nat) (x : Team) : (s.setTeam t x).graphs = s.graphs := rfl
@[simp] theorem State.setTeam_nextGraph (s : State) (t : Nat) (x : Team) : (s.setTeam t x).nextGraph = s.nextGraph := rfl
@[simp] theorem State.setTeam_rings (s : State) (t : Nat) (x : Team) : (s.setTeam t x).rings = s.rings := rfl
@[simp] theorem State.setTeam_msix (s : State) (t : Nat) (x : Team) : (s.setTeam t x).msix = s.msix := rfl
@[simp] theorem State.setTeam_msixSent (s : State) (t : Nat) (x : Team) : (s.setTeam t x).msixSent = s.msixSent := rfl
@[simp] theorem State.setTeam_invals (s : State) (t : Nat) (x : Team) : (s.setTeam t x).invals = s.invals := rfl
@[simp] theorem State.setTeam_stores (s : State) (t : Nat) (x : Team) : (s.setTeam t x).stores = s.stores := rfl
@[simp] theorem State.setTeam_nextStore (s : State) (t : Nat) (x : Team) : (s.setTeam t x).nextStore = s.nextStore := rfl
@[simp] theorem State.setTeam_pph (s : State) (t : Nat) (x : Team) : (s.setTeam t x).pph = s.pph := rfl
@[simp] theorem State.setTeam_l2tags (s : State) (t : Nat) (x : Team) : (s.setTeam t x).l2tags = s.l2tags := rfl
@[simp] theorem State.setTeam_ctl (s : State) (t : Nat) (x : Team) : (s.setTeam t x).ctl = s.ctl := rfl
@[simp] theorem State.setTeam_fab (s : State) (t : Nat) (x : Team) : (s.setTeam t x).fab = s.fab := rfl

@[simp] theorem State.setGroup_agenda (s : State) (t g : Nat) (x : Group) : (s.setGroup t g x).agenda = s.agenda := rfl
@[simp] theorem State.setGroup_issueQ (s : State) (t g : Nat) (x : Group) : (s.setGroup t g x).issueQ = s.issueQ := rfl
@[simp] theorem State.setGroup_latch (s : State) (t g : Nat) (x : Group) : (s.setGroup t g x).latch = s.latch := rfl
@[simp] theorem State.setGroup_mates (s : State) (t g : Nat) (x : Group) : (s.setGroup t g x).mates = s.mates := rfl
@[simp] theorem State.setGroup_turn (s : State) (t g : Nat) (x : Group) : (s.setGroup t g x).turn = s.turn := rfl
@[simp] theorem State.setGroup_slotAt (s : State) (t g : Nat) (x : Group) : (s.setGroup t g x).slotAt = s.slotAt := rfl
@[simp] theorem State.setGroup_tried (s : State) (t g : Nat) (x : Group) : (s.setGroup t g x).tried = s.tried := rfl
@[simp] theorem State.setGroup_tbNow (s : State) (t g : Nat) (x : Group) : (s.setGroup t g x).tbNow = s.tbNow := rfl
@[simp] theorem State.setGroup_free (s : State) (t g : Nat) (x : Group) : (s.setGroup t g x).free = s.free := rfl
@[simp] theorem State.setGroup_mem (s : State) (t g : Nat) (x : Group) : (s.setGroup t g x).mem = s.mem := rfl
@[simp] theorem State.setGroup_l2 (s : State) (t g : Nat) (x : Group) : (s.setGroup t g x).l2 = s.l2 := rfl
@[simp] theorem State.setGroup_bad (s : State) (t g : Nat) (x : Group) : (s.setGroup t g x).bad = s.bad := rfl
@[simp] theorem State.setGroup_tests (s : State) (t g : Nat) (x : Group) : (s.setGroup t g x).tests = s.tests := rfl
@[simp] theorem State.setGroup_misreads (s : State) (t g : Nat) (x : Group) : (s.setGroup t g x).misreads = s.misreads := rfl
@[simp] theorem State.setGroup_host (s : State) (t g : Nat) (x : Group) : (s.setGroup t g x).host = s.host := rfl
@[simp] theorem State.setGroup_atc (s : State) (t g : Nat) (x : Group) : (s.setGroup t g x).atc = s.atc := rfl
@[simp] theorem State.setGroup_atsWaits (s : State) (t g : Nat) (x : Group) : (s.setGroup t g x).atsWaits = s.atsWaits := rfl
@[simp] theorem State.setGroup_pri (s : State) (t g : Nat) (x : Group) : (s.setGroup t g x).pri = s.pri := rfl
@[simp] theorem State.setGroup_nextTeam (s : State) (t g : Nat) (x : Group) : (s.setGroup t g x).nextTeam = s.nextTeam := rfl
@[simp] theorem State.setGroup_cores (s : State) (t g : Nat) (x : Group) : (s.setGroup t g x).cores = s.cores := rfl
@[simp] theorem State.setGroup_clusters (s : State) (t g : Nat) (x : Group) : (s.setGroup t g x).clusters = s.clusters := rfl
@[simp] theorem State.setGroup_dies (s : State) (t g : Nat) (x : Group) : (s.setGroup t g x).dies = s.dies := rfl
@[simp] theorem State.setGroup_launches (s : State) (t g : Nat) (x : Group) : (s.setGroup t g x).launches = s.launches := rfl
@[simp] theorem State.setGroup_nextLaunch (s : State) (t g : Nat) (x : Group) : (s.setGroup t g x).nextLaunch = s.nextLaunch := rfl
@[simp] theorem State.setGroup_launchSeq (s : State) (t g : Nat) (x : Group) : (s.setGroup t g x).launchSeq = s.launchSeq := rfl
@[simp] theorem State.setGroup_queues (s : State) (t g : Nat) (x : Group) : (s.setGroup t g x).queues = s.queues := rfl
@[simp] theorem State.setGroup_chosen (s : State) (t g : Nat) (x : Group) : (s.setGroup t g x).chosen = s.chosen := rfl
@[simp] theorem State.setGroup_subs (s : State) (t g : Nat) (x : Group) : (s.setGroup t g x).subs = s.subs := rfl
@[simp] theorem State.setGroup_graphs (s : State) (t g : Nat) (x : Group) : (s.setGroup t g x).graphs = s.graphs := rfl
@[simp] theorem State.setGroup_nextGraph (s : State) (t g : Nat) (x : Group) : (s.setGroup t g x).nextGraph = s.nextGraph := rfl
@[simp] theorem State.setGroup_rings (s : State) (t g : Nat) (x : Group) : (s.setGroup t g x).rings = s.rings := rfl
@[simp] theorem State.setGroup_msix (s : State) (t g : Nat) (x : Group) : (s.setGroup t g x).msix = s.msix := rfl
@[simp] theorem State.setGroup_msixSent (s : State) (t g : Nat) (x : Group) : (s.setGroup t g x).msixSent = s.msixSent := rfl
@[simp] theorem State.setGroup_invals (s : State) (t g : Nat) (x : Group) : (s.setGroup t g x).invals = s.invals := rfl
@[simp] theorem State.setGroup_stores (s : State) (t g : Nat) (x : Group) : (s.setGroup t g x).stores = s.stores := rfl
@[simp] theorem State.setGroup_nextStore (s : State) (t g : Nat) (x : Group) : (s.setGroup t g x).nextStore = s.nextStore := rfl
@[simp] theorem State.setGroup_pph (s : State) (t g : Nat) (x : Group) : (s.setGroup t g x).pph = s.pph := rfl
@[simp] theorem State.setGroup_l2tags (s : State) (t g : Nat) (x : Group) : (s.setGroup t g x).l2tags = s.l2tags := rfl
@[simp] theorem State.setGroup_ctl (s : State) (t g : Nat) (x : Group) : (s.setGroup t g x).ctl = s.ctl := rfl
@[simp] theorem State.setGroup_fab (s : State) (t g : Nat) (x : Group) : (s.setGroup t g x).fab = s.fab := rfl

@[simp] theorem State.setCore_agenda (s : State) (c : Nat) (x : Core) : (s.setCore c x).agenda = s.agenda := rfl
@[simp] theorem State.setCore_issueQ (s : State) (c : Nat) (x : Core) : (s.setCore c x).issueQ = s.issueQ := rfl
@[simp] theorem State.setCore_latch (s : State) (c : Nat) (x : Core) : (s.setCore c x).latch = s.latch := rfl
@[simp] theorem State.setCore_mates (s : State) (c : Nat) (x : Core) : (s.setCore c x).mates = s.mates := rfl
@[simp] theorem State.setCore_turn (s : State) (c : Nat) (x : Core) : (s.setCore c x).turn = s.turn := rfl
@[simp] theorem State.setCore_slotAt (s : State) (c : Nat) (x : Core) : (s.setCore c x).slotAt = s.slotAt := rfl
@[simp] theorem State.setCore_tried (s : State) (c : Nat) (x : Core) : (s.setCore c x).tried = s.tried := rfl
@[simp] theorem State.setCore_tbNow (s : State) (c : Nat) (x : Core) : (s.setCore c x).tbNow = s.tbNow := rfl
@[simp] theorem State.setCore_free (s : State) (c : Nat) (x : Core) : (s.setCore c x).free = s.free := rfl
@[simp] theorem State.setCore_mem (s : State) (c : Nat) (x : Core) : (s.setCore c x).mem = s.mem := rfl
@[simp] theorem State.setCore_l2 (s : State) (c : Nat) (x : Core) : (s.setCore c x).l2 = s.l2 := rfl
@[simp] theorem State.setCore_bad (s : State) (c : Nat) (x : Core) : (s.setCore c x).bad = s.bad := rfl
@[simp] theorem State.setCore_tests (s : State) (c : Nat) (x : Core) : (s.setCore c x).tests = s.tests := rfl
@[simp] theorem State.setCore_misreads (s : State) (c : Nat) (x : Core) : (s.setCore c x).misreads = s.misreads := rfl
@[simp] theorem State.setCore_host (s : State) (c : Nat) (x : Core) : (s.setCore c x).host = s.host := rfl
@[simp] theorem State.setCore_atc (s : State) (c : Nat) (x : Core) : (s.setCore c x).atc = s.atc := rfl
@[simp] theorem State.setCore_atsWaits (s : State) (c : Nat) (x : Core) : (s.setCore c x).atsWaits = s.atsWaits := rfl
@[simp] theorem State.setCore_pri (s : State) (c : Nat) (x : Core) : (s.setCore c x).pri = s.pri := rfl
@[simp] theorem State.setCore_teams (s : State) (c : Nat) (x : Core) : (s.setCore c x).teams = s.teams := rfl
@[simp] theorem State.setCore_nextTeam (s : State) (c : Nat) (x : Core) : (s.setCore c x).nextTeam = s.nextTeam := rfl
@[simp] theorem State.setCore_clusters (s : State) (c : Nat) (x : Core) : (s.setCore c x).clusters = s.clusters := rfl
@[simp] theorem State.setCore_dies (s : State) (c : Nat) (x : Core) : (s.setCore c x).dies = s.dies := rfl
@[simp] theorem State.setCore_launches (s : State) (c : Nat) (x : Core) : (s.setCore c x).launches = s.launches := rfl
@[simp] theorem State.setCore_nextLaunch (s : State) (c : Nat) (x : Core) : (s.setCore c x).nextLaunch = s.nextLaunch := rfl
@[simp] theorem State.setCore_launchSeq (s : State) (c : Nat) (x : Core) : (s.setCore c x).launchSeq = s.launchSeq := rfl
@[simp] theorem State.setCore_queues (s : State) (c : Nat) (x : Core) : (s.setCore c x).queues = s.queues := rfl
@[simp] theorem State.setCore_chosen (s : State) (c : Nat) (x : Core) : (s.setCore c x).chosen = s.chosen := rfl
@[simp] theorem State.setCore_subs (s : State) (c : Nat) (x : Core) : (s.setCore c x).subs = s.subs := rfl
@[simp] theorem State.setCore_graphs (s : State) (c : Nat) (x : Core) : (s.setCore c x).graphs = s.graphs := rfl
@[simp] theorem State.setCore_nextGraph (s : State) (c : Nat) (x : Core) : (s.setCore c x).nextGraph = s.nextGraph := rfl
@[simp] theorem State.setCore_rings (s : State) (c : Nat) (x : Core) : (s.setCore c x).rings = s.rings := rfl
@[simp] theorem State.setCore_msix (s : State) (c : Nat) (x : Core) : (s.setCore c x).msix = s.msix := rfl
@[simp] theorem State.setCore_msixSent (s : State) (c : Nat) (x : Core) : (s.setCore c x).msixSent = s.msixSent := rfl
@[simp] theorem State.setCore_invals (s : State) (c : Nat) (x : Core) : (s.setCore c x).invals = s.invals := rfl
@[simp] theorem State.setCore_stores (s : State) (c : Nat) (x : Core) : (s.setCore c x).stores = s.stores := rfl
@[simp] theorem State.setCore_nextStore (s : State) (c : Nat) (x : Core) : (s.setCore c x).nextStore = s.nextStore := rfl
@[simp] theorem State.setCore_pph (s : State) (c : Nat) (x : Core) : (s.setCore c x).pph = s.pph := rfl
@[simp] theorem State.setCore_l2tags (s : State) (c : Nat) (x : Core) : (s.setCore c x).l2tags = s.l2tags := rfl
@[simp] theorem State.setCore_ctl (s : State) (c : Nat) (x : Core) : (s.setCore c x).ctl = s.ctl := rfl
@[simp] theorem State.setCore_fab (s : State) (c : Nat) (x : Core) : (s.setCore c x).fab = s.fab := rfl

@[simp] theorem State.setCluster_agenda (s : State) (c : Nat) (x : Cluster) : (s.setCluster c x).agenda = s.agenda := rfl
@[simp] theorem State.setCluster_issueQ (s : State) (c : Nat) (x : Cluster) : (s.setCluster c x).issueQ = s.issueQ := rfl
@[simp] theorem State.setCluster_latch (s : State) (c : Nat) (x : Cluster) : (s.setCluster c x).latch = s.latch := rfl
@[simp] theorem State.setCluster_mates (s : State) (c : Nat) (x : Cluster) : (s.setCluster c x).mates = s.mates := rfl
@[simp] theorem State.setCluster_turn (s : State) (c : Nat) (x : Cluster) : (s.setCluster c x).turn = s.turn := rfl
@[simp] theorem State.setCluster_slotAt (s : State) (c : Nat) (x : Cluster) : (s.setCluster c x).slotAt = s.slotAt := rfl
@[simp] theorem State.setCluster_tried (s : State) (c : Nat) (x : Cluster) : (s.setCluster c x).tried = s.tried := rfl
@[simp] theorem State.setCluster_tbNow (s : State) (c : Nat) (x : Cluster) : (s.setCluster c x).tbNow = s.tbNow := rfl
@[simp] theorem State.setCluster_free (s : State) (c : Nat) (x : Cluster) : (s.setCluster c x).free = s.free := rfl
@[simp] theorem State.setCluster_mem (s : State) (c : Nat) (x : Cluster) : (s.setCluster c x).mem = s.mem := rfl
@[simp] theorem State.setCluster_l2 (s : State) (c : Nat) (x : Cluster) : (s.setCluster c x).l2 = s.l2 := rfl
@[simp] theorem State.setCluster_bad (s : State) (c : Nat) (x : Cluster) : (s.setCluster c x).bad = s.bad := rfl
@[simp] theorem State.setCluster_tests (s : State) (c : Nat) (x : Cluster) : (s.setCluster c x).tests = s.tests := rfl
@[simp] theorem State.setCluster_misreads (s : State) (c : Nat) (x : Cluster) : (s.setCluster c x).misreads = s.misreads := rfl
@[simp] theorem State.setCluster_host (s : State) (c : Nat) (x : Cluster) : (s.setCluster c x).host = s.host := rfl
@[simp] theorem State.setCluster_atc (s : State) (c : Nat) (x : Cluster) : (s.setCluster c x).atc = s.atc := rfl
@[simp] theorem State.setCluster_atsWaits (s : State) (c : Nat) (x : Cluster) : (s.setCluster c x).atsWaits = s.atsWaits := rfl
@[simp] theorem State.setCluster_pri (s : State) (c : Nat) (x : Cluster) : (s.setCluster c x).pri = s.pri := rfl
@[simp] theorem State.setCluster_teams (s : State) (c : Nat) (x : Cluster) : (s.setCluster c x).teams = s.teams := rfl
@[simp] theorem State.setCluster_nextTeam (s : State) (c : Nat) (x : Cluster) : (s.setCluster c x).nextTeam = s.nextTeam := rfl
@[simp] theorem State.setCluster_cores (s : State) (c : Nat) (x : Cluster) : (s.setCluster c x).cores = s.cores := rfl
@[simp] theorem State.setCluster_dies (s : State) (c : Nat) (x : Cluster) : (s.setCluster c x).dies = s.dies := rfl
@[simp] theorem State.setCluster_launches (s : State) (c : Nat) (x : Cluster) : (s.setCluster c x).launches = s.launches := rfl
@[simp] theorem State.setCluster_nextLaunch (s : State) (c : Nat) (x : Cluster) : (s.setCluster c x).nextLaunch = s.nextLaunch := rfl
@[simp] theorem State.setCluster_launchSeq (s : State) (c : Nat) (x : Cluster) : (s.setCluster c x).launchSeq = s.launchSeq := rfl
@[simp] theorem State.setCluster_queues (s : State) (c : Nat) (x : Cluster) : (s.setCluster c x).queues = s.queues := rfl
@[simp] theorem State.setCluster_chosen (s : State) (c : Nat) (x : Cluster) : (s.setCluster c x).chosen = s.chosen := rfl
@[simp] theorem State.setCluster_subs (s : State) (c : Nat) (x : Cluster) : (s.setCluster c x).subs = s.subs := rfl
@[simp] theorem State.setCluster_graphs (s : State) (c : Nat) (x : Cluster) : (s.setCluster c x).graphs = s.graphs := rfl
@[simp] theorem State.setCluster_nextGraph (s : State) (c : Nat) (x : Cluster) : (s.setCluster c x).nextGraph = s.nextGraph := rfl
@[simp] theorem State.setCluster_rings (s : State) (c : Nat) (x : Cluster) : (s.setCluster c x).rings = s.rings := rfl
@[simp] theorem State.setCluster_msix (s : State) (c : Nat) (x : Cluster) : (s.setCluster c x).msix = s.msix := rfl
@[simp] theorem State.setCluster_msixSent (s : State) (c : Nat) (x : Cluster) : (s.setCluster c x).msixSent = s.msixSent := rfl
@[simp] theorem State.setCluster_invals (s : State) (c : Nat) (x : Cluster) : (s.setCluster c x).invals = s.invals := rfl
@[simp] theorem State.setCluster_stores (s : State) (c : Nat) (x : Cluster) : (s.setCluster c x).stores = s.stores := rfl
@[simp] theorem State.setCluster_nextStore (s : State) (c : Nat) (x : Cluster) : (s.setCluster c x).nextStore = s.nextStore := rfl
@[simp] theorem State.setCluster_pph (s : State) (c : Nat) (x : Cluster) : (s.setCluster c x).pph = s.pph := rfl
@[simp] theorem State.setCluster_l2tags (s : State) (c : Nat) (x : Cluster) : (s.setCluster c x).l2tags = s.l2tags := rfl
@[simp] theorem State.setCluster_ctl (s : State) (c : Nat) (x : Cluster) : (s.setCluster c x).ctl = s.ctl := rfl
@[simp] theorem State.setCluster_fab (s : State) (c : Nat) (x : Cluster) : (s.setCluster c x).fab = s.fab := rfl

@[simp] theorem State.setDie_agenda (s : State) (d : Nat) (x : Die) : (s.setDie d x).agenda = s.agenda := rfl
@[simp] theorem State.setDie_issueQ (s : State) (d : Nat) (x : Die) : (s.setDie d x).issueQ = s.issueQ := rfl
@[simp] theorem State.setDie_latch (s : State) (d : Nat) (x : Die) : (s.setDie d x).latch = s.latch := rfl
@[simp] theorem State.setDie_mates (s : State) (d : Nat) (x : Die) : (s.setDie d x).mates = s.mates := rfl
@[simp] theorem State.setDie_turn (s : State) (d : Nat) (x : Die) : (s.setDie d x).turn = s.turn := rfl
@[simp] theorem State.setDie_slotAt (s : State) (d : Nat) (x : Die) : (s.setDie d x).slotAt = s.slotAt := rfl
@[simp] theorem State.setDie_tried (s : State) (d : Nat) (x : Die) : (s.setDie d x).tried = s.tried := rfl
@[simp] theorem State.setDie_tbNow (s : State) (d : Nat) (x : Die) : (s.setDie d x).tbNow = s.tbNow := rfl
@[simp] theorem State.setDie_free (s : State) (d : Nat) (x : Die) : (s.setDie d x).free = s.free := rfl
@[simp] theorem State.setDie_mem (s : State) (d : Nat) (x : Die) : (s.setDie d x).mem = s.mem := rfl
@[simp] theorem State.setDie_l2 (s : State) (d : Nat) (x : Die) : (s.setDie d x).l2 = s.l2 := rfl
@[simp] theorem State.setDie_bad (s : State) (d : Nat) (x : Die) : (s.setDie d x).bad = s.bad := rfl
@[simp] theorem State.setDie_tests (s : State) (d : Nat) (x : Die) : (s.setDie d x).tests = s.tests := rfl
@[simp] theorem State.setDie_misreads (s : State) (d : Nat) (x : Die) : (s.setDie d x).misreads = s.misreads := rfl
@[simp] theorem State.setDie_host (s : State) (d : Nat) (x : Die) : (s.setDie d x).host = s.host := rfl
@[simp] theorem State.setDie_atc (s : State) (d : Nat) (x : Die) : (s.setDie d x).atc = s.atc := rfl
@[simp] theorem State.setDie_atsWaits (s : State) (d : Nat) (x : Die) : (s.setDie d x).atsWaits = s.atsWaits := rfl
@[simp] theorem State.setDie_pri (s : State) (d : Nat) (x : Die) : (s.setDie d x).pri = s.pri := rfl
@[simp] theorem State.setDie_teams (s : State) (d : Nat) (x : Die) : (s.setDie d x).teams = s.teams := rfl
@[simp] theorem State.setDie_nextTeam (s : State) (d : Nat) (x : Die) : (s.setDie d x).nextTeam = s.nextTeam := rfl
@[simp] theorem State.setDie_cores (s : State) (d : Nat) (x : Die) : (s.setDie d x).cores = s.cores := rfl
@[simp] theorem State.setDie_clusters (s : State) (d : Nat) (x : Die) : (s.setDie d x).clusters = s.clusters := rfl
@[simp] theorem State.setDie_launches (s : State) (d : Nat) (x : Die) : (s.setDie d x).launches = s.launches := rfl
@[simp] theorem State.setDie_nextLaunch (s : State) (d : Nat) (x : Die) : (s.setDie d x).nextLaunch = s.nextLaunch := rfl
@[simp] theorem State.setDie_launchSeq (s : State) (d : Nat) (x : Die) : (s.setDie d x).launchSeq = s.launchSeq := rfl
@[simp] theorem State.setDie_queues (s : State) (d : Nat) (x : Die) : (s.setDie d x).queues = s.queues := rfl
@[simp] theorem State.setDie_chosen (s : State) (d : Nat) (x : Die) : (s.setDie d x).chosen = s.chosen := rfl
@[simp] theorem State.setDie_subs (s : State) (d : Nat) (x : Die) : (s.setDie d x).subs = s.subs := rfl
@[simp] theorem State.setDie_graphs (s : State) (d : Nat) (x : Die) : (s.setDie d x).graphs = s.graphs := rfl
@[simp] theorem State.setDie_nextGraph (s : State) (d : Nat) (x : Die) : (s.setDie d x).nextGraph = s.nextGraph := rfl
@[simp] theorem State.setDie_rings (s : State) (d : Nat) (x : Die) : (s.setDie d x).rings = s.rings := rfl
@[simp] theorem State.setDie_msix (s : State) (d : Nat) (x : Die) : (s.setDie d x).msix = s.msix := rfl
@[simp] theorem State.setDie_msixSent (s : State) (d : Nat) (x : Die) : (s.setDie d x).msixSent = s.msixSent := rfl
@[simp] theorem State.setDie_invals (s : State) (d : Nat) (x : Die) : (s.setDie d x).invals = s.invals := rfl
@[simp] theorem State.setDie_stores (s : State) (d : Nat) (x : Die) : (s.setDie d x).stores = s.stores := rfl
@[simp] theorem State.setDie_nextStore (s : State) (d : Nat) (x : Die) : (s.setDie d x).nextStore = s.nextStore := rfl
@[simp] theorem State.setDie_pph (s : State) (d : Nat) (x : Die) : (s.setDie d x).pph = s.pph := rfl
@[simp] theorem State.setDie_l2tags (s : State) (d : Nat) (x : Die) : (s.setDie d x).l2tags = s.l2tags := rfl
@[simp] theorem State.setDie_ctl (s : State) (d : Nat) (x : Die) : (s.setDie d x).ctl = s.ctl := rfl
@[simp] theorem State.setDie_fab (s : State) (d : Nat) (x : Die) : (s.setDie d x).fab = s.fab := rfl

@[simp] theorem State.setLaunch_agenda (s : State) (i : Nat) (x : Launch) : (s.setLaunch i x).agenda = s.agenda := rfl
@[simp] theorem State.setLaunch_issueQ (s : State) (i : Nat) (x : Launch) : (s.setLaunch i x).issueQ = s.issueQ := rfl
@[simp] theorem State.setLaunch_latch (s : State) (i : Nat) (x : Launch) : (s.setLaunch i x).latch = s.latch := rfl
@[simp] theorem State.setLaunch_mates (s : State) (i : Nat) (x : Launch) : (s.setLaunch i x).mates = s.mates := rfl
@[simp] theorem State.setLaunch_turn (s : State) (i : Nat) (x : Launch) : (s.setLaunch i x).turn = s.turn := rfl
@[simp] theorem State.setLaunch_slotAt (s : State) (i : Nat) (x : Launch) : (s.setLaunch i x).slotAt = s.slotAt := rfl
@[simp] theorem State.setLaunch_tried (s : State) (i : Nat) (x : Launch) : (s.setLaunch i x).tried = s.tried := rfl
@[simp] theorem State.setLaunch_tbNow (s : State) (i : Nat) (x : Launch) : (s.setLaunch i x).tbNow = s.tbNow := rfl
@[simp] theorem State.setLaunch_free (s : State) (i : Nat) (x : Launch) : (s.setLaunch i x).free = s.free := rfl
@[simp] theorem State.setLaunch_mem (s : State) (i : Nat) (x : Launch) : (s.setLaunch i x).mem = s.mem := rfl
@[simp] theorem State.setLaunch_l2 (s : State) (i : Nat) (x : Launch) : (s.setLaunch i x).l2 = s.l2 := rfl
@[simp] theorem State.setLaunch_bad (s : State) (i : Nat) (x : Launch) : (s.setLaunch i x).bad = s.bad := rfl
@[simp] theorem State.setLaunch_tests (s : State) (i : Nat) (x : Launch) : (s.setLaunch i x).tests = s.tests := rfl
@[simp] theorem State.setLaunch_misreads (s : State) (i : Nat) (x : Launch) : (s.setLaunch i x).misreads = s.misreads := rfl
@[simp] theorem State.setLaunch_host (s : State) (i : Nat) (x : Launch) : (s.setLaunch i x).host = s.host := rfl
@[simp] theorem State.setLaunch_atc (s : State) (i : Nat) (x : Launch) : (s.setLaunch i x).atc = s.atc := rfl
@[simp] theorem State.setLaunch_atsWaits (s : State) (i : Nat) (x : Launch) : (s.setLaunch i x).atsWaits = s.atsWaits := rfl
@[simp] theorem State.setLaunch_pri (s : State) (i : Nat) (x : Launch) : (s.setLaunch i x).pri = s.pri := rfl
@[simp] theorem State.setLaunch_teams (s : State) (i : Nat) (x : Launch) : (s.setLaunch i x).teams = s.teams := rfl
@[simp] theorem State.setLaunch_nextTeam (s : State) (i : Nat) (x : Launch) : (s.setLaunch i x).nextTeam = s.nextTeam := rfl
@[simp] theorem State.setLaunch_cores (s : State) (i : Nat) (x : Launch) : (s.setLaunch i x).cores = s.cores := rfl
@[simp] theorem State.setLaunch_clusters (s : State) (i : Nat) (x : Launch) : (s.setLaunch i x).clusters = s.clusters := rfl
@[simp] theorem State.setLaunch_dies (s : State) (i : Nat) (x : Launch) : (s.setLaunch i x).dies = s.dies := rfl
@[simp] theorem State.setLaunch_nextLaunch (s : State) (i : Nat) (x : Launch) : (s.setLaunch i x).nextLaunch = s.nextLaunch := rfl
@[simp] theorem State.setLaunch_launchSeq (s : State) (i : Nat) (x : Launch) : (s.setLaunch i x).launchSeq = s.launchSeq := rfl
@[simp] theorem State.setLaunch_queues (s : State) (i : Nat) (x : Launch) : (s.setLaunch i x).queues = s.queues := rfl
@[simp] theorem State.setLaunch_chosen (s : State) (i : Nat) (x : Launch) : (s.setLaunch i x).chosen = s.chosen := rfl
@[simp] theorem State.setLaunch_subs (s : State) (i : Nat) (x : Launch) : (s.setLaunch i x).subs = s.subs := rfl
@[simp] theorem State.setLaunch_graphs (s : State) (i : Nat) (x : Launch) : (s.setLaunch i x).graphs = s.graphs := rfl
@[simp] theorem State.setLaunch_nextGraph (s : State) (i : Nat) (x : Launch) : (s.setLaunch i x).nextGraph = s.nextGraph := rfl
@[simp] theorem State.setLaunch_rings (s : State) (i : Nat) (x : Launch) : (s.setLaunch i x).rings = s.rings := rfl
@[simp] theorem State.setLaunch_msix (s : State) (i : Nat) (x : Launch) : (s.setLaunch i x).msix = s.msix := rfl
@[simp] theorem State.setLaunch_msixSent (s : State) (i : Nat) (x : Launch) : (s.setLaunch i x).msixSent = s.msixSent := rfl
@[simp] theorem State.setLaunch_invals (s : State) (i : Nat) (x : Launch) : (s.setLaunch i x).invals = s.invals := rfl
@[simp] theorem State.setLaunch_stores (s : State) (i : Nat) (x : Launch) : (s.setLaunch i x).stores = s.stores := rfl
@[simp] theorem State.setLaunch_nextStore (s : State) (i : Nat) (x : Launch) : (s.setLaunch i x).nextStore = s.nextStore := rfl
@[simp] theorem State.setLaunch_pph (s : State) (i : Nat) (x : Launch) : (s.setLaunch i x).pph = s.pph := rfl
@[simp] theorem State.setLaunch_l2tags (s : State) (i : Nat) (x : Launch) : (s.setLaunch i x).l2tags = s.l2tags := rfl
@[simp] theorem State.setLaunch_ctl (s : State) (i : Nat) (x : Launch) : (s.setLaunch i x).ctl = s.ctl := rfl
@[simp] theorem State.setLaunch_fab (s : State) (i : Nat) (x : Launch) : (s.setLaunch i x).fab = s.fab := rfl

@[simp] theorem State.setQueue_agenda (s : State) (q : Nat) (x : Queue) : (s.setQueue q x).agenda = s.agenda := rfl
@[simp] theorem State.setQueue_issueQ (s : State) (q : Nat) (x : Queue) : (s.setQueue q x).issueQ = s.issueQ := rfl
@[simp] theorem State.setQueue_latch (s : State) (q : Nat) (x : Queue) : (s.setQueue q x).latch = s.latch := rfl
@[simp] theorem State.setQueue_mates (s : State) (q : Nat) (x : Queue) : (s.setQueue q x).mates = s.mates := rfl
@[simp] theorem State.setQueue_turn (s : State) (q : Nat) (x : Queue) : (s.setQueue q x).turn = s.turn := rfl
@[simp] theorem State.setQueue_slotAt (s : State) (q : Nat) (x : Queue) : (s.setQueue q x).slotAt = s.slotAt := rfl
@[simp] theorem State.setQueue_tried (s : State) (q : Nat) (x : Queue) : (s.setQueue q x).tried = s.tried := rfl
@[simp] theorem State.setQueue_tbNow (s : State) (q : Nat) (x : Queue) : (s.setQueue q x).tbNow = s.tbNow := rfl
@[simp] theorem State.setQueue_free (s : State) (q : Nat) (x : Queue) : (s.setQueue q x).free = s.free := rfl
@[simp] theorem State.setQueue_mem (s : State) (q : Nat) (x : Queue) : (s.setQueue q x).mem = s.mem := rfl
@[simp] theorem State.setQueue_l2 (s : State) (q : Nat) (x : Queue) : (s.setQueue q x).l2 = s.l2 := rfl
@[simp] theorem State.setQueue_bad (s : State) (q : Nat) (x : Queue) : (s.setQueue q x).bad = s.bad := rfl
@[simp] theorem State.setQueue_tests (s : State) (q : Nat) (x : Queue) : (s.setQueue q x).tests = s.tests := rfl
@[simp] theorem State.setQueue_misreads (s : State) (q : Nat) (x : Queue) : (s.setQueue q x).misreads = s.misreads := rfl
@[simp] theorem State.setQueue_host (s : State) (q : Nat) (x : Queue) : (s.setQueue q x).host = s.host := rfl
@[simp] theorem State.setQueue_atc (s : State) (q : Nat) (x : Queue) : (s.setQueue q x).atc = s.atc := rfl
@[simp] theorem State.setQueue_atsWaits (s : State) (q : Nat) (x : Queue) : (s.setQueue q x).atsWaits = s.atsWaits := rfl
@[simp] theorem State.setQueue_pri (s : State) (q : Nat) (x : Queue) : (s.setQueue q x).pri = s.pri := rfl
@[simp] theorem State.setQueue_teams (s : State) (q : Nat) (x : Queue) : (s.setQueue q x).teams = s.teams := rfl
@[simp] theorem State.setQueue_nextTeam (s : State) (q : Nat) (x : Queue) : (s.setQueue q x).nextTeam = s.nextTeam := rfl
@[simp] theorem State.setQueue_cores (s : State) (q : Nat) (x : Queue) : (s.setQueue q x).cores = s.cores := rfl
@[simp] theorem State.setQueue_clusters (s : State) (q : Nat) (x : Queue) : (s.setQueue q x).clusters = s.clusters := rfl
@[simp] theorem State.setQueue_dies (s : State) (q : Nat) (x : Queue) : (s.setQueue q x).dies = s.dies := rfl
@[simp] theorem State.setQueue_launches (s : State) (q : Nat) (x : Queue) : (s.setQueue q x).launches = s.launches := rfl
@[simp] theorem State.setQueue_nextLaunch (s : State) (q : Nat) (x : Queue) : (s.setQueue q x).nextLaunch = s.nextLaunch := rfl
@[simp] theorem State.setQueue_launchSeq (s : State) (q : Nat) (x : Queue) : (s.setQueue q x).launchSeq = s.launchSeq := rfl
@[simp] theorem State.setQueue_chosen (s : State) (q : Nat) (x : Queue) : (s.setQueue q x).chosen = s.chosen := rfl
@[simp] theorem State.setQueue_subs (s : State) (q : Nat) (x : Queue) : (s.setQueue q x).subs = s.subs := rfl
@[simp] theorem State.setQueue_graphs (s : State) (q : Nat) (x : Queue) : (s.setQueue q x).graphs = s.graphs := rfl
@[simp] theorem State.setQueue_nextGraph (s : State) (q : Nat) (x : Queue) : (s.setQueue q x).nextGraph = s.nextGraph := rfl
@[simp] theorem State.setQueue_rings (s : State) (q : Nat) (x : Queue) : (s.setQueue q x).rings = s.rings := rfl
@[simp] theorem State.setQueue_msix (s : State) (q : Nat) (x : Queue) : (s.setQueue q x).msix = s.msix := rfl
@[simp] theorem State.setQueue_msixSent (s : State) (q : Nat) (x : Queue) : (s.setQueue q x).msixSent = s.msixSent := rfl
@[simp] theorem State.setQueue_invals (s : State) (q : Nat) (x : Queue) : (s.setQueue q x).invals = s.invals := rfl
@[simp] theorem State.setQueue_stores (s : State) (q : Nat) (x : Queue) : (s.setQueue q x).stores = s.stores := rfl
@[simp] theorem State.setQueue_nextStore (s : State) (q : Nat) (x : Queue) : (s.setQueue q x).nextStore = s.nextStore := rfl
@[simp] theorem State.setQueue_pph (s : State) (q : Nat) (x : Queue) : (s.setQueue q x).pph = s.pph := rfl
@[simp] theorem State.setQueue_l2tags (s : State) (q : Nat) (x : Queue) : (s.setQueue q x).l2tags = s.l2tags := rfl
@[simp] theorem State.setQueue_ctl (s : State) (q : Nat) (x : Queue) : (s.setQueue q x).ctl = s.ctl := rfl
@[simp] theorem State.setQueue_fab (s : State) (q : Nat) (x : Queue) : (s.setQueue q x).fab = s.fab := rfl

/-- A team reads as it was last replaced. -/
theorem State.team_setTeam (s : State) (t u : Nat) (x : Team) : (s.setTeam t x).team u = if u = t then x else s.team u := by
  simp only [State.team, State.setTeam, AMap.find_put]; split <;> rfl

/-- A group reads as it was last replaced. -/
theorem State.group_setGroup (s : State) (t g u h : Nat) (x : Group) :
    (s.setGroup t g x).group u h = if u = t ∧ h = g then x else s.group u h := by
  simp only [State.group, State.setGroup, State.team_setTeam]
  by_cases e : u = t
  · subst e
    simp only [if_true, AMap.find_put, true_and]
    split <;> rfl
  · simp [e]

/-- A core reads as it was last replaced. -/
theorem State.core_setCore (s : State) (c d : Nat) (x : Core) : (s.setCore c x).core d = if d = c then x else s.core d := by
  simp only [State.core, State.setCore, AMap.find_put]; split <;> rfl

/-- A cluster reads as it was last replaced. -/
theorem State.cluster_setCluster (s : State) (c d : Nat) (x : Cluster) : (s.setCluster c x).cluster d = if d = c then x else s.cluster d := by
  simp only [State.cluster, State.setCluster, AMap.find_put]; split <;> rfl

/-- A die reads as it was last replaced. -/
theorem State.die_setDie (s : State) (c d : Nat) (x : Die) : (s.setDie c x).die d = if d = c then x else s.die d := by
  simp only [State.die, State.setDie, AMap.find_put]; split <;> rfl

/-- A launch reads as it was last replaced. -/
theorem State.launch_setLaunch (s : State) (c d : Nat) (x : Launch) : (s.setLaunch c x).launch d = if d = c then x else s.launch d := by
  simp only [State.launch, State.setLaunch, AMap.find_put]; split <;> rfl

/-- A queue reads as it was last replaced. -/
theorem State.queue_setQueue (s : State) (c d : Nat) (x : Queue) : (s.setQueue c x).queue d = if d = c then x else s.queue d := by
  simp only [State.queue, State.setQueue, AMap.find_put]; split <;> rfl

/-- Replacing a group keeps what its team is besides its groups. -/
theorem State.team_setGroup (s : State) (t g u : Nat) (x : Group) :
    (s.setGroup t g x).team u = if u = t then { s.team t with groups := AMap.put (s.team t).groups g x } else s.team u := by
  simp only [State.setGroup, State.team_setTeam]

/-- The launch of a team does not hang on its groups. -/
theorem State.launchOf_setGroup (s : State) (t g u : Nat) (x : Group) : (s.setGroup t g x).launchOf u = s.launchOf u := by
  simp only [State.launchOf, State.launch, State.setGroup_launches, State.team_setGroup]; split
  · rename_i h; rw [h]
  · rfl

end Sys2Proof.Machine
end

