-- ==== Sys2Proof/Laws/Issue.lean ====
section
/-! SUPPORT. Laws of issuing: what an instruction's body leaves once it has passed, for the shapes that register instructions share. -/

namespace Sys2Proof.Machine

open Host

/-! ### Masks -/

/-- A number built from its bits, one bit more. -/
theorem natOfBits_succ (w : Nat) (f : Nat → Bool) : natOfBits (w + 1) f = if f w then natOfBits w f + 2 ^ w else natOfBits w f := by
  simp [natOfBits, List.range_succ, List.foldl_append]

/-- A number built from its bits is below its size, and has those bits. -/
theorem natOfBits_spec (w : Nat) (f : Nat → Bool) : natOfBits w f < 2 ^ w ∧ ∀ i, i < w → (natOfBits w f).testBit i = f i := by
  induction w with
  | zero => exact ⟨by simp [natOfBits], fun i h => absurd h (Nat.not_lt_zero i)⟩
  | succ w ih =>
    obtain ⟨hlt, hbit⟩ := ih
    rw [natOfBits_succ]
    by_cases e : f w
    · simp only [e, if_true]
      refine ⟨by rw [Nat.pow_succ]; omega, fun i hi => ?_⟩
      rw [Nat.add_comm]
      by_cases e' : i = w
      · subst e'; rw [Nat.testBit_two_pow_add_eq, Nat.testBit_lt_two_pow hlt, e]; rfl
      · rw [Nat.testBit_two_pow_add_gt (by omega)]; exact hbit i (by omega)
    · simp only [e]
      refine ⟨by rw [Nat.pow_succ]; exact Nat.lt_of_lt_of_le hlt (by omega), fun i hi => ?_⟩
      by_cases e' : i = w
      · subst e'; simp [Nat.testBit_lt_two_pow hlt, e]
      · exact hbit i (by omega)

/-- The bits of a mask are those it was made of. -/
theorem maskOf_get (f : Nat → Bool) (t : Nat) (ht : t < 32) : (maskOf f).getLsbD t = f t := by
  simp only [maskOf, BitVec.getLsbD_ofNat, ht, decide_true, Bool.true_and]
  exact (natOfBits_spec 32 f).2 t ht

/-! ### The pieces of a group -/

/-- A group of a state whose issuing group is replaced. -/
theorem State.groupAt_setGroupAt (s : State) (r : SplitRef) (g : Group) : (s.setGroupAt r g).groupAt r = g := by
  simp [State.groupAt, State.setGroupAt, State.group_setGroup]

/-- The same, with the latch cleared. -/
theorem State.groupAt_cleared (s : State) (r : SplitRef) (g : Group) : ({ s.setGroupAt r g with latch := none } : State).groupAt r = g :=
  State.groupAt_setGroupAt s r g

/-- Replacing one entry of a split table of eight. -/
theorem Group.split_setSplit (g : Group) (i j : Nat) (x : Split) (hi : i < g.splits.length) :
    (g.setSplit i x).split j = if j = i then x else g.split j := by
  simp only [Group.split, Group.setSplit, List.getD_eq_getElem?_getD, List.getElem?_set]
  by_cases e : j = i
  · subst e; simp [hi]
  · have e' : ¬ i = j := fun h => e h.symm
    simp [e, e']

/-- Replacing a split keeps the number of entries. -/
theorem Group.splits_setSplit (g : Group) (i : Nat) (x : Split) : (g.setSplit i x).splits.length = g.splits.length := by
  simp [Group.setSplit]

/-- Two groups that differ in nothing but registers, pending writes, splits and counters. -/
theorem Group.rest_setSplit (g : Group) (i : Nat) (x : Split) : (g.setSplit i x).rest = g.rest := rfl

/-! ### Windows leave registers that nothing is pending for -/

/-- Delivering a pending write changes its own register only. -/
theorem setThreads_other (v : AMap Word) (r : Nat) (ts : List Nat) (f : Nat → Word) (n t : Nat) (h : n ≠ r) (ht : t < 32)
    (hts : ∀ x ∈ ts, x < 32) : AMap.get (setThreads v r ts f) (n * 32 + t) 0 = AMap.get v (n * 32 + t) 0 := by
  induction ts generalizing v with
  | nil => rfl
  | cons a rest ih =>
    have ha : a < 32 := hts a (by simp)
    simp only [setThreads]
    rw [ih _ (fun x hx => hts x (by simp [hx])), AMap.get_set]
    simp [show ¬ (n * 32 + t = r * 32 + a) by omega]

/-- The threads of a mask are below 32. -/
theorem threadsOf_lt (m : Half) : ∀ x ∈ threadsOf m, x < 32 := by
  intro x hx
  simp only [threadsOf, List.mem_filter, List.mem_range] at hx
  exact hx.1

/-- The threads of a mask are those whose bit is set. -/
theorem mem_threadsOf (m : Half) (t : Nat) : t ∈ threadsOf m ↔ t < 32 ∧ m.getLsbD t = true := by
  simp [threadsOf, List.mem_filter]

/-- Writing a register in a list of threads. -/
theorem setThreads_same (v : AMap Word) (r : Nat) (ts : List Nat) (f : Nat → Word) (t : Nat) : AMap.get (setThreads v r ts f) (r * 32 + t) 0 = if t ∈ ts then f t else AMap.get v (r * 32 + t) 0 := by
  induction ts generalizing v with
  | nil => simp [setThreads]
  | cons a rest ih =>
    simp only [setThreads]
    rw [ih, AMap.get_set]
    by_cases e : t = a
    · subst e; simp
    · simp [e]

/-- Two groups with the same fields but registers and pending writes. -/
structure SameShell (g h : Group) : Prop where
  rest : h.rest = g.rest
  splits : h.splits = g.splits
  inst : h.nextInst = g.nextInst
  last : h.lastSplit = g.lastSplit
  pre : h.preCount = g.preCount
  k : h.k = g.k

theorem SameShell.refl (g : Group) : SameShell g g := ⟨rfl, rfl, rfl, rfl, rfl, rfl⟩

theorem SameShell.trans {a b c : Group} (h : SameShell a b) (h' : SameShell b c) : SameShell a c :=
  ⟨h'.rest.trans h.rest, h'.splits.trans h.splits, h'.inst.trans h.inst, h'.last.trans h.last, h'.pre.trans h.pre, h'.k.trans h.k⟩

/-- Overwriting a register of a group that holds no uncorrectable register leaves none. -/
theorem Group.freshen_clean (g : Group) (r : Nat) (m : Half) (h : g.bad = []) : g.freshen r m = g := by
  cases g; simp_all [Group.freshen]

/-- The same groups hold the same uncorrectable registers. -/
theorem SameShell.bad {g h : Group} (e : SameShell g h) : h.bad = g.bad := (congrArg Group.bad e.rest : h.rest.bad = g.rest.bad)

/-- Delivering a result whose read check did not fail leaves the shell and every other register. -/
theorem Group.deliver_spec (g : Group) (p : Pend) (m : Half) (hb : g.bad = []) (hf : p.failed = false) :
    SameShell g (g.deliver p m) ∧ (∀ n t, t < 32 → n < 192 → n ≠ p.reg → (g.deliver p m).readV n t = g.readV n t) ∧
      (∀ n, 192 + n ≠ p.reg → (g.deliver p m).readG n = g.readG n) := by
  have e : p.badRegs m = [] := by simp [Pend.badRegs, hf]
  unfold Group.deliver
  simp only [g.freshen_clean p.reg m hb, e, hb, List.append_nil]
  split
  · rename_i hr
    refine ⟨⟨by simp [Group.rest, hb], rfl, rfl, rfl, rfl, rfl⟩, fun _ _ _ _ _ => rfl, fun n hn => ?_⟩
    simp only [Group.readG, AMap.get_set]
    have : ¬ (n = p.reg - 192) := by omega
    simp [this]
  · refine ⟨⟨by simp [Group.rest, hb], rfl, rfl, rfl, rfl, rfl⟩, fun n t ht _ hn => ?_, fun _ _ => rfl⟩
    exact setThreads_other _ _ _ _ _ _ hn ht (threadsOf_lt m)

/-- Settling a result leaves the shell and every other register. -/
theorem Group.settle_spec (g : Group) (p : Pend) (hb : g.bad = []) (hf : p.failed = false) :
    SameShell g (g.settle p).1 ∧ (∀ n t, t < 32 → n < 192 → n ≠ p.reg → (g.settle p).1.readV n t = g.readV n t) ∧
      (∀ n, 192 + n ≠ p.reg → (g.settle p).1.readG n = g.readG n) := by
  have e : (g.settle p).1 = if 192 ≤ p.reg then (if p.openFor 0 || p.disc != 0 then g else g.deliver p p.mask) else g.deliver p p.due := by
    unfold Group.settle
    dsimp only
    rw [apply_ite Prod.fst]
    simp
  have h : ∃ m, (g.settle p).1 = g ∨ (g.settle p).1 = g.deliver p m := by
    rw [e]
    by_cases h1 : 192 ≤ p.reg
    · by_cases h2 : (p.openFor 0 || p.disc != 0) = true
      · exact ⟨0, .inl (by rw [if_pos h1, if_pos h2])⟩
      · exact ⟨p.mask, .inr (by rw [if_pos h1, if_neg h2])⟩
    · exact ⟨p.due, .inr (by rw [if_neg h1])⟩
  obtain ⟨m, h | h⟩ := h
  · rw [h]; exact ⟨SameShell.refl g, fun _ _ _ _ _ => rfl, fun _ _ => rfl⟩
  · rw [h]; exact Group.deliver_spec g p m hb hf

/-- Settling a list of results leaves the shell and every register that none of them names. -/
theorem Group.settleAll_spec (ps : List Pend) (g : Group) (hb : g.bad = []) (hf : ∀ p ∈ ps, p.failed = false) :
    SameShell g (g.settleAll ps).1 ∧
      (∀ n t, t < 32 → n < 192 → (∀ p ∈ ps, p.arrived = true → p.reg ≠ n) → (g.settleAll ps).1.readV n t = g.readV n t) ∧
      (∀ n, (∀ p ∈ ps, p.arrived = true → p.reg ≠ 192 + n) → (g.settleAll ps).1.readG n = g.readG n) := by
  induction ps generalizing g with
  | nil => exact ⟨SameShell.refl g, fun _ _ _ _ _ => rfl, fun _ _ => rfl⟩
  | cons p rest ih =>
    simp only [Group.settleAll]
    split
    · rename_i ha
      obtain ⟨a, b, c⟩ := Group.settle_spec g p hb (hf p (by simp))
      obtain ⟨a', b', c'⟩ := ih (g.settle p).1 (a.bad.trans hb) (fun q hq => hf q (by simp [hq]))
      refine ⟨a.trans a', fun n t ht hn hp => ?_, fun n hp => ?_⟩
      · exact (b' n t ht hn (fun q hq => hp q (by simp [hq]))).trans (b n t ht hn (fun e => hp p (by simp) ha e.symm))
      · exact (c' n (fun q hq => hp q (by simp [hq]))).trans (c n (fun e => hp p (by simp) ha e.symm))
    · obtain ⟨a', b', c'⟩ := ih g hb (fun q hq => hf q (by simp [hq]))
      exact ⟨a', fun n t ht hn hp => b' n t ht hn (fun q hq => hp q (by simp [hq])), fun n hp => c' n (fun q hq => hp q (by simp [hq]))⟩

/-- Counting an instruction keeps the register a pending write names, whether it has arrived, and whether it failed. -/
theorem Pend.count_reg (p : Pend) (i : Nat) (m : Half) : (p.count i m).reg = p.reg ∧ (p.count i m).arrived = p.arrived ∧ (p.count i m).failed = p.failed := by
  unfold Pend.count; split <;> exact ⟨rfl, rfl, rfl⟩

/-- Counting an instruction against the windows leaves the shell, and every register that nothing is pending for. -/
theorem Group.countWindow_spec (g : Group) (i : Nat) (m : Half) (hb : g.bad = []) (hf : ∀ p ∈ g.pends, p.failed = false) :
    SameShell g (g.countWindow i m) ∧
      (∀ n t, t < 32 → n < 192 → g.quiet n = true → (g.countWindow i m).readV n t = g.readV n t) ∧
      (∀ n, g.quiet (192 + n) = true → (g.countWindow i m).readG n = g.readG n) := by
  obtain ⟨a, b, c⟩ := Group.settleAll_spec (g.pends.map (fun p => p.count i m)) g hb (fun p hp => by
    obtain ⟨q, hq, rfl⟩ := List.mem_map.mp hp
    rw [(Pend.count_reg q i m).2.2]; exact hf q hq)
  have reg : ∀ r, g.quiet r = true → ∀ p ∈ g.pends.map (fun p => p.count i m), p.arrived = true → p.reg ≠ r := by
    intro r hq p hp ha
    obtain ⟨q, hq', rfl⟩ := List.mem_map.mp hp
    simp only [Group.quiet, List.all_eq_true] at hq
    rw [(Pend.count_reg q i m).2.1] at ha
    rw [(Pend.count_reg q i m).1]
    have := hq q hq'
    simpa [ha] using this
  refine ⟨⟨?_, a.splits, a.inst, a.last, a.pre, a.k⟩, fun n t ht hn hq => b n t ht hn (reg n hq), fun n hq => c n (reg _ hq)⟩
  exact a.rest

/-- Noting a write keeps the registers that pending writes name, which have arrived, and which have failed. -/
theorem Pend.overwritten_reg (p : Pend) (is : List Nat) (r : Nat) (m : Half) :
    (p.overwritten is r m).reg = p.reg ∧ (p.overwritten is r m).arrived = p.arrived ∧ (p.overwritten is r m).failed = p.failed := by
  unfold Pend.overwritten; repeat (first | exact ⟨rfl, rfl, rfl⟩ | split)

/-- Noting a write leaves no pending write failed that was not. -/
theorem Group.noteWrite_failed (g : Group) (r : Nat) (m : Half) (h : ∀ p ∈ g.pends, p.failed = false) : ∀ p ∈ (g.noteWrite r m).pends, p.failed = false := by
  intro p hp
  obtain ⟨q, hq, rfl⟩ := List.mem_map.mp hp
  rw [(Pend.overwritten_reg q _ r m).2.2]; exact h q hq

/-- A write of a register leaves the shell; no pending write changes its register. -/
theorem Group.quiet_noteWrite (g : Group) (r : Nat) (m : Half) (n : Nat) : (g.noteWrite r m).quiet n = g.quiet n := by
  simp only [Group.quiet, Group.noteWrite, List.all_map]
  congr 1
  funext p
  simp [(Pend.overwritten_reg p _ r m).1, (Pend.overwritten_reg p _ r m).2.1]

/-- What writing an operand leaves in the register files. -/
theorem Group.writeOpnd_spec (g : Group) (d : Opnd) (m : Half) (f : Nat → Word) (hb : g.bad = []) :
    (g.writeOpnd d m f).rest = g.rest ∧ (g.writeOpnd d m f).splits = g.splits ∧ (g.writeOpnd d m f).nextInst = g.nextInst ∧
      (∀ r, (g.writeOpnd d m f).quiet r = g.quiet r) ∧
      (∀ (n : Fin 192) (t : Nat), t < 32 → (g.writeOpnd d m f).readV n.val t = if d = .v n ∧ m.getLsbD t = true then f t else g.readV n.val t) ∧
      (∀ n : Fin 48, (g.writeOpnd d m f).readG n.val = if d = .g n then f 0 else g.readG n.val) ∧
      (∀ (n : Fin 8) (t : Nat), n.val ≠ 0 → t < 32 → ((g.writeOpnd d m f).readK 0 n.val).getLsbD t =
        if d = .k n ∧ m.getLsbD t = true then (f t != 0) else (g.readK 0 n.val).getLsbD t) := by
  have fresh : ∀ (v : AMap Word) (r : Nat) (m : Half), ({ g with v := v } : Group).freshen r m = { g with v := v } := fun v r m => Group.freshen_clean _ r m hb
  have freshG : ∀ (x : AMap Word) (r : Nat) (m : Half), ({ g with g := x } : Group).freshen r m = { g with g := x } := fun x r m => Group.freshen_clean _ r m hb
  have freshK : ∀ (x : AMap Half) (r : Nat) (m : Half), ({ g with k := x } : Group).freshen r m = { g with k := x } := fun x r m => Group.freshen_clean _ r m hb
  cases d with
  | v x =>
    simp only [Group.writeOpnd, Group.writeV, fresh]
    refine ⟨rfl, rfl, rfl, fun r => ?_, fun n t ht => ?_, fun n => by simp [Group.noteWrite, Group.readG],
      fun n t hn _ => by simp [Group.noteWrite, Group.readK, hn]⟩
    · exact (Group.quiet_noteWrite _ _ _ _).trans rfl
    · simp only [Group.noteWrite, Group.readV]
      by_cases e : n = x
      · subst e
        rw [setThreads_same]
        simp [mem_threadsOf, ht]
      · have e' : n.val ≠ x.val := fun h => e (Fin.ext h)
        rw [setThreads_other _ _ _ _ _ _ e' ht (threadsOf_lt m)]
        simp [Opnd.v.injEq, show ¬ x = n from fun h => e h.symm]
  | g x =>
    simp only [Group.writeOpnd, Group.writeG, freshG]
    refine ⟨rfl, rfl, rfl, fun r => ?_, fun n t _ => by simp [Group.noteWrite, Group.readV], fun n => ?_,
      fun n t hn _ => by simp [Group.noteWrite, Group.readK, hn]⟩
    · exact (Group.quiet_noteWrite _ _ _ _).trans rfl
    · simp only [Group.noteWrite, Group.readG, AMap.get_set]
      by_cases e : x = n
      · subst e; simp
      · have e' : ¬ n.val = x.val := fun h => e (Fin.ext h.symm)
        simp [e, e']
  | k x =>
    have e : g.writeOpnd (.k x) m f = { g with k := AMap.set g.k x.val ((g.readK 0 x.val &&& ~~~m) ||| (m &&& maskOf (fun t => f t != 0))) 0 } := by
      simp only [Group.writeOpnd, Group.writeK, freshK, ite_self]
    rw [e]
    refine ⟨rfl, rfl, rfl, fun r => rfl, fun n t _ => by simp [Group.readV],
      fun n => by simp [Group.readG], fun n t hn ht => ?_⟩
    simp only [Group.readK, hn, if_false, AMap.get_set]
    by_cases e : x = n
    · subst e
      simp only [hn, if_false, if_true, true_and, BitVec.getLsbD_or, BitVec.getLsbD_and, BitVec.getLsbD_not, maskOf_get _ _ ht]
      cases h : m.getLsbD t <;> simp only [ht, Bool.false_and, Bool.true_and, Bool.not_false, Bool.not_true, Bool.and_true, Bool.and_false, Bool.or_false, Bool.false_or, decide_true, if_true, if_false, Bool.false_eq_true]
    · have e' : ¬ n.val = x.val := fun h => e (Fin.ext h.symm)
      simp [e, e']
  | vz => exact ⟨rfl, rfl, rfl, fun _ => rfl, fun n t _ => by simp [Group.writeOpnd], fun n => by simp [Group.writeOpnd], fun n t _ _ => by simp [Group.writeOpnd]⟩
  | lit x => exact ⟨rfl, rfl, rfl, fun _ => rfl, fun n t _ => by simp [Group.writeOpnd], fun n => by simp [Group.writeOpnd], fun n t _ _ => by simp [Group.writeOpnd]⟩

/-- Writing an operand leaves no pending write failed that was not. -/
theorem Group.writeOpnd_failed (g : Group) (d : Opnd) (m : Half) (f : Nat → Word) (h : ∀ p ∈ g.pends, p.failed = false) :
    ∀ p ∈ (g.writeOpnd d m f).pends, p.failed = false := by
  cases d with
  | v x => exact Group.noteWrite_failed _ _ _ h
  | g x => exact Group.noteWrite_failed _ _ _ h
  | k x => simp only [Group.writeOpnd]; split <;> exact h
  | vz => exact h
  | lit x => exact h

/-! ### Passing: what a completed body leaves -/

/-- A pending write that no window counts and that has not arrived stays as it is. -/
theorem Group.mem_settleAll (p : Pend) (ps : List Pend) (g : Group) (h : p ∈ ps) (ha : p.arrived = false) : p ∈ (g.settleAll ps).2 := by
  induction ps generalizing g with
  | nil => exact absurd h (List.not_mem_nil)
  | cons q rest ih =>
    simp only [Group.settleAll]
    rcases List.mem_cons.mp h with rfl | h'
    · rw [if_neg (by simp [ha])]; exact List.mem_cons_self
    · split
      · dsimp only
        split
        · exact List.mem_cons_of_mem _ (ih _ h')
        · exact ih _ h'
      · exact List.mem_cons_of_mem _ (ih _ h')

/-- A pending write of the instruction that is counted, or of a later one, stays as it is until it arrives. -/
theorem Group.mem_countWindow (p : Pend) (g : Group) (i : Nat) (m : Half) (h : p ∈ g.pends) (hi : i ≤ p.inst) (ha : p.arrived = false) :
    p ∈ (g.countWindow i m).pends := by
  refine Group.mem_settleAll p _ g (List.mem_map.mpr ⟨p, h, ?_⟩) ha
  simp [Pend.count, hi]

/-- The group of an issuing instruction holds no uncorrectable register. -/
theorem State.issuing_bad (s : State) (l : Latch) (h : s.issuing l = true) : (s.groupAt l.ref).bad = [] := by
  simp only [State.issuing, State.sound, Bool.and_eq_true, List.isEmpty_iff] at h
  exact h.2.1.2

/-- No pending write of an issuing instruction's group has failed. -/
theorem State.issuing_failed (s : State) (l : Latch) (h : s.issuing l = true) : ∀ p ∈ (s.groupAt l.ref).pends, p.failed = false := by
  simp only [State.issuing, State.sound, Bool.and_eq_true, List.all_eq_true, Bool.not_eq_true'] at h
  exact h.2.2

/-- Nothing forgotten, a split that went on has passed. -/
theorem State.Went.passed {s t : State} {l : Latch} {pc : Word} (h : s.Went t l pc (fun g => g)) : s.Passed t l pc :=
  ⟨h.others, h.latch, h.split, h.splits, h.rest, h.count⟩

/-- A body that completes by replacing its group, moving nothing but its own split: the split goes on, every register reads as the body left it unless a pending write names it, and the body's own pending writes stay. -/
theorem issue_went (s : State) (l : Latch) (h : s.issuing l = true) (b : Latch → State → Res) (name : String) (g' : Group) (forget : Group → Group)
    (hb : b l (s.advance l) = doneGroup l (s.advance l) g')
    (hs : g'.splits = ((s.groupAt l.ref).setSplit l.ref.split { s.splitAt l.ref with pc := l.next }).splits)
    (hr : forget g'.rest = forget (s.groupAt l.ref).rest) (hb' : g'.bad = []) (hn : g'.nextInst = (s.groupAt l.ref).nextInst)
    (hf : ∀ p ∈ g'.pends, p.failed = false) :
    ∃ t, issue name s b = .next t ∧ s.Went t l l.next forget ∧ (t.groupAt l.ref).rest = g'.rest ∧
      (∀ n x, x < 32 → n < 192 → g'.quiet n = true → (t.groupAt l.ref).readV n x = g'.readV n x) ∧
      (∀ n, g'.quiet (192 + n) = true → (t.groupAt l.ref).readG n = g'.readG n) ∧
      (t.groupAt l.ref).k = g'.k ∧
      (∀ p ∈ g'.pends, (s.groupAt l.ref).nextInst ≤ p.inst → p.arrived = false → p ∈ (t.groupAt l.ref).pends) := by
  have hu : s.registerUce l = none := by simp [State.registerUce, State.issuing_bad s l h]
  simp only [State.issuing, Bool.and_eq_true, beq_iff_eq, decide_eq_true_eq] at h
  obtain ⟨⟨⟨hl, hlen⟩, hi⟩, -⟩ := h
  have hlen' : l.ref.split < (s.groupAt l.ref).splits.length := by omega
  have hsp0 : ∀ j, ((s.groupAt l.ref).setSplit l.ref.split { s.splitAt l.ref with pc := l.next }).split j =
      if j = l.ref.split then { s.splitAt l.ref with pc := l.next } else (s.groupAt l.ref).split j :=
    fun j => Group.split_setSplit _ _ _ _ hlen'
  refine ⟨s.finish ((s.advance l).setGroupAt l.ref g') l, by simp only [issue, hl, hb, doneGroup, hu], ?_⟩
  simp only [State.finish, State.groupAt_setGroupAt]
  generalize hg1 : (if ((s.groupAt l.ref).split l.ref.split).handler = true then g' else
    g'.countWindow (s.groupAt l.ref).nextInst (((s.groupAt l.ref).split l.ref.split).mask &&& ~~~(s.groupAt l.ref).counted)) = g1
  have sh : SameShell g' g1 ∧ (∀ n t, t < 32 → n < 192 → g'.quiet n = true → g1.readV n t = g'.readV n t) ∧
      (∀ n, g'.quiet (192 + n) = true → g1.readG n = g'.readG n) ∧
      (∀ p ∈ g'.pends, (s.groupAt l.ref).nextInst ≤ p.inst → p.arrived = false → p ∈ g1.pends) := by
    rw [← hg1]
    split
    · exact ⟨SameShell.refl _, fun _ _ _ _ _ => rfl, fun _ _ => rfl, fun _ h _ _ => h⟩
    · exact ⟨(Group.countWindow_spec _ _ _ hb' hf).1, (Group.countWindow_spec _ _ _ hb' hf).2.1, (Group.countWindow_spec _ _ _ hb' hf).2.2,
        fun p hp hn ha => Group.mem_countWindow p _ _ _ hp hn ha⟩
  obtain ⟨sh, hv, hgr, hp⟩ := sh
  have hsp : ∀ j, g1.split j = if j = l.ref.split then { s.splitAt l.ref with pc := l.next } else (s.groupAt l.ref).split j := by
    intro j; rw [← hsp0 j]; simp only [Group.split, sh.splits.trans hs]
  have hlen1 : l.ref.split < g1.splits.length := by rw [sh.splits.trans hs, Group.splits_setSplit]; exact hlen'
  have hset : ∀ (c : Nat) (b : Half) (x : Split) (j : Nat),
      (({ g1 with nextInst := g1.nextInst + 1, counted := b, preCount := c } : Group).setSplit l.ref.split x).split j =
        if j = l.ref.split then x else g1.split j := fun c b x j => Group.split_setSplit _ _ _ _ hlen1
  refine ⟨⟨⟨fun a ha => ?_, ?_, fun c hc => ?_, rfl⟩, rfl, ?_, fun i hne => ?_, ?_, ?_⟩, ?_, ?_⟩
  · simp only [State.team, State.setGroupAt, State.setGroup, State.setTeam, State.advance, State.setSplitAt, AMap.find_put, ha, if_false]
  · simp only [State.team, State.setGroupAt, State.setGroup, State.setTeam, State.advance, State.setSplitAt, AMap.find_put, if_true, Option.getD_some]
  · simp only [State.group, State.team, State.setGroupAt, State.setGroup, State.setTeam, State.advance, State.setSplitAt, AMap.find_put, if_true, Option.getD_some, hc, if_false]
  · rw [State.splitAt, State.groupAt_cleared, hset, if_pos rfl]
    have e := hsp l.ref.split
    rw [if_pos rfl] at e
    show { g1.split l.ref.split with waitCnt := 0, urgent := false } = _
    rw [e]
  · rw [State.groupAt_cleared, hset, if_neg hne, hsp, if_neg hne]
  · rw [State.groupAt_cleared]
    exact (congrArg forget sh.rest).trans hr
  · rw [State.groupAt_cleared]
    show g1.nextInst + 1 = _
    rw [sh.inst, hn]
  · rw [State.groupAt_cleared]
    exact sh.rest
  · rw [State.groupAt_cleared]
    exact ⟨hv, hgr, sh.k, hp⟩

/-- The same for a body that leaves the rest of its group: the split passes. -/
theorem issue_group (s : State) (l : Latch) (h : s.issuing l = true) (b : Latch → State → Res) (name : String) (g' : Group)
    (hb : b l (s.advance l) = doneGroup l (s.advance l) g')
    (hs : g'.splits = ((s.groupAt l.ref).setSplit l.ref.split { s.splitAt l.ref with pc := l.next }).splits)
    (hr : g'.rest = (s.groupAt l.ref).rest) (hn : g'.nextInst = (s.groupAt l.ref).nextInst) (hf : ∀ p ∈ g'.pends, p.failed = false) :
    ∃ t, issue name s b = .next t ∧ s.Passed t l l.next ∧
      (∀ n x, x < 32 → n < 192 → g'.quiet n = true → (t.groupAt l.ref).readV n x = g'.readV n x) ∧
      (∀ n, g'.quiet (192 + n) = true → (t.groupAt l.ref).readG n = g'.readG n) ∧
      (t.groupAt l.ref).k = g'.k ∧
      (∀ p ∈ g'.pends, (s.groupAt l.ref).nextInst ≤ p.inst → p.arrived = false → p ∈ (t.groupAt l.ref).pends) := by
  have hb' : g'.bad = [] := (congrArg Group.bad hr : g'.rest.bad = _).trans (State.issuing_bad s l h)
  obtain ⟨t, e, w, -, p⟩ := issue_went s l h b name g' (fun g => g) hb hs hr hb' hn hf
  exact ⟨t, e, w.passed, p⟩

/-! ### The shapes of register instructions -/

/-- The group of an issuing instruction, its own split moved on. -/
theorem State.groupAt_advance (s : State) (l : Latch) :
    (s.advance l).groupAt l.ref = (s.groupAt l.ref).setSplit l.ref.split { s.splitAt l.ref with pc := l.next } := by
  simp only [State.advance, State.setSplitAt, State.groupAt_setGroupAt]

/-- Moving the PC on keeps the split's mask. -/
theorem Latch.self_advance (s : State) (l : Latch) (h : s.issuing l = true) : l.self (s.advance l) = l.self s := by
  simp only [State.issuing, Bool.and_eq_true, beq_iff_eq, decide_eq_true_eq] at h
  have _ := h.1.2
  have hlen' : l.ref.split < (s.groupAt l.ref).splits.length := by omega
  simp only [Latch.self, State.splitAt, State.groupAt_advance, Group.split_setSplit _ _ _ _ hlen', if_true]

/-- What a write of D leaves, from the state of the group before the instruction. -/
theorem writes_of_writeOpnd (s : State) (l : Latch) (h : s.issuing l = true) (b : Latch → State → Res) (name : String) (mask : Mask)
    (d : Opnd) (w : Nat → Word)
    (hb : b l (s.advance l) = doneGroup l (s.advance l) (((s.advance l).groupAt l.ref).writeOpnd d (s.activeSet l mask) w)) :
    ∃ t, issue name s b = .next t ∧ s.Writes t l mask d w := by
  rw [State.groupAt_advance] at hb
  obtain ⟨hr, hs, hn, hq, hv, hg, hk⟩ := Group.writeOpnd_spec ((s.groupAt l.ref).setSplit l.ref.split { s.splitAt l.ref with pc := l.next }) d (s.activeSet l mask) w
    (State.issuing_bad s l h)
  obtain ⟨t, e, p, pv, pg, pk, -⟩ := issue_group s l h b name _ hb hs hr hn (Group.writeOpnd_failed _ d (s.activeSet l mask) w (State.issuing_failed s l h))
  refine ⟨t, e, p, fun n x hx hqn => ?_, fun n hqn => ?_, fun n x hn0 hx => ?_⟩
  · rw [pv n.val x hx n.isLt ((hq _).trans hqn)]; exact hv n x hx
  · rw [pg n.val ((hq _).trans hqn)]; exact hg n
  · refine Eq.trans ?_ (hk n x hn0 hx)
    simp only [Group.readK, hn0, if_false, pk]

/-- A register instruction that writes one word per thread at once (R10 to R12). -/
theorem perThread_writes (name : String) (mask : Mask) (d : Opnd) (srcs : List Opnd) (val : Group → Half → Nat → Word) (s : State) (l : Latch)
    (h : s.issuing l = true) (hu : uniformBad d srcs = false) (w : Nat → Word)
    (hw : val ((s.groupAt l.ref).setSplit l.ref.split { s.splitAt l.ref with pc := l.next }) (l.self s) = w) :
    ∃ t, perThread name mask d srcs val s = .next t ∧ s.Writes t l mask d w := by
  refine writes_of_writeOpnd s l h _ name mask d w ?_
  simp only [hu, Latch.self_advance s l h, Bool.false_eq_true, if_false, State.groupAt_advance, hw]
  rfl

/-- A register-form instruction (R10 to R13). -/
theorem regLanes_writes (name : String) (f : RegForm) (srcs : List Opnd) (val : Args → Word) (s : State) (l : Latch)
    (h : s.issuing l = true) (hu : uniformBad f.d srcs = false) :
    ∃ t, regLanes name f srcs val s = .next t ∧
      s.Writes t l f.mask f.d (fun n => val ⟨s.operand l f.a n, s.operand l f.b n, s.operand l f.c n, s.operand l f.d n, n⟩) :=
  perThread_writes name f.mask f.d srcs _ s l h hu _ rfl

/-- An immediate-form instruction (R64). -/
theorem immLanes_writes (name : String) (f : ImmForm) (val : Word → Word → Word) (s : State) (l : Latch)
    (h : s.issuing l = true) (hu : uniformBad f.d [f.a] = false) :
    ∃ t, immLanes name f val s = .next t ∧ s.Writes t l f.mask f.d (fun n => val (s.operand l f.a n) f.imm) :=
  perThread_writes name f.mask f.d [f.a] _ s l h hu _ rfl

/-- A UNIFORM trap: a g-register destination with a per-thread source (R12). -/
theorem perThread_uniform (name : String) (mask : Mask) (d : Opnd) (srcs : List Opnd) (val : Group → Half → Nat → Word) (s : State) (l : Latch)
    (h : s.latch = some l) (hu : uniformBad d srcs = true) :
    perThread name mask d srcs val s = .next (s.takeTrap l trapUniform) := by
  simp only [perThread, issue, h, hu, if_true]

/-- The values of a new pending write, by thread. -/
theorem get_threadVals (ts : List Nat) (f : Nat → Word) (t : Nat) (h : t ∈ ts) : AMap.get (ts.map (fun x => (x, f x))) t 0 = f t := by
  induction ts with
  | nil => exact absurd h List.not_mem_nil
  | cons a rest ih =>
    by_cases e : a = t
    · subst e; simp [AMap.get]
    · have h' : t ∈ rest := by
        rcases List.mem_cons.mp h with rfl | h'
        · exact absurd rfl e
        · exact h'
      simp only [AMap.get, List.map_cons, e, if_false]
      exact ih h'

/-- What a result left pending leaves, from the state of the group before the instruction. -/
theorem starts_of_pendOpnd (s : State) (l : Latch) (h : s.issuing l = true) (b : Latch → State → Res) (name : String) (mask : Mask)
    (d : Opnd) (la : Nat) (w : Nat → Word)
    (hb : b l (s.advance l) = doneGroup l (s.advance l)
      (((s.advance l).groupAt l.ref).pendOpnd (s.groupAt l.ref).nextInst l.pc d (s.activeSet l mask) la w)) :
    ∃ t, issue name s b = .next t ∧ s.Starts t l mask d w := by
  rw [State.groupAt_advance] at hb
  generalize hg0 : (s.groupAt l.ref).setSplit l.ref.split { s.splitAt l.ref with pc := l.next } = g0 at hb
  generalize hact : s.activeSet l mask = act at hb
  have same : ∀ inst pc reg m lk vals src, (g0.addPend inst pc reg m lk vals src).splits = g0.splits ∧ (g0.addPend inst pc reg m lk vals src).rest = g0.rest ∧
      (g0.addPend inst pc reg m lk vals src).nextInst = g0.nextInst ∧ (g0.addPend inst pc reg m lk vals src).v = g0.v ∧
      (g0.addPend inst pc reg m lk vals src).g = g0.g ∧ (g0.addPend inst pc reg m lk vals src).k = g0.k ∧
      ∀ r, (g0.addPend inst pc reg m lk vals src).quiet r = g0.quiet r := by
    intro inst pc reg m lk vals src
    unfold Group.addPend
    split
    · exact ⟨rfl, rfl, rfl, rfl, rfl, rfl, fun _ => rfl⟩
    · refine ⟨rfl, rfl, rfl, rfl, rfl, rfl, fun r => ?_⟩
      simpa [Group.quiet, List.all_append] using Group.quiet_noteWrite g0 reg m r
  have all : (g0.pendOpnd (s.groupAt l.ref).nextInst l.pc d act la w).splits = g0.splits ∧ (g0.pendOpnd (s.groupAt l.ref).nextInst l.pc d act la w).rest = g0.rest ∧
      (g0.pendOpnd (s.groupAt l.ref).nextInst l.pc d act la w).nextInst = g0.nextInst ∧ (g0.pendOpnd (s.groupAt l.ref).nextInst l.pc d act la w).v = g0.v ∧
      (g0.pendOpnd (s.groupAt l.ref).nextInst l.pc d act la w).g = g0.g ∧ (g0.pendOpnd (s.groupAt l.ref).nextInst l.pc d act la w).k = g0.k ∧
      ∀ r, (g0.pendOpnd (s.groupAt l.ref).nextInst l.pc d act la w).quiet r = g0.quiet r := by
    cases d <;> first | exact same _ _ _ _ _ _ _ | exact ⟨rfl, rfl, rfl, rfl, rfl, rfl, fun _ => rfl⟩
  have new : ∀ inst pc reg m lk vals src, ∀ p ∈ (g0.addPend inst pc reg m lk vals src).pends, p.failed = false := by
    intro inst pc reg m lk vals src
    have h0 : ∀ p ∈ g0.pends, p.failed = false := by rw [← hg0]; exact State.issuing_failed s l h
    unfold Group.addPend
    split
    · exact h0
    · intro p hp
      rcases List.mem_append.mp hp with hp | hp
      · exact Group.noteWrite_failed _ _ _ h0 p hp
      · rw [List.mem_singleton.mp hp]
  have hfail : ∀ p ∈ (g0.pendOpnd (s.groupAt l.ref).nextInst l.pc d act la w).pends, p.failed = false := by
    have h0 : ∀ p ∈ g0.pends, p.failed = false := by rw [← hg0]; exact State.issuing_failed s l h
    cases d <;> first | exact new _ _ _ _ _ _ _ | exact h0
  obtain ⟨hs, hr, hn, hv, hg, hk, hq⟩ := all
  obtain ⟨t, e, p, pv, pg, pk, pp⟩ := issue_group s l h b name _ hb (hs.trans (by rw [← hg0])) (hr.trans (by rw [← hg0]; rfl)) (hn.trans (by rw [← hg0]; rfl)) hfail
  refine ⟨t, e, p, ⟨fun n x hx hqn => ?_, fun n hqn => ?_, fun n x hn0 hx => ?_⟩, fun n hd ha => ?_, fun n hd ha => ?_⟩
  · rw [pv n.val x hx n.isLt ((hq _).trans (by rw [← hg0]; exact hqn)), if_neg (by simp)]
    rw [Group.readV, hv, ← hg0]
    rfl
  · rw [pg n.val ((hq _).trans (by rw [← hg0]; exact hqn)), if_neg (by simp)]
    rw [Group.readG, hg, ← hg0]
    rfl
  · rw [if_neg (by simp)]
    simp only [Group.readK, hn0, if_false, pk, hk]
    rw [← hg0]
    rfl
  · subst hd
    rw [hact] at ha
    refine ⟨_, pp _ (by simp only [Group.pendOpnd, Group.addPend, if_neg ha]; exact List.mem_append_right _ List.mem_cons_self) (Nat.le_refl _) rfl, rfl, rfl, hact.symm, rfl, rfl, ?_⟩
    have hlt : ¬ 192 ≤ n.val := by have := n.isLt; omega
    simp only [hlt, if_false]
    intro x hx hm
    rw [hact] at hm
    exact get_threadVals _ w x ((mem_threadsOf act x).mpr ⟨hx, hm⟩)
  · subst hd
    rw [hact] at ha
    refine ⟨_, pp _ (by simp only [Group.pendOpnd, Group.addPend, if_neg ha]; exact List.mem_append_right _ List.mem_cons_self) (Nat.le_refl _) rfl, rfl, rfl, hact.symm, rfl, rfl, ?_⟩
    have hlt : 192 ≤ 192 + n.val := by omega
    simp only [hlt, if_true]
    rfl

/-- A long-latency instruction over the threads' operands (R201). -/
theorem longLanes_starts (name : String) (mask : Mask) (la : Nat) (d : Opnd) (srcs : List Opnd) (val : Group → Half → Nat → Word) (s : State) (l : Latch)
    (h : s.issuing l = true) (hu : uniformBad d srcs = false) (w : Nat → Word)
    (hw : val ((s.groupAt l.ref).setSplit l.ref.split { s.splitAt l.ref with pc := l.next }) (l.self s) = w) :
    ∃ t, longLanes name mask la d srcs val s = .next t ∧ s.Starts t l mask d w := by
  refine starts_of_pendOpnd s l h _ name mask d la w ?_
  simp only [hu, Latch.self_advance s l h, Bool.false_eq_true, if_false, State.groupAt_advance, hw]
  rfl

/-- An instruction whose result is one word: it goes to D once, or to each active thread (R147, R148). -/
theorem onceOrLanes_writes (name : String) (mask : Mask) (d : Opnd) (srcs : List Opnd) (val : Group → Half → Half → Word) (s : State) (l : Latch)
    (h : s.issuing l = true) (hu : uniformBad d srcs = false) (hk : ∀ n, d ≠ .k n) (w : Word)
    (hw : val ((s.groupAt l.ref).setSplit l.ref.split { s.splitAt l.ref with pc := l.next }) (l.self s) (s.activeSet l mask) = w) :
    ∃ t, onceOrLanes name mask d srcs val s = .next t ∧ s.Writes t l mask d (fun _ => w) := by
  refine writes_of_writeOpnd s l h _ name mask d (fun _ => w) ?_
  have ha : ((s.groupAt l.ref).setSplit l.ref.split { s.splitAt l.ref with pc := l.next }).active (l.self s) mask = s.activeSet l mask := rfl
  simp only [hu, Latch.self_advance s l h, Bool.false_eq_true, if_false, State.groupAt_advance, ha, hw]
  cases d with
  | k n => exact absurd rfl (hk n)
  | _ => rfl

end Sys2Proof.Machine
end

