-- ==== Sys2Proof/Laws/PerInstr.lean ====
section
/-! SUPPORT. Per-instruction laws: the words of each instruction decode to it; an event has no words. -/

namespace Sys2Proof.Laws.Encodes

open Sys2Proof.Machine

/-- Every well-formed instruction is what its words decode to, whatever stands after a single word (R58, R78). -/
def Statement (i : Instr) : Prop :=
  ∀ (cx : DecodeCtx) (ext : Word) (f : Fields), i.wf cx = true → instrFields i = some f →
    decodeWords cx f.base (if f.x = 1 then f.ext else ext) = .ok i

theorem nop (f : RegForm) : Statement (.nop f) :=
  reg_encodes 0x01 f (.nop f) (by decide) (by decide) rfl (fun _ => rfl)

theorem jmp (f : BranchForm) : Statement (.jmp f) :=
  branch_encodes 0x02 f (.jmp f) (by decide) (by decide) rfl (fun _ => rfl)

theorem bru (f : BranchForm) : Statement (.bru f) :=
  branch_encodes 0x03 f (.bru f) (by decide) (by decide) rfl (fun _ => rfl)

theorem brd (f : BranchForm) : Statement (.brd f) :=
  branch_encodes 0x04 f (.brd f) (by decide) (by decide) rfl (fun _ => rfl)

theorem rcv (f : RegForm) : Statement (.rcv f) :=
  reg_encodes 0x05 f (.rcv f) (by decide) (by decide) rfl (fun _ => rfl)

theorem call (f : BranchForm) : Statement (.call f) :=
  branch_encodes 0x06 f (.call f) (by decide) (by decide) rfl (fun _ => rfl)

theorem ret (f : RegForm) : Statement (.ret f) :=
  reg_encodes 0x07 f (.ret f) (by decide) (by decide) rfl (fun _ => rfl)

theorem jmpi (f : RegForm) : Statement (.jmpi f) :=
  reg_encodes 0x08 f (.jmpi f) (by decide) (by decide) rfl (fun _ => rfl)

theorem exit (f : RegForm) : Statement (.exit f) :=
  reg_encodes 0x09 f (.exit f) (by decide) (by decide) rfl (fun _ => rfl)

theorem demote (f : RegForm) : Statement (.demote f) :=
  reg_encodes 0x0A f (.demote f) (by decide) (by decide) rfl (fun _ => rfl)

theorem yield (f : RegForm) : Statement (.yield f) :=
  reg_encodes 0x0B f (.yield f) (by decide) (by decide) rfl (fun _ => rfl)

theorem brx (f : BranchForm) : Statement (.brx f) :=
  branch_encodes 0x0C f (.brx f) (by decide) (by decide) rfl (fun _ => rfl)

theorem join (f : RegForm) : Statement (.join f) :=
  reg_encodes 0x0D f (.join f) (by decide) (by decide) rfl (fun _ => rfl)

theorem trap (f : RegForm) : Statement (.trap f) :=
  reg_encodes 0x0E f (.trap f) (by decide) (by decide) rfl (fun _ => rfl)

theorem bkpt (f : RegForm) : Statement (.bkpt f) :=
  reg_encodes 0x0F f (.bkpt f) (by decide) (by decide) rfl (fun _ => rfl)

theorem iadd (f : RegForm) : Statement (.iadd f) :=
  reg_encodes 0x10 f (.iadd f) (by decide) (by decide) rfl (fun _ => rfl)

theorem isub (f : RegForm) : Statement (.isub f) :=
  reg_encodes 0x11 f (.isub f) (by decide) (by decide) rfl (fun _ => rfl)

theorem imul (f : RegForm) : Statement (.imul f) :=
  reg_encodes 0x12 f (.imul f) (by decide) (by decide) rfl (fun _ => rfl)

theorem imulh (f : RegForm) : Statement (.imulh f) :=
  reg_encodes 0x13 f (.imulh f) (by decide) (by decide) rfl (fun _ => rfl)

theorem imad (f : RegForm) : Statement (.imad f) :=
  reg_encodes 0x14 f (.imad f) (by decide) (by decide) rfl (fun _ => rfl)

theorem idiv (f : RegForm) : Statement (.idiv f) :=
  reg_encodes 0x15 f (.idiv f) (by decide) (by decide) rfl (fun _ => rfl)

theorem irem (f : RegForm) : Statement (.irem f) :=
  reg_encodes 0x16 f (.irem f) (by decide) (by decide) rfl (fun _ => rfl)

theorem imin (f : RegForm) : Statement (.imin f) :=
  reg_encodes 0x17 f (.imin f) (by decide) (by decide) rfl (fun _ => rfl)

theorem imax (f : RegForm) : Statement (.imax f) :=
  reg_encodes 0x18 f (.imax f) (by decide) (by decide) rfl (fun _ => rfl)

theorem iabs (f : RegForm) : Statement (.iabs f) :=
  reg_encodes 0x19 f (.iabs f) (by decide) (by decide) rfl (fun _ => rfl)

theorem ineg (f : RegForm) : Statement (.ineg f) :=
  reg_encodes 0x1A f (.ineg f) (by decide) (by decide) rfl (fun _ => rfl)

theorem icmp (f : RegForm) : Statement (.icmp f) :=
  reg_encodes 0x1B f (.icmp f) (by decide) (by decide) rfl (fun _ => rfl)

theorem isel (f : RegForm) : Statement (.isel f) :=
  reg_encodes 0x1C f (.isel f) (by decide) (by decide) rfl (fun _ => rfl)

theorem and (f : RegForm) : Statement (.and f) :=
  reg_encodes 0x1D f (.and f) (by decide) (by decide) rfl (fun _ => rfl)

theorem or (f : RegForm) : Statement (.or f) :=
  reg_encodes 0x1E f (.or f) (by decide) (by decide) rfl (fun _ => rfl)

theorem xor (f : RegForm) : Statement (.xor f) :=
  reg_encodes 0x1F f (.xor f) (by decide) (by decide) rfl (fun _ => rfl)

theorem tlog (f : RegForm) : Statement (.tlog f) :=
  reg_encodes 0x20 f (.tlog f) (by decide) (by decide) rfl (fun _ => rfl)

theorem shl (f : RegForm) : Statement (.shl f) :=
  reg_encodes 0x21 f (.shl f) (by decide) (by decide) rfl (fun _ => rfl)

theorem shr (f : RegForm) : Statement (.shr f) :=
  reg_encodes 0x22 f (.shr f) (by decide) (by decide) rfl (fun _ => rfl)

theorem sar (f : RegForm) : Statement (.sar f) :=
  reg_encodes 0x23 f (.sar f) (by decide) (by decide) rfl (fun _ => rfl)

theorem rotl (f : RegForm) : Statement (.rotl f) :=
  reg_encodes 0x24 f (.rotl f) (by decide) (by decide) rfl (fun _ => rfl)

theorem shfn (f : RegForm) : Statement (.shfn f) :=
  reg_encodes 0x25 f (.shfn f) (by decide) (by decide) rfl (fun _ => rfl)

theorem bext (f : RegForm) : Statement (.bext f) :=
  reg_encodes 0x26 f (.bext f) (by decide) (by decide) rfl (fun _ => rfl)

theorem bins (f : RegForm) : Statement (.bins f) :=
  reg_encodes 0x27 f (.bins f) (by decide) (by decide) rfl (fun _ => rfl)

theorem popc (f : RegForm) : Statement (.popc f) :=
  reg_encodes 0x28 f (.popc f) (by decide) (by decide) rfl (fun _ => rfl)

theorem clz (f : RegForm) : Statement (.clz f) :=
  reg_encodes 0x29 f (.clz f) (by decide) (by decide) rfl (fun _ => rfl)

theorem ctz (f : RegForm) : Statement (.ctz f) :=
  reg_encodes 0x2A f (.ctz f) (by decide) (by decide) rfl (fun _ => rfl)

theorem brev (f : RegForm) : Statement (.brev f) :=
  reg_encodes 0x2B f (.brev f) (by decide) (by decide) rfl (fun _ => rfl)

theorem lea (f : RegForm) : Statement (.lea f) :=
  reg_encodes 0x2C f (.lea f) (by decide) (by decide) rfl (fun _ => rfl)

theorem mov (f : RegForm) : Statement (.mov f) :=
  reg_encodes 0x2D f (.mov f) (by decide) (by decide) rfl (fun _ => rfl)

theorem movi (f : ImmForm) : Statement (.movi f) :=
  imm_encodes 0x2E f (.movi f) (by decide) (by decide) rfl (fun _ => rfl)

theorem iaddi (f : ImmForm) : Statement (.iaddi f) :=
  imm_encodes 0x2F f (.iaddi f) (by decide) (by decide) rfl (fun _ => rfl)

theorem imuli (f : ImmForm) : Statement (.imuli f) :=
  imm_encodes 0x30 f (.imuli f) (by decide) (by decide) rfl (fun _ => rfl)

theorem andi (f : ImmForm) : Statement (.andi f) :=
  imm_encodes 0x31 f (.andi f) (by decide) (by decide) rfl (fun _ => rfl)

theorem ori (f : ImmForm) : Statement (.ori f) :=
  imm_encodes 0x32 f (.ori f) (by decide) (by decide) rfl (fun _ => rfl)

theorem xori (f : ImmForm) : Statement (.xori f) :=
  imm_encodes 0x33 f (.xori f) (by decide) (by decide) rfl (fun _ => rfl)

theorem shli (f : ImmForm) : Statement (.shli f) :=
  imm_encodes 0x34 f (.shli f) (by decide) (by decide) rfl (fun _ => rfl)

theorem shri (f : ImmForm) : Statement (.shri f) :=
  imm_encodes 0x35 f (.shri f) (by decide) (by decide) rfl (fun _ => rfl)

theorem sari (f : ImmForm) : Statement (.sari f) :=
  imm_encodes 0x36 f (.sari f) (by decide) (by decide) rfl (fun _ => rfl)

theorem icmpi (f : ImmForm) : Statement (.icmpi f) :=
  imm_encodes 0x37 f (.icmpi f) (by decide) (by decide) rfl (fun _ => rfl)

theorem klog (f : RegForm) : Statement (.klog f) :=
  reg_encodes 0x38 f (.klog f) (by decide) (by decide) rfl (fun _ => rfl)

theorem kmov (f : RegForm) : Statement (.kmov f) :=
  reg_encodes 0x39 f (.kmov f) (by decide) (by decide) rfl (fun _ => rfl)

theorem kpop (f : RegForm) : Statement (.kpop f) :=
  reg_encodes 0x3A f (.kpop f) (by decide) (by decide) rfl (fun _ => rfl)

theorem kfind (f : RegForm) : Statement (.kfind f) :=
  reg_encodes 0x3B f (.kfind f) (by decide) (by decide) rfl (fun _ => rfl)

theorem srd (f : RegForm) : Statement (.srd f) :=
  reg_encodes 0x3C f (.srd f) (by decide) (by decide) rfl (fun _ => rfl)

theorem swr (f : RegForm) : Statement (.swr f) :=
  reg_encodes 0x3D f (.swr f) (by decide) (by decide) rfl (fun _ => rfl)

theorem pick (f : RegForm) : Statement (.pick f) :=
  reg_encodes 0x3E f (.pick f) (by decide) (by decide) rfl (fun _ => rfl)

theorem fadd (f : FmtForm) : Statement (.fadd f) :=
  fmt_encodes 0x40 f (.fadd f) (by decide) (by decide) rfl (fun _ => rfl)

theorem fsub (f : FmtForm) : Statement (.fsub f) :=
  fmt_encodes 0x41 f (.fsub f) (by decide) (by decide) rfl (fun _ => rfl)

theorem fmul (f : FmtForm) : Statement (.fmul f) :=
  fmt_encodes 0x42 f (.fmul f) (by decide) (by decide) rfl (fun _ => rfl)

theorem fmad (f : FmtForm) : Statement (.fmad f) :=
  fmt_encodes 0x43 f (.fmad f) (by decide) (by decide) rfl (fun _ => rfl)

theorem fdiv (f : FmtForm) : Statement (.fdiv f) :=
  fmt_encodes 0x44 f (.fdiv f) (by decide) (by decide) rfl (fun _ => rfl)

theorem fsqrt (f : FmtForm) : Statement (.fsqrt f) :=
  fmt_encodes 0x45 f (.fsqrt f) (by decide) (by decide) rfl (fun _ => rfl)

theorem frcp (f : FmtForm) : Statement (.frcp f) :=
  fmt_encodes 0x46 f (.frcp f) (by decide) (by decide) rfl (fun _ => rfl)

theorem frsq (f : FmtForm) : Statement (.frsq f) :=
  fmt_encodes 0x47 f (.frsq f) (by decide) (by decide) rfl (fun _ => rfl)

theorem fexp2 (f : FmtForm) : Statement (.fexp2 f) :=
  fmt_encodes 0x48 f (.fexp2 f) (by decide) (by decide) rfl (fun _ => rfl)

theorem flog2 (f : FmtForm) : Statement (.flog2 f) :=
  fmt_encodes 0x49 f (.flog2 f) (by decide) (by decide) rfl (fun _ => rfl)

theorem fmin (f : FmtForm) : Statement (.fmin f) :=
  fmt_encodes 0x4A f (.fmin f) (by decide) (by decide) rfl (fun _ => rfl)

theorem fmax (f : FmtForm) : Statement (.fmax f) :=
  fmt_encodes 0x4B f (.fmax f) (by decide) (by decide) rfl (fun _ => rfl)

theorem fsgn (f : FmtForm) : Statement (.fsgn f) :=
  fmt_encodes 0x4C f (.fsgn f) (by decide) (by decide) rfl (fun _ => rfl)

theorem fcmp (f : FmtForm) : Statement (.fcmp f) :=
  fmt_encodes 0x4D f (.fcmp f) (by decide) (by decide) rfl (fun _ => rfl)

theorem fclass (f : FmtForm) : Statement (.fclass f) :=
  fmt_encodes 0x4E f (.fclass f) (by decide) (by decide) rfl (fun _ => rfl)

theorem fcmpk (f : FmtForm) : Statement (.fcmpk f) :=
  fmt_encodes 0x4F f (.fcmpk f) (by decide) (by decide) rfl (fun _ => rfl)

theorem fsel (f : FmtForm) : Statement (.fsel f) :=
  fmt_encodes 0x50 f (.fsel f) (by decide) (by decide) rfl (fun _ => rfl)

theorem fdot (f : FmtForm) : Statement (.fdot f) :=
  fmt_encodes 0x51 f (.fdot f) (by decide) (by decide) rfl (fun _ => rfl)

theorem fsum (f : FmtForm) : Statement (.fsum f) :=
  fmt_encodes 0x52 f (.fsum f) (by decide) (by decide) rfl (fun _ => rfl)

theorem fcvt (f : FmtForm) : Statement (.fcvt f) :=
  fmt_encodes 0x53 f (.fcvt f) (by decide) (by decide) rfl (fun _ => rfl)

theorem fcvti (f : FmtForm) : Statement (.fcvti f) :=
  fmt_encodes 0x54 f (.fcvti f) (by decide) (by decide) rfl (fun _ => rfl)

theorem fscl (f : FmtForm) : Statement (.fscl f) :=
  fmt_encodes 0x55 f (.fscl f) (by decide) (by decide) rfl (fun _ => rfl)

theorem fbscl (f : FmtForm) : Statement (.fbscl f) :=
  fmt_encodes 0x57 f (.fbscl f) (by decide) (by decide) rfl (fun _ => rfl)

theorem famax (f : FmtForm) : Statement (.famax f) :=
  fmt_encodes 0x58 f (.famax f) (by decide) (by decide) rfl (fun _ => rfl)

theorem ffrc (f : FmtForm) : Statement (.ffrc f) :=
  fmt_encodes 0x59 f (.ffrc f) (by decide) (by decide) rfl (fun _ => rfl)

theorem fdef (f : RegForm) : Statement (.fdef f) :=
  reg_encodes 0x5A f (.fdef f) (by decide) (by decide) rfl (fun _ => rfl)

theorem fdrd (f : RegForm) : Statement (.fdrd f) :=
  reg_encodes 0x5B f (.fdrd f) (by decide) (by decide) rfl (fun _ => rfl)

theorem shfl (f : RegForm) : Statement (.shfl f) :=
  reg_encodes 0x60 f (.shfl f) (by decide) (by decide) rfl (fun _ => rfl)

theorem eperm (f : RegForm) : Statement (.eperm f) :=
  reg_encodes 0x61 f (.eperm f) (by decide) (by decide) rfl (fun _ => rfl)

theorem ired (f : RegForm) : Statement (.ired f) :=
  reg_encodes 0x62 f (.ired f) (by decide) (by decide) rfl (fun _ => rfl)

theorem fred (f : FmtForm) : Statement (.fred f) :=
  fmt_encodes 0x63 f (.fred f) (by decide) (by decide) rfl (fun _ => rfl)

theorem iscan (f : RegForm) : Statement (.iscan f) :=
  reg_encodes 0x64 f (.iscan f) (by decide) (by decide) rfl (fun _ => rfl)

theorem fscan (f : FmtForm) : Statement (.fscan f) :=
  fmt_encodes 0x65 f (.fscan f) (by decide) (by decide) rfl (fun _ => rfl)

theorem vote (f : RegForm) : Statement (.vote f) :=
  reg_encodes 0x66 f (.vote f) (by decide) (by decide) rfl (fun _ => rfl)

theorem matchLanes (f : RegForm) : Statement (.matchLanes f) :=
  reg_encodes 0x67 f (.matchLanes f) (by decide) (by decide) rfl (fun _ => rfl)

theorem rng (f : RegForm) : Statement (.rng f) :=
  reg_encodes 0x68 f (.rng f) (by decide) (by decide) rfl (fun _ => rfl)

theorem rngseed (f : RegForm) : Statement (.rngseed f) :=
  reg_encodes 0x69 f (.rngseed f) (by decide) (by decide) rfl (fun _ => rfl)

theorem elect (f : RegForm) : Statement (.elect f) :=
  reg_encodes 0x6A f (.elect f) (by decide) (by decide) rfl (fun _ => rfl)

theorem ld (f : MemForm) : Statement (.ld f) :=
  mem_encodes 0x70 f (.ld f) (by decide) (by decide) rfl (fun _ => rfl)

theorem st (f : MemForm) : Statement (.st f) :=
  mem_encodes 0x71 f (.st f) (by decide) (by decide) rfl (fun _ => rfl)

theorem ldp (f : MemForm) : Statement (.ldp f) :=
  mem_encodes 0x72 f (.ldp f) (by decide) (by decide) rfl (fun _ => rfl)

theorem stp (f : MemForm) : Statement (.stp f) :=
  mem_encodes 0x73 f (.stp f) (by decide) (by decide) rfl (fun _ => rfl)

theorem ldv (f : MemForm) : Statement (.ldv f) :=
  mem_encodes 0x74 f (.ldv f) (by decide) (by decide) rfl (fun _ => rfl)

theorem stv (f : MemForm) : Statement (.stv f) :=
  mem_encodes 0x75 f (.stv f) (by decide) (by decide) rfl (fun _ => rfl)

theorem ldbk (f : MemForm) : Statement (.ldbk f) :=
  mem_encodes 0x76 f (.ldbk f) (by decide) (by decide) rfl (fun _ => rfl)

theorem stbk (f : MemForm) : Statement (.stbk f) :=
  mem_encodes 0x77 f (.stbk f) (by decide) (by decide) rfl (fun _ => rfl)

theorem ldu (f : MemForm) : Statement (.ldu f) :=
  mem_encodes 0x78 f (.ldu f) (by decide) (by decide) rfl (fun _ => rfl)

theorem stu (f : MemForm) : Statement (.stu f) :=
  mem_encodes 0x79 f (.stu f) (by decide) (by decide) rfl (fun _ => rfl)

theorem prf (f : MemForm) : Statement (.prf f) :=
  mem_encodes 0x7A f (.prf f) (by decide) (by decide) rfl (fun _ => rfl)

theorem cmnt (f : MemForm) : Statement (.cmnt f) :=
  mem_encodes 0x7B f (.cmnt f) (by decide) (by decide) rfl (fun _ => rfl)

theorem atom (f : MemForm) : Statement (.atom f) :=
  mem_encodes 0x90 f (.atom f) (by decide) (by decide) rfl (fun _ => rfl)

theorem acas (f : MemForm) : Statement (.acas f) :=
  mem_encodes 0x91 f (.acas f) (by decide) (by decide) rfl (fun _ => rfl)

theorem fatom (f : MemForm) : Statement (.fatom f) :=
  mem_encodes 0x92 f (.fatom f) (by decide) (by decide) rfl (fun _ => rfl)

theorem fence (f : RegForm) : Statement (.fence f) :=
  reg_encodes 0x93 f (.fence f) (by decide) (by decide) rfl (fun _ => rfl)

theorem promo (f : RegForm) : Statement (.promo f) :=
  reg_encodes 0x94 f (.promo f) (by decide) (by decide) rfl (fun _ => rfl)

theorem tbegin (f : RegForm) : Statement (.tbegin f) :=
  reg_encodes 0x95 f (.tbegin f) (by decide) (by decide) rfl (fun _ => rfl)

theorem tcommit (f : RegForm) : Statement (.tcommit f) :=
  reg_encodes 0x96 f (.tcommit f) (by decide) (by decide) rfl (fun _ => rfl)

theorem tabort (f : RegForm) : Statement (.tabort f) :=
  reg_encodes 0x97 f (.tabort f) (by decide) (by decide) rfl (fun _ => rfl)

theorem ldacq (f : MemForm) : Statement (.ldacq f) :=
  mem_encodes 0x98 f (.ldacq f) (by decide) (by decide) rfl (fun _ => rfl)

theorem strel (f : MemForm) : Statement (.strel f) :=
  mem_encodes 0x99 f (.strel f) (by decide) (by decide) rfl (fun _ => rfl)

theorem bar (f : RegForm) : Statement (.bar f) :=
  reg_encodes 0xA0 f (.bar f) (by decide) (by decide) rfl (fun _ => rfl)

theorem bararv (f : RegForm) : Statement (.bararv f) :=
  reg_encodes 0xA1 f (.bararv f) (by decide) (by decide) rfl (fun _ => rfl)

theorem barwt (f : RegForm) : Statement (.barwt f) :=
  reg_encodes 0xA2 f (.barwt f) (by decide) (by decide) rfl (fun _ => rfl)

theorem waitc (f : RegForm) : Statement (.waitc f) :=
  reg_encodes 0xA3 f (.waitc f) (by decide) (by decide) rfl (fun _ => rfl)

theorem tbarv (f : RegForm) : Statement (.tbarv f) :=
  reg_encodes 0xA4 f (.tbarv f) (by decide) (by decide) rfl (fun _ => rfl)

theorem tbexp (f : RegForm) : Statement (.tbexp f) :=
  reg_encodes 0xA5 f (.tbexp f) (by decide) (by decide) rfl (fun _ => rfl)

theorem tbwait (f : RegForm) : Statement (.tbwait f) :=
  reg_encodes 0xA6 f (.tbwait f) (by decide) (by decide) rfl (fun _ => rfl)

theorem hbar (f : RegForm) : Statement (.hbar f) :=
  reg_encodes 0xA7 f (.hbar f) (by decide) (by decide) rfl (fun _ => rfl)

theorem cbld (f : RegForm) : Statement (.cbld f) :=
  reg_encodes 0xA8 f (.cbld f) (by decide) (by decide) rfl (fun _ => rfl)

theorem cbwr (f : RegForm) : Statement (.cbwr f) :=
  reg_encodes 0xA9 f (.cbwr f) (by decide) (by decide) rfl (fun _ => rfl)

theorem cbswap (f : RegForm) : Statement (.cbswap f) :=
  reg_encodes 0xAA f (.cbswap f) (by decide) (by decide) rfl (fun _ => rfl)

theorem cbbind (f : RegForm) : Statement (.cbbind f) :=
  reg_encodes 0xAB f (.cbbind f) (by decide) (by decide) rfl (fun _ => rfl)

theorem cbinv (f : RegForm) : Statement (.cbinv f) :=
  reg_encodes 0xAC f (.cbinv f) (by decide) (by decide) rfl (fun _ => rfl)

theorem cbrd (f : RegForm) : Statement (.cbrd f) :=
  reg_encodes 0xAD f (.cbrd f) (by decide) (by decide) rfl (fun _ => rfl)

theorem cbxp (f : RegForm) : Statement (.cbxp f) :=
  reg_encodes 0xAE f (.cbxp f) (by decide) (by decide) rfl (fun _ => rfl)

theorem cbsave (f : RegForm) : Statement (.cbsave f) :=
  reg_encodes 0xAF f (.cbsave f) (by decide) (by decide) rfl (fun h => by have h2 : f.mod.getLsbD 0 = false := (by simpa only [wfSave, Bool.not_eq_true'] using h); simp only [View.build, h2]; rfl)

theorem cbsaveRst (f : RegForm) : Statement (.cbsaveRst f) :=
  reg_encodes 0xAF f (.cbsaveRst f) (by decide) (by decide) rfl (fun h => by have h2 : f.mod.getLsbD 0 = true := (by simpa only [wfSave, Bool.not_eq_true'] using h); simp only [View.build, h2]; rfl)

theorem mma (f : RegForm) : Statement (.mma f) :=
  reg_encodes 0xB0 f (.mma f) (by decide) (by decide) rfl (fun _ => rfl)

theorem mmas (f : RegForm) : Statement (.mmas f) :=
  reg_encodes 0xB1 f (.mmas f) (by decide) (by decide) rfl (fun _ => rfl)

theorem mzero (f : RegForm) : Statement (.mzero f) :=
  reg_encodes 0xB2 f (.mzero f) (by decide) (by decide) rfl (fun _ => rfl)

theorem mlda (f : RegForm) : Statement (.mlda f) :=
  reg_encodes 0xB3 f (.mlda f) (by decide) (by decide) rfl (fun _ => rfl)

theorem mdrain (f : RegForm) : Statement (.mdrain f) :=
  reg_encodes 0xB4 f (.mdrain f) (by decide) (by decide) rfl (fun _ => rfl)

theorem mwait (f : RegForm) : Statement (.mwait f) :=
  reg_encodes 0xB5 f (.mwait f) (by decide) (by decide) rfl (fun _ => rfl)

theorem msel24 (f : RegForm) : Statement (.msel24 f) :=
  reg_encodes 0xB6 f (.msel24 f) (by decide) (by decide) rfl (fun _ => rfl)

theorem marm (f : RegForm) : Statement (.marm f) :=
  reg_encodes 0xB7 f (.marm f) (by decide) (by decide) rfl (fun _ => rfl)

theorem cpy (f : RegForm) : Statement (.cpy f) :=
  reg_encodes 0xC0 f (.cpy f) (by decide) (by decide) rfl (fun _ => rfl)

theorem stgadv (f : RegForm) : Statement (.stgadv f) :=
  reg_encodes 0xC1 f (.stgadv f) (by decide) (by decide) rfl (fun _ => rfl)

theorem gath (f : RegForm) : Statement (.gath f) :=
  reg_encodes 0xC2 f (.gath f) (by decide) (by decide) rfl (fun _ => rfl)

theorem scat (f : RegForm) : Statement (.scat f) :=
  reg_encodes 0xC3 f (.scat f) (by decide) (by decide) rfl (fun _ => rfl)

theorem rcpl (f : RegForm) : Statement (.rcpl f) :=
  reg_encodes 0xC4 f (.rcpl f) (by decide) (by decide) rfl (fun _ => rfl)

theorem cpyst (f : RegForm) : Statement (.cpyst f) :=
  reg_encodes 0xC5 f (.cpyst f) (by decide) (by decide) rfl (fun _ => rfl)

theorem rld (f : RegForm) : Statement (.rld f) :=
  reg_encodes 0xD0 f (.rld f) (by decide) (by decide) rfl (fun _ => rfl)

theorem rst (f : RegForm) : Statement (.rst f) :=
  reg_encodes 0xD1 f (.rst f) (by decide) (by decide) rfl (fun _ => rfl)

theorem ratom (f : RegForm) : Statement (.ratom f) :=
  reg_encodes 0xD2 f (.ratom f) (by decide) (by decide) rfl (fun _ => rfl)

theorem rcas (f : RegForm) : Statement (.rcas f) :=
  reg_encodes 0xD3 f (.rcas f) (by decide) (by decide) rfl (fun _ => rfl)

theorem rget (f : RegForm) : Statement (.rget f) :=
  reg_encodes 0xD4 f (.rget f) (by decide) (by decide) rfl (fun _ => rfl)

theorem rput (f : RegForm) : Statement (.rput f) :=
  reg_encodes 0xD5 f (.rput f) (by decide) (by decide) rfl (fun _ => rfl)

theorem rsig (f : RegForm) : Statement (.rsig f) :=
  reg_encodes 0xD6 f (.rsig f) (by decide) (by decide) rfl (fun _ => rfl)

theorem dred (f : RegForm) : Statement (.dred f) :=
  reg_encodes 0xD7 f (.dred f) (by decide) (by decide) rfl (fun _ => rfl)

theorem lnch (f : RegForm) : Statement (.lnch f) :=
  reg_encodes 0xE0 f (.lnch f) (by decide) (by decide) rfl (fun _ => rfl)

theorem lnchd (f : RegForm) : Statement (.lnchd f) :=
  reg_encodes 0xE1 f (.lnchd f) (by decide) (by decide) rfl (fun _ => rfl)

theorem lntrg (f : RegForm) : Statement (.lntrg f) :=
  reg_encodes 0xE2 f (.lntrg f) (by decide) (by decide) rfl (fun _ => rfl)

theorem gsig (f : RegForm) : Statement (.gsig f) :=
  reg_encodes 0xE3 f (.gsig f) (by decide) (by decide) rfl (fun _ => rfl)

theorem sysc (f : RegForm) : Statement (.sysc f) :=
  reg_encodes 0xE8 f (.sysc f) (by decide) (by decide) rfl (fun _ => rfl)

theorem rtt (f : RegForm) : Statement (.rtt f) :=
  reg_encodes 0xE9 f (.rtt f) (by decide) (by decide) rfl (fun _ => rfl)

theorem psafe (f : RegForm) : Statement (.psafe f) :=
  reg_encodes 0xEA f (.psafe f) (by decide) (by decide) rfl (fun _ => rfl)

theorem idem (f : RegForm) : Statement (.idem f) :=
  reg_encodes 0xEB f (.idem f) (by decide) (by decide) rfl (fun _ => rfl)

theorem slotSelect (core slot : Nat) : Statement (.slotSelect core slot) :=
  event_encodes rfl

theorem splitUrgent (r : SplitRef) : Statement (.splitUrgent r) :=
  event_encodes rfl

theorem instructionFetch (r : SplitRef) : Statement (.instructionFetch r) :=
  event_encodes rfl

theorem priResponse (djid : Nat) (va : Word) (success : Bool) : Statement (.priResponse djid va success) :=
  event_encodes rfl

theorem resultArrival (team grp id mismatches : Nat) : Statement (.resultArrival team grp id mismatches) :=
  event_encodes rfl

theorem storePerformed (e : StoreEvent) (failures : Checks) : Statement (.storePerformed e failures) :=
  event_encodes rfl

theorem deferredTrap (team grp : Nat) : Statement (.deferredTrap team grp) :=
  event_encodes rfl

theorem pagerLaunchStart (rcb : Nat) : Statement (.pagerLaunchStart rcb) :=
  event_encodes rfl

theorem pagerResponse (die : Nat) (resp : Word) : Statement (.pagerResponse die resp) :=
  event_encodes rfl

theorem pagerTimeout (die reqid : Nat) : Statement (.pagerTimeout die reqid) :=
  event_encodes rfl

theorem barstallWatchdog (r : SplitRef) : Statement (.barstallWatchdog r) :=
  event_encodes rfl

theorem waitcRelease (r : SplitRef) : Statement (.waitcRelease r) :=
  event_encodes rfl

theorem promoWritebackDone (r : SplitRef) : Statement (.promoWritebackDone r) :=
  event_encodes rfl

theorem commitArrival (team grp : Nat) : Statement (.commitArrival team grp) :=
  event_encodes rfl

theorem tcommitAnswer (team grp : Nat) : Statement (.tcommitAnswer team grp) :=
  event_encodes rfl

theorem codebookLoadDone (core : Nat) (id : Checked Nat) : Statement (.codebookLoadDone core id) :=
  event_encodes rfl

theorem matrixArrayStart (core : Checked Nat) : Statement (.matrixArrayStart core) :=
  event_encodes rfl

theorem matrixComplete (core id : Nat) : Statement (.matrixComplete core id) :=
  event_encodes rfl

theorem drainPeerTimeout (core id : Nat) : Statement (.drainPeerTimeout core id) :=
  event_encodes rfl

theorem engineOpStart (cluster tag : Nat) : Statement (.engineOpStart cluster tag) :=
  event_encodes rfl

theorem engineSectorWrite (cluster : Nat) (tag : Checked Nat) : Statement (.engineSectorWrite cluster tag) :=
  event_encodes rfl

theorem engineOpComplete (cluster tag : Nat) : Statement (.engineOpComplete cluster tag) :=
  event_encodes rfl

theorem tagSweep : Statement (.tagSweep) :=
  event_encodes rfl

theorem hbarCombinerArrival (launch scope place : Nat) : Statement (.hbarCombinerArrival launch scope place) :=
  event_encodes rfl

theorem hbarRelease (launch scope place : Nat) : Statement (.hbarRelease launch scope place) :=
  event_encodes rfl

theorem preemptRequest (team : Nat) : Statement (.preemptRequest team) :=
  event_encodes rfl

theorem preemptForceStop (team grp : Nat) : Statement (.preemptForceStop team grp) :=
  event_encodes rfl

theorem preemptSave (team : Nat) : Statement (.preemptSave team) :=
  event_encodes rfl

theorem replyToImage (p : Packet) : Statement (.replyToImage p) :=
  event_encodes rfl

theorem teamRestore (team core : Nat) : Statement (.teamRestore team core) :=
  event_encodes rfl

theorem teamPlace (die : Nat) : Statement (.teamPlace die) :=
  event_encodes rfl

theorem groupRetire (team grp : Nat) : Statement (.groupRetire team grp) :=
  event_encodes rfl

theorem launchComplete (id : Nat) : Statement (.launchComplete id) :=
  event_encodes rfl

theorem armedSuccessorStart (id : Nat) : Statement (.armedSuccessorStart id) :=
  event_encodes rfl

theorem qwrite (q : Nat) (v : Word) : Statement (.qwrite q v) :=
  event_encodes rfl

theorem qdoorCandidate (q : Nat) : Statement (.qdoorCandidate q) :=
  event_encodes rfl

theorem queueErrClear (q : Nat) : Statement (.queueErrClear q) :=
  event_encodes rfl

theorem queueLaunch (q : Nat) : Statement (.queueLaunch q) :=
  event_encodes rfl

theorem queueGraph (q : Nat) : Statement (.queueGraph q) :=
  event_encodes rfl

theorem queueWait (q : Nat) : Statement (.queueWait q) :=
  event_encodes rfl

theorem queueWaitSatisfied (q : Nat) : Statement (.queueWaitSatisfied q) :=
  event_encodes rfl

theorem queueSignal (q : Nat) : Statement (.queueSignal q) :=
  event_encodes rfl

theorem queueNop (q : Nat) : Statement (.queueNop q) :=
  event_encodes rfl

theorem queueInval (q : Nat) : Statement (.queueInval q) :=
  event_encodes rfl

theorem graphNodeArrival (inst : Nat) : Statement (.graphNodeArrival inst) :=
  event_encodes rfl

theorem graphInstanceComplete (inst : Nat) : Statement (.graphInstanceComplete inst) :=
  event_encodes rfl

theorem heldRecordPost (rcb : Nat) : Statement (.heldRecordPost rcb) :=
  event_encodes rfl

theorem msixCoalesce (rcb : Nat) : Statement (.msixCoalesce rcb) :=
  event_encodes rfl

theorem bar2Write (off : Nat) (bytes : List Byte) : Statement (.bar2Write off bytes) :=
  event_encodes rfl

theorem bar2Read (off n : Nat) : Statement (.bar2Read off n) :=
  event_encodes rfl

theorem atsInvalidate (base size : Nat) : Statement (.atsInvalidate base size) :=
  event_encodes rfl

theorem invgo (log : Nat) : Statement (.invgo log) :=
  event_encodes rfl

theorem invalidationComplete : Statement (.invalidationComplete) :=
  event_encodes rfl

theorem reqfull : Statement (.reqfull) :=
  event_encodes rfl

theorem reqbasic : Statement (.reqbasic) :=
  event_encodes rfl

theorem calibrationDone (ok : Bool) : Statement (.calibrationDone ok) :=
  event_encodes rfl

theorem calibrationTimeout : Statement (.calibrationTimeout) :=
  event_encodes rfl

theorem registerWrite (off : Nat) (v : Word) : Statement (.registerWrite off v) :=
  event_encodes rfl

theorem packageReset (images : List BootImage) (diesOk : BitVec 8) (stacksOk : BitVec 16) : Statement (.packageReset images diesOk stacksOk) :=
  event_encodes rfl

theorem recoveryImageLoad (sigOk formOk : Bool) (version : Nat) (raise : Bool) (diesOk : BitVec 8) (stacksOk : BitVec 16) : Statement (.recoveryImageLoad sigOk formOk version raise diesOk stacksOk) :=
  event_encodes rfl

theorem spdmRequest (index : Nat) : Statement (.spdmRequest index) :=
  event_encodes rfl

theorem supplyFault : Statement (.supplyFault) :=
  event_encodes rfl

theorem clockStepDown (power tinlet tjmax : Nat) : Statement (.clockStepDown power tinlet tjmax) :=
  event_encodes rfl

theorem clockStepUp (power tinlet tjmax : Nat) : Statement (.clockStepUp power tinlet tjmax) :=
  event_encodes rfl

theorem thermalTrip : Statement (.thermalTrip) :=
  event_encodes rfl

theorem scrub (die source corrected uncorrectable : Nat) (found : Scrubbed) : Statement (.scrub die source corrected uncorrectable found) :=
  event_encodes rfl

theorem fabricConfigWrite (off : Nat) (v : Word) : Statement (.fabricConfigWrite off v) :=
  event_encodes rfl

theorem rtload : Statement (.rtload) :=
  event_encodes rfl

theorem routeTableLoaded : Statement (.routeTableLoaded) :=
  event_encodes rfl

theorem pcfgWrite (p : Nat) (v : Word) : Statement (.pcfgWrite p v) :=
  event_encodes rfl

theorem lockPort (p : Nat) : Statement (.lockPort p) :=
  event_encodes rfl

theorem startPort (p : Nat) : Statement (.startPort p) :=
  event_encodes rfl

theorem stopPort (p : Nat) : Statement (.stopPort p) :=
  event_encodes rfl

theorem portStopDrained (p : Nat) : Statement (.portStopDrained p) :=
  event_encodes rfl

theorem linkTrained (p : Nat) (good : BitVec 16) : Statement (.linkTrained p good) :=
  event_encodes rfl

theorem laneFail (p lane : Nat) : Statement (.laneFail p lane) :=
  event_encodes rfl

theorem retrainComplete (p : Nat) (inTime : Bool) : Statement (.retrainComplete p inTime) :=
  event_encodes rfl

theorem portDown (p : Nat) : Statement (.portDown p) :=
  event_encodes rfl

theorem rxBankError (p bank : Nat) : Statement (.rxBankError p bank) :=
  event_encodes rfl

theorem sessionAttempt (p : Nat) (verified : Bool) (peerPkg peerPort : Nat) : Statement (.sessionAttempt p verified peerPkg peerPort) :=
  event_encodes rfl

theorem keyUpdate (p : Nat) (ok : Bool) : Statement (.keyUpdate p ok) :=
  event_encodes rfl

theorem flitReceive (p : Nat) (f : Flit) (fecOk tagOk : Bool) : Statement (.flitReceive p f fecOk tagOk) :=
  event_encodes rfl

theorem idleMsg (p : Nat) : Statement (.idleMsg p) :=
  event_encodes rfl

theorem replayMsg (p seq : Nat) : Statement (.replayMsg p seq) :=
  event_encodes rfl

theorem vcadvMsg (p top : Nat) : Statement (.vcadvMsg p top) :=
  event_encodes rfl

theorem spdmMsg (p : Nat) (bytes : List Byte) : Statement (.spdmMsg p bytes) :=
  event_encodes rfl

theorem resumeMsg (p seq : Nat) : Statement (.resumeMsg p seq) :=
  event_encodes rfl

theorem stateMsg (p lstate : Nat) : Statement (.stateMsg p lstate) :=
  event_encodes rfl

theorem peerSilenceTimeout (p : Nat) : Statement (.peerSilenceTimeout p) :=
  event_encodes rfl

theorem packetRoute : Statement (.packetRoute) :=
  event_encodes rfl

theorem loadReq (p : Packet) : Statement (.loadReq p) :=
  event_encodes rfl

theorem storeReq (p : Checked Packet) : Statement (.storeReq p) :=
  event_encodes rfl

theorem atomicReq (p : Packet) : Statement (.atomicReq p) :=
  event_encodes rfl

theorem casReq (p : Packet) : Statement (.casReq p) :=
  event_encodes rfl

theorem tbarriveReq (p : Packet) : Statement (.tbarriveReq p) :=
  event_encodes rfl

theorem getreadReq (p : Packet) : Statement (.getreadReq p) :=
  event_encodes rfl

theorem putwriteReq (p : Checked Packet) : Statement (.putwriteReq p) :=
  event_encodes rfl

theorem drainReq (p : Packet) : Statement (.drainReq p) :=
  event_encodes rfl

theorem txlineReq (p : Packet) : Statement (.txlineReq p) :=
  event_encodes rfl

theorem txcommitReq (p : Packet) : Statement (.txcommitReq p) :=
  event_encodes rfl

theorem reducePkt (p : Packet) : Statement (.reducePkt p) :=
  event_encodes rfl

theorem dredResult (launch : Nat) : Statement (.dredResult launch) :=
  event_encodes rfl

theorem dredPhaseTimeout (launch : Nat) : Statement (.dredPhaseTimeout launch) :=
  event_encodes rfl

theorem remoteResponse (p : Packet) : Statement (.remoteResponse p) :=
  event_encodes rfl

theorem requestResend (dest cls eseq : Nat) : Statement (.requestResend dest cls eseq) :=
  event_encodes rfl

theorem remoteTimeout (dest cls eseq : Nat) : Statement (.remoteTimeout dest cls eseq) :=
  event_encodes rfl

theorem atsCompletion (pa : Nat) (host : Option Nat) : Statement (.atsCompletion pa host) :=
  event_encodes rfl

end Sys2Proof.Laws.Encodes
end

