-- ==== Sys2Proof/Tests/Slice0.lean ====
section
/-! SUPPORT. Tests: ill-formed terms, words of the spec decoded, one step of each kind of instruction with results worked out from the spec's rules and examples, and for each statement a state that meets its hypotheses. -/

open Sys2Proof Sys2Proof.Machine Host

namespace Sys2Proof.Tests

set_option Elab.async false
set_option maxRecDepth 20000

/-! ### Forms with every field zero -/

def rf : RegForm := { la := 0, fs := 0, mask := .none, d := .lit 0, a := .lit 0, b := .lit 0, c := .lit 0, mod := 0 }
def imf : ImmForm := { fs := 0, mask := .none, d := .lit 0, a := .lit 0, imm := 0, long := false }
def bf : BranchForm := { fs := 0, mask := .none, d := .lit 0, a := .lit 0, off := 0, recv := none }
def mf : MemForm :=
  { la := 0, fs := 0, mask := .none, d := .lit 0, a := .lit 0, b := .lit 0, c := .lit 0, space := .glob, size := 0, cache := 0, order := .plain, sx := false, disp := none }
def ff : FmtForm :=
  { la := 0, slot := 0, mask := .none, d := .lit 0, a := .lit 0, b := .lit 0, c := .lit 0, xa := false, xb := false, bank := 0, iw := 0, npi := 0, neg := false }

/-! ### Well-formedness: each check has a term that it refuses -/

/-- Terms that pass every check. -/
theorem test_wf_accepts : (Instr.iadd { rf with d := .v 1, a := .v 2, b := .g 3 }).wf tableCtx = true ∧
    (Instr.ld { mf with d := .v 5, a := .g 4, b := .v 2, size := 3, disp := some 64 }).wf tableCtx = true ∧
    (Instr.fmad { ff with slot := 3, d := .v 4, a := .v 1, b := .v 2, c := .v 3 }).wf tableCtx = true := by decide +kernel

/-- An operand that holds no register where one is required, or a register where none may stand (R61, R62). -/
theorem test_wf_operand : (Instr.iadd { rf with d := .v 1, a := .lit 5, b := .v 2 }).wf tableCtx = false ∧
    (Instr.nop { rf with d := .v 1 }).wf tableCtx = false := by decide +kernel

/-- A short immediate of 27 bits that is not the sign extension of its field (R64). -/
theorem test_wf_short_immediate : (Instr.iaddi { imf with d := .v 1, a := .v 1, imm := 0x4000000 }).wf tableCtx = false ∧
    (Instr.iaddi { imf with d := .v 1, a := .v 1, imm := 0x3FFFFFF }).wf tableCtx = true := by decide +kernel

/-- LA on an instruction that takes none (R71, cause 0x02), and an extension word where none may stand (R76, cause 0x03). -/
theorem test_wf_lookahead_and_extension : (Instr.iadd { rf with la := 1, d := .v 1, a := .v 2, b := .v 3 }).wf tableCtx = false ∧
    (Instr.jmp { bf with recv := some 1 }).wf tableCtx = false := by decide +kernel

/-- A reserved field value (R78, cause 0x04), a register outside the allocation (0x05), a mask on a g-register destination (0x06), and a class that the position does not take (0x07). -/
theorem test_wf_fields : (Instr.icmp { rf with fs := 10, d := .v 1, a := .v 2, b := .v 3 }).wf tableCtx = false ∧
    (Instr.iadd { rf with d := .v 100, a := .v 2, b := .v 3 }).wf { tableCtx with alloc := 64 } = false ∧
    (Instr.iadd { rf with mask := ⟨false, 1⟩, d := .g 1, a := .g 2, b := .g 3 }).wf tableCtx = false ∧
    (Instr.fmad { ff with d := .k 1, a := .v 1, b := .v 2, c := .v 3 }).wf tableCtx = false := by decide +kernel

/-- RTT outside a handler, and a bank that the launch does not have (R78, cause 0x08). -/
theorem test_wf_context : (Instr.rtt rf).wf { tableCtx with inHandler := false } = false ∧ (Instr.cbswap rf).wf { tableCtx with banks := 0 } = false := by decide +kernel

/-- CBSAVE with RST set is the other row (R281); an event has no encoding. -/
theorem test_wf_save_and_event : (Instr.cbsave { rf with a := .g 1, mod := 1 }).wf tableCtx = false ∧ (Instr.cbsaveRst { rf with a := .g 1, mod := 1 }).wf tableCtx = true ∧
    (Instr.slotSelect 0 0).wf tableCtx = false := by decide +kernel

/-! ### Words that the spec writes out -/

/-- `jmp` 40 bytes back (worked encodings), `bru.nez g11` (chapter 15), `(k1) brx.any` (chapter 14), `rcv`, `exit` (chapters 4, 5). -/
theorem test_decode_control : decodeTableWord 64 0x020000000FFFFFF6 = some (.jmp { bf with off := -5 }) ∧
    decodeTableWord 64 0x0301000CBFFFFFE6 = some (.bru { bf with fs := 1, a := .g 11, off := -13 }) ∧
    decodeTableWord 64 0x0C0010000FFFFFEA = some (.brx { bf with mask := ⟨false, 1⟩, off := -11 }) ∧
    decodeTableWord 64 0x0500000000000000 = some (.rcv rf) ∧ decodeTableWord 64 0x0900000000000000 = some (.exit rf) := by decide +kernel

/-- `(k1) brd else_, join_` at 0x100 with `else_` at 0x120 and `join_` at 0x128 (chapter 5). -/
theorem test_decode_brd : decodeTableWord 128 0x00000000000000050400100000000009 = some (.brd { bf with mask := ⟨false, 1⟩, off := 4, recv := some 5 }) := by decide +kernel

/-- `iaddi v7, v7, -1` (worked encodings), `iaddi v2, v0, 100` and `srd v0, TID` (chapter 4). -/
theorem test_decode_integer : decodeTableWord 64 0x2F0000707FFFFFFE = some (.iaddi { imf with d := .v 7, a := .v 7, imm := -1 }) ∧
    decodeTableWord 64 0x2F000020000000C8 = some (.iaddi { imf with d := .v 2, a := .v 0, imm := 100 }) ∧ decodeTableWord 64 0x3C00000000000000 = some (.srd { rf with d := .v 0 }) := by
  decide +kernel

/-- `fmad.f3 v4, v1, v2, v3` (worked encodings), `fcvt.f3.f0.p2 v7, v3` and `fdef f12, g9` (R168), `fmul.f5.xb.cb2.iw6.epi4 v8, v1, v3` (R268), `fred.f0 g8, v7` (chapter 15). -/
theorem test_decode_format : decodeTableWord 64 0x4303004010203000 = some (.fmad { ff with slot := 3, d := .v 4, a := .v 1, b := .v 2, c := .v 3 }) ∧
    decodeTableWord 64 0x5303007030020000 = some (.fcvt { ff with slot := 3, d := .v 7, a := .v 3, c := .lit 0x20 }) ∧
    decodeTableWord 64 0x5A0C000C90000000 = some (.fdef { rf with fs := 12, a := .g 9 }) ∧
    decodeTableWord 64 0x4205008010300548 = some (.fmul { ff with slot := 5, d := .v 8, a := .v 1, b := .v 3, xb := true, bank := 2, iw := 4, npi := 2 }) ∧
    decodeTableWord 64 0x63000C8070000000 = some (.fred { ff with d := .g 8, a := .v 7 }) := by decide +kernel

/-- `ld.b64 v5, [g4 + v2*8 + 64]` (worked encodings), `ld.b64.la1 v1, [g0 + v0*8]` (chapter 4), `ldp.f1.la1 v1, [g0 + g2]` (chapter 14), `st.b128.s [g9], v6` (chapter 17), `atom.add.b64 vz, [g2 + v1*8], v3` (R234). -/
theorem test_decode_memory : decodeTableWord 128 0x00000000000000407000005C40200181 = some (.ld { mf with d := .v 5, a := .g 4, b := .v 2, size := 3, disp := some 64 }) ∧
    decodeTableWord 64 0x7010001C00000180 = some (.ld { mf with la := 1, d := .v 1, a := .g 0, b := .v 0, size := 3 }) ∧
    decodeTableWord 64 0x7211001C0C2FF300 = some (.ldp { mf with la := 1, fs := 1, d := .v 1, a := .g 0, b := .g 2, c := .vz, size := 6 }) ∧
    decodeTableWord 64 0x7100006C9FF00600 = some (.st { mf with d := .v 6, a := .g 9, b := .vz, space := .scratch, size := 4 }) ∧
    decodeTableWord 64 0x90000FFC20103184 = some (.atom { mf with d := .vz, a := .g 2, b := .v 1, c := .v 3, size := 3, order := .relaxed }) := by decide +kernel

/-- `bar 3` (R249), `tbexp.arv vz, [g9], g13` and `tbwait vz, [g9], vz` (chapter 17), `hbar.die` (R405). -/
theorem test_decode_barriers : decodeTableWord 64 0xA00000000FF00006 = some (.bar { rf with b := .vz, mod := 3 }) ∧
    decodeTableWord 64 0xA5000FFC9CD00002 = some (.tbexp { rf with d := .vz, a := .g 9, b := .g 13, mod := 1 }) ∧
    decodeTableWord 64 0xA6000FFC9FF00000 = some (.tbwait { rf with d := .vz, a := .g 9, b := .vz }) ∧ decodeTableWord 64 0xA703000000000000 = some (.hbar { rf with fs := 3 }) := by
  decide +kernel

/-- `mma acc1, vz, g4, g5` (R291); `cbswap cb5`, OP 0xAA and the bank in FS (R270). -/
theorem test_decode_matrix_and_codebook : decodeTableWord 64 0xB0010FFC4C500000 = some (.mma { rf with fs := 1, d := .vz, a := .g 4, b := .g 5 }) ∧
    decodeTableWord 64 0xAA05000000000000 = some (.cbswap { rf with fs := 5 }) := by decide +kernel

/-- `cpy g8, g4, 2` and `gath.b64.strict g9, g12, g5, g6` (R364), `rcpl 2, [g0]` (chapter 17). -/
theorem test_decode_engine : decodeTableWord 64 0xC0020C8C40000000 = some (.cpy { rf with fs := 2, d := .g 8, a := .g 4 }) ∧
    decodeTableWord 64 0xC2000C9CCC5C6182 = some (.gath { rf with d := .g 9, a := .g 12, b := .g 5, c := .g 6, mod := 0xC1 }) ∧
    decodeTableWord 64 0xC402000C00000000 = some (.rcpl { rf with fs := 2, a := .g 0 }) := by decide +kernel

/-- `rld.b64.la1 v5, g9, [v2]`, `rst.b64.rel.dom g9, [v2], v3`, `rput g12, g4`, `rsig g9, g10`, `dred.fadd.b32 v6, v2` (R466). -/
theorem test_decode_fabric : decodeTableWord 64 0xD010005C90200180 = some (.rld { rf with la := 1, d := .v 5, a := .g 9, b := .v 2, mod := 0xC0 }) ∧
    decodeTableWord 64 0xD105003C9020018C = some (.rst { rf with fs := 5, d := .v 3, a := .g 9, b := .v 2, mod := 0xC6 }) ∧
    decodeTableWord 64 0xD5000CCC40000000 = some (.rput { rf with d := .g 12, a := .g 4 }) ∧ decodeTableWord 64 0xD600000C9CAFF000 = some (.rsig { rf with a := .g 9, b := .g 10, c := .vz }) ∧
    decodeTableWord 64 0xD70100602FF00100 = some (.dred { rf with fs := 1, d := .v 6, a := .v 2, b := .vz, mod := 0x80 }) := by decide +kernel

/-- `lnch.pkg g9, [g10]`, `lnchd.pkg g9, [g10]`, `lntrg.pkg`, `gsig.pkg [g3], g4` (R442), `sysc g3, g4`, `rtt`, `psafe`, `idem.on` (R324). -/
theorem test_decode_system : decodeTableWord 64 0xE0040C9CA0000000 = some (.lnch { rf with fs := 4, d := .g 9, a := .g 10 }) ∧
    decodeTableWord 64 0xE1040C9CA0000000 = some (.lnchd { rf with fs := 4, d := .g 9, a := .g 10 }) ∧ decodeTableWord 64 0xE204000000000000 = some (.lntrg { rf with fs := 4 }) ∧
    decodeTableWord 64 0xE304000C3C400000 = some (.gsig { rf with fs := 4, a := .g 3, b := .g 4 }) ∧ decodeTableWord 64 0xE800000C3C400000 = some (.sysc { rf with a := .g 3, b := .g 4 }) ∧
    decodeTableWord 64 0xE900000000000000 = some (.rtt rf) ∧ decodeTableWord 64 0xEA00000000000000 = some (.psafe rf) ∧ decodeTableWord 64 0xEB01000000000000 = some (.idem { rf with fs := 1 }) := by
  decide +kernel

/-- Reserved words trap, and are no neighbour's: an opcode that is not assigned, a bit of C on a two-source instruction, an FS value past the conditions (R61, R75, R134). -/
theorem test_decode_rejects : decodeTableWord 64 0x3F00000000000000 = none ∧ decodeTableWord 64 0x1000001020300000 = some (.iadd { rf with d := .v 1, a := .v 2, b := .v 3 }) ∧
    decodeTableWord 64 0x1000001020304000 = none ∧ decodeTableWord 64 0x1B0A001020300000 = none := by decide +kernel

/-! ### One instruction on a small state -/

/-- The split that issues: entry 0 of group 0 of team 0, at 0x10000. -/
def here : Latch := ⟨⟨0, 0, 0⟩, 0x10000, 0, 0⟩

/-- A resident group that is issuing, with `f` applied to it. -/
def issue (f : Group → Group) : State :=
  let s := State.reset.withFetchWord 64 0
  ({ s with issueQ := [], latch := some here } : State).setGroup 0 0 (f (s.group 0 0))

/-- The state after an outcome; reset where there is none. -/
def after (o : Outcome State Fault Refusal) : State :=
  match o with
  | .next t => t
  | _ => State.reset

/-- Group 0 after an instruction. -/
def did (i : Instr) (f : Group → Group) : Group := (after (exec i (issue f))).group 0 0

/-- Set v-register `n` to `x` in every thread, before the registers set already. -/
def setV (n : Nat) (x : Word) (g : Group) : Group := { g with v := (List.range 32).map (fun t => (n * 32 + t, x)) ++ g.v }

/-- Set v-register `n` in each thread, before the registers set already. -/
def setVs (n : Nat) (f : Nat → Word) (g : Group) : Group := { g with v := (List.range 32).map (fun t => (n * 32 + t, f t)) ++ g.v }

/-- Set a g-register. -/
def setG (n : Nat) (x : Word) (g : Group) : Group := g.writeG n x

/-- Set a k-register. -/
def setK (n : Nat) (x : Half) (g : Group) : Group := g.writeK n x

/-- Two v-registers, v1 and v2, and the threads 0, 3, 5, 9 and 31 in k1. -/
def ab (x y : Word) (g : Group) : Group := setK 1 0x80000229 (setV 2 y (setV 1 x g))

/-- The threads in k1. -/
def m1 : Mask := ⟨false, 1⟩

/-- Thread `t` of v3 after a register-form instruction with D = v3, A = v1 and B = v2. -/
def v3 (i : RegForm → Instr) (fs : BitVec 4) (mod : BitVec 11) (x y : Word) (t : Nat) : Word :=
  (did (i { rf with fs := fs, mask := m1, mod := mod, d := .v 3, a := .v 1, b := .v 2 }) (ab x y)).readV 3 t

/-- The value pending for the one result of an instruction, in thread `t`. -/
def pending (g : Group) (t : Nat) : Option Word := g.pends.head?.map (fun p => AMap.get p.vals t 0)

/-- The step that fetches a word at 0x10000 runs it: `iaddi v7, v7, -1`; the split moves on. -/
theorem test_step_fetches : let t := after (step (State.reset.withFetchWord 64 0x2F0000707FFFFFFE))
    (t.group 0 0).readV 7 31 = 0xFFFFFFFFFFFFFFFF ∧ ((t.group 0 0).split 0).pc = 0x10008 := by decide +kernel

/-- IADD `.i32` wraps and sign-extends, and with SAT clamps; `.u32` zero-extends (R132, R135). -/
theorem test_iadd : v3 .iadd 1 0 0x7FFFFFFF 1 0 = 0xFFFFFFFF80000000 ∧ v3 .iadd 1 1 0x7FFFFFFF 1 0 = 0x7FFFFFFF ∧ v3 .iadd 3 0 0xFFFFFFFF 1 31 = 0 := by decide +kernel

/-- ISUB `.u32` with SAT stops at zero; IMUL keeps the low bits; IMULH the high ones, signed; IMIN and IMAX by type (R135). -/
theorem test_isub_imul : v3 .isub 3 1 3 5 0 = 0 ∧ v3 .isub 0 0 3 5 0 = 0xFFFFFFFFFFFFFFFE ∧ v3 .imul 0 0 0x100000000 0x100000000 0 = 0 ∧
    v3 .imulh 0 0 0xFFFFFFFFFFFFFFFF 2 0 = 0xFFFFFFFFFFFFFFFF ∧ v3 .imulh 2 0 0xFFFFFFFFFFFFFFFF 2 0 = 1 := by decide +kernel

theorem test_imin_imax : v3 .imin 0 0 0xFFFFFFFFFFFFFFFF 1 0 = 0xFFFFFFFFFFFFFFFF ∧ v3 .imin 2 0 0xFFFFFFFFFFFFFFFF 1 0 = 1 ∧ v3 .imax 0 0 0xFFFFFFFFFFFFFFFF 1 0 = 1 := by
  decide +kernel

/-- |typemin| wraps, and with SAT clamps; INEG and IMAD (R135). -/
theorem test_iabs_ineg_imad : v3 .iabs 1 0 0x80000000 0 0 = 0xFFFFFFFF80000000 ∧ v3 .iabs 1 1 0x80000000 0 0 = 0x7FFFFFFF ∧ v3 .ineg 0 0 1 0 0 = 0xFFFFFFFFFFFFFFFF ∧
    (did (.imad { rf with mask := m1, d := .v 3, a := .v 1, b := .v 2, c := .v 1 }) (ab 3 4)).readV 3 0 = 15 := by decide +kernel

/-- Division by zero gives all ones and the dividend; −7 by 2 gives −3 and −1; both results are pending (R136). -/
theorem test_idiv_irem : let q := fun (i : RegForm → Instr) (fs : BitVec 4) (x y : Word) => pending (did (i { rf with mask := m1, fs := fs, d := .v 3, a := .v 1, b := .v 2 }) (ab x y)) 5
    q .idiv 3 5 0 = some 0xFFFFFFFF ∧ q .irem 0 5 0 = some 5 ∧ q .idiv 0 (-7) 2 = some (-3) ∧ q .irem 0 (-7) 2 = some (-1) ∧ v3 .idiv 0 0 6 3 0 = 0 := by decide +kernel

/-- ICMP `.lt` signed and `.ltu`; with W32 the low halves; a k-register gets bits of active threads only (R137). -/
theorem test_icmp : v3 .icmp 2 0 0xFFFFFFFFFFFFFFFF 0 3 = 0xFFFFFFFFFFFFFFFF ∧ v3 .icmp 6 0 0xFFFFFFFFFFFFFFFF 0 3 = 0 ∧ v3 .icmp 0 1 0x100000005 5 0 = 0xFFFFFFFFFFFFFFFF ∧
    (did (.icmp { rf with fs := 4, mask := ⟨false, 1⟩, d := .k 3, a := .v 1, b := .vz }) (fun g => setK 1 0xFFFF (setK 3 0xFFFFFFFF (setVs 1 (fun t => wd ((t + 1) % 2)) g)))).readK 0 3 =
      0xFFFF5555 := by decide +kernel

/-- ISEL by a k-register and by a word (R138). -/
theorem test_isel : (did (.isel { rf with d := .v 3, a := .v 1, b := .v 2, c := .k 1 }) (fun g => setK 1 1 (ab 5 6 g))).readV 3 0 = 5 ∧
    (did (.isel { rf with mask := m1, d := .v 3, a := .v 1, b := .v 2, c := .vz }) (ab 5 6)).readV 3 0 = 6 := by decide +kernel

/-- AND, OR and XOR in 16 bits drop what lies above; (a AND b) OR c is table 0xEA (R139). -/
theorem test_logic : v3 .and 6 0 0xFFFFF0F0 0x12345678 0 = 0x5070 ∧ v3 .or 4 0 0xF0 0x0F 0 = 0xFF ∧ v3 .xor 7 0 0x1FF 0x0F 0 = 0xF0 ∧
    (did (.tlog { rf with mask := m1, fs := 4, d := .v 3, a := .v 1, b := .v 2, c := .v 4, mod := 0xEA }) (fun g => setV 4 0x100 (ab 0xFC 0x3F g))).readV 3 0 = 0x13C := by decide +kernel

/-- Shifts by the whole amount: 2^32 + 1 shifts everything out, SAR leaves the sign, ROTL takes it modulo n (R132, R140). -/
theorem test_shifts : v3 .shl 5 0 1 0x100000001 0 = 0 ∧ v3 .shr 4 0 0x8000000000000000 63 0 = 1 ∧ v3 .sar 5 0 0x80000000 40 0 = 0xFFFFFFFF ∧ v3 .rotl 7 0 0x81 9 0 = 0x03 := by decide +kernel

/-- The worked example of SHFN (R141). -/
theorem test_shfn : let f := fun (mod : BitVec 11) => (did (.shfn { rf with mask := m1, fs := 5, d := .v 3, a := .v 1, b := .v 2, c := .v 4, mod := mod }) (fun g => setV 4 8 (ab 0x12345678 0x9ABCDEF0 g))).readV 3 0
    f 0 = 0x3456789A ∧ f 1 = 0x789ABCDE := by decide +kernel

/-- BEXT with SX copies its top bit; a field past the end is cut; BINS keeps the rest of D; both with a length of zero (R142). -/
theorem test_bit_fields : let x := fun (i : RegForm → Instr) (mod : BitVec 11) (p l : Word) =>
      (did (i { rf with mask := m1, fs := 5, d := .v 3, a := .v 1, b := .v 2, c := .v 4, mod := mod }) (fun g => setV 3 0xAAAAAAAA (setV 4 l (ab 0xF0 p g)))).readV 3 0
    x .bext 1 4 4 = 0xFFFFFFFF ∧ x .bext 0 4 8 = 0xF ∧ x .bext 1 0 0 = 0 ∧ x .bins 0 28 8 = 0x0AAAAAAA ∧ x .bins 0 0 0 = 0xAAAAAAAA := by decide +kernel

/-- Counts of zero give n; BREV of 16 bits (R143). -/
theorem test_counts : v3 .popc 7 0 0x1FF 0 0 = 8 ∧ v3 .clz 5 0 0 0 0 = 32 ∧ v3 .clz 5 0 1 0 0 = 31 ∧ v3 .ctz 6 0 0 0 0 = 16 ∧ v3 .ctz 4 0 0x8000 0 0 = 15 ∧ v3 .brev 6 0 1 0 0 = 0x8000 := by
  decide +kernel

/-- LEA with a scale of 8 and the index's low half, signed; MOV; MOVI (R144, R145). -/
theorem test_moves : v3 .lea 0 0b01011 0x1000 0xFFFFFFFF 0 = 0xFF8 ∧ v3 .lea 0 0b10011 0x1000 0xFFFFFFFF 0 = 0x800000FF8 ∧ v3 .mov 0 0 7 0 0 = 7 ∧
    (did (.movi { imf with d := .g 3, imm := 0x0A01852C }) id).readG 3 = 0x0A01852C := by decide +kernel

/-- Immediate forms act as their register counterparts (R146). -/
theorem test_immediates : let f := fun (i : ImmForm → Instr) (fs : BitVec 4) (x imm : Word) => (did (i { imf with fs := fs, mask := m1, d := .v 3, a := .v 1, imm := imm }) (ab x 0)).readV 3 9
    f .iaddi 1 0x80000000 (-1) = 0x7FFFFFFF ∧ f .imuli 0 3 (-2) = 0xFFFFFFFFFFFFFFFA ∧ f .andi 4 0xFF 0xF0 = 0xF0 ∧ f .ori 5 0xF00000000 1 = 1 ∧ f .xori 7 0xFF 0x0F = 0xF0 ∧
    f .shli 4 1 4 = 16 ∧ f .shri 5 0xFFFFFFFF 31 = 1 ∧ f .sari 7 0x80 1 = 0xC0 ∧ f .icmpi 3 5 5 = 0xFFFFFFFFFFFFFFFF := by decide +kernel

/-- KLOG `0xC0` gives the split's threads that are in k1 and `0x30` the others; KMOV, KPOP and KFIND (R147, R148). -/
theorem test_masks : let s := setK 1 0x0000FF00
    (did (.klog { rf with d := .k 2, a := .k 0, b := .k 1, c := .vz, mod := 0xC0 }) s).readK 0 2 = 0x0000FF00 ∧ (did (.klog { rf with d := .g 2, a := .k 0, b := .k 1, c := .vz, mod := 0x30 }) s).readG 2 = 0xFFFF00FF ∧
    (did (.kmov { rf with d := .g 2, a := .k 1 }) s).readG 2 = 0xFF00 ∧ (did (.kpop { rf with d := .g 2, a := .k 1 }) s).readG 2 = 8 ∧ (did (.kfind { rf with d := .g 2, a := .k 1 }) s).readG 2 = 8 ∧
    (did (.kfind { rf with d := .g 2, a := .k 1, mod := 1 }) s).readG 2 = 15 ∧ (did (.kfind { rf with d := .g 2, a := .vz }) s).readG 2 = 32 := by decide +kernel

/-- SRD of the lane and of LIVEK; SWR of the RNG counter; PICK of a thread, and of the first (R24, R149, R150). -/
theorem test_special_registers : (did (.srd { rf with d := .v 3, b := .lit 0 }) id).readV 3 17 = 17 ∧ (did (.srd { rf with d := .g 3, b := .lit 0x13 }) id).readG 3 = 0xFFFFFFFF ∧
    (did (.swr { rf with a := .v 1, b := .lit 0x15 }) (setV 1 9)).readRng 4 = 9 ∧ (did (.pick { rf with d := .g 3, a := .v 1, b := .g 4 }) (fun g => setG 4 33 (setVs 1 wd g))).readG 3 = 1 ∧
    (did (.pick { rf with d := .g 3, a := .v 1, b := .vz, mod := 1 }) (setVs 1 (fun t => wd (t + 5)))).readG 3 = 5 := by decide +kernel

/-- SHFL `.up` keeps a thread's own word where it would leave the group, and `.xor` pairs threads (R153). -/
theorem test_shfl : let f := fun (fs : BitVec 4) (b : Word) => pending (did (.shfl { rf with fs := fs, d := .v 3, a := .v 1, b := .v 2 }) (fun g => setV 2 b (setVs 1 wd g)))
    f 1 2 1 = some 1 ∧ f 1 2 5 = some 3 ∧ f 3 1 4 = some 5 ∧ f 0 40 0 = some 8 := by decide +kernel

/-- EPERM gathers elements with its stride: element i of thread 0 is element 2i of the group, in f8, eight to a word (R154). -/
theorem test_eperm : pending (did (.eperm { rf with fs := 8, d := .v 3, a := .v 1, b := .vz, mod := 2 }) (fun g => ({ setVs 1 (fun t => wd (0x0706050403020100 + t * 0x0808080808080808)) g with f := [(8, 0x0000008200000705)] } : Group))) 0 =
    some 0x0E0C0A0806040200 := by decide +kernel

/-- IRED adds over the active threads; ISCAN `.excl` starts with the identity; VOTE counts ballots; MATCH finds equal words; ELECT names the lowest (R155, R157 to R159). -/
theorem test_lanes : (did (.ired { rf with d := .g 3, a := .v 1 }) (setVs 1 wd)).readG 3 = 496 ∧ (did (.iscan { rf with d := .v 3, a := .v 1, mod := 1 }) (setVs 1 wd)).readV 3 4 = 6 ∧
    (did (.vote { rf with d := .g 3, a := .v 1 }) (setVs 1 (fun t => wd (t % 2)))).readG 3 = 0xAAAAAAAA ∧
    (did (.matchLanes { rf with d := .v 3, a := .v 1 }) (setVs 1 (fun t => wd (t / 16)))).readV 3 20 = 0xFFFF0000 ∧
    (did (.elect { rf with mask := ⟨true, 1⟩, d := .k 2 }) (setK 1 7)).readK 0 2 = 8 := by decide +kernel

/-- RNG moves the counters of active threads alone; RNGSEED sets or adds (R160, R161). -/
theorem test_rng : let g := did (.rng { rf with mask := ⟨false, 1⟩, d := .v 4 }) (setK 1 0xFF)
    g.readRng 3 = 1 ∧ g.readRng 8 = 0 ∧ (did (.rngseed { rf with a := .v 1, mod := 1 }) (setV 1 5)).readRng 2 = 5 := by decide +kernel

/-! ### Formats -/

/-- Format slots f0, f3, f5, f8, f10 and f11 as launch defaults define them (R47). -/
def setF (g : Group) : Group :=
  { g with f := [(0, 0x000002000A0FF744), (3, 0x000000801000E324), (5, 0x0000004400002114), (8, 0x0000008200000705), (10, 0x0000020000001F05), (11, 0x000000600002021F)] }

/-- v1 and v2 with the default formats. -/
def abF (x y : Word) (g : Group) : Group := setF (ab x y g)

/-- v3 of thread 0 after a format instruction on v1 and v2. -/
def fv (i : FmtForm → Instr) (slot : BitVec 4) (c : BitVec 8) (x y : Word) : Word :=
  (did (i { ff with slot := slot, mask := m1, d := .v 3, a := .v 1, b := .v 2, c := .lit c }) (abF x y)).readV 3 0

/-- The worked example of FCVT: 1.0 and −500.0 of binary32 to E4M3 as part 2 (R185). -/
theorem test_fcvt : (did (.fcvt { ff with slot := 3, mask := m1, d := .v 7, a := .v 1, c := .lit 0x20 }) (fun g => setV 7 0x1111111111111111 (abF 0xC3FA00003F800000 0 g))).readV 7 0 =
    0x11117F3811111111 := by decide +kernel

/-- 1.0 + 1.0 and 1.0 − 1.0 in binary32; FMUL of log6 codes 0x12 and 0x15 gives 0x17 (R44); FSCL of 7 by −1 in f10 gives 4 (R176). -/
theorem test_fadd_fmul_fscl : fv .fadd 0 0 0x3F800000 0x3F800000 = 0x40000000 ∧ fv .fsub 0 0 0x3F800000 0x3F800000 = 0 ∧ fv .fmul 11 0 0x12 0x15 % 64 = 0x17 ∧
    fv .fscl 10 0 7 (-1) = 4 := by decide +kernel

/-- Integer slots: FMIN, FMAX, FSGN `.neg` and FCMP by element in f10 (R177, R178, R180). -/
theorem test_fmin_fmax_fcmp : fv .fmin 10 0 0x00000001FFFFFFFF 0 = 0x00000000FFFFFFFF ∧ fv .fmax 10 0 0x00000001FFFFFFFF 0 = 0x0000000100000000 ∧
    fv .fcmp 10 0 0x0000000500000007 0x0000000500000008 = 0xFFFFFFFF00000000 := by decide +kernel

/-- FSQRT of 8 in f10 under round-to-nearest-even gives 3 (R173); FDIV of 1.0 by 2.0. -/
theorem test_fsqrt_fdiv : pending (did (.fsqrt { ff with slot := 10, mask := m1, d := .v 3, a := .v 1 }) (abF 8 0)) 5 = some 3 ∧
    pending (did (.fdiv { ff with mask := m1, d := .v 3, a := .v 1, b := .v 2 }) (abF 0x3F800000 0x3F80000040000000)) 5 = some 0x3F000000 := by decide +kernel

/-- FMAD and its NEG: 2 · 3 + 1 and 2 · 3 − 1 (R175); FSUM of 1.0 and 2.0; FDOT adds the products of both elements to D (R184). -/
theorem test_fmad_fsum_fdot : let f := fun (neg : Bool) => (did (.fmad { ff with mask := m1, d := .v 3, a := .v 1, b := .v 2, c := .v 4, neg := neg }) (fun g => setV 4 0x3F800000 (abF 0x40000000 0x40400000 g))).readV 3 0
    f false = 0x40E00000 ∧ f true = 0x40A00000 ∧ fv .fsum 0 0 0x400000003F800000 0 = 0x40400000 ∧ fv .fdot 0 0 0x400000003F800000 0x3F8000003F800000 = 0x40400000 := by decide +kernel

/-- FRED of 1.0 in five threads is 5.0 (R156). -/
theorem test_fred : (did (.fred { ff with mask := m1, d := .v 3, a := .v 1 }) (abF 0x3F800000 0)).readV 3 31 = 0x40A00000 := by decide +kernel

/-- FCVTI of 2.5 to an integer under round-to-nearest-even, and back from 3 (R187). -/
theorem test_fcvti : fv .fcvti 0 0 0x40200000 0 = 2 ∧ fv .fcvti 0 4 3 0 = 0x40400000 := by decide +kernel

/-- The 11-bit slot of the worked example: FDEF computes W, and FDRD reads the word (R48, R190, R191). -/
theorem test_fdef : (did (.fdef { rf with fs := 12, a := .g 9 }) (setG 9 0x0A01852C)).readF 12 = 0x000000B00A01852C ∧
    (did (.fdrd { rf with fs := 15, d := .g 10 }) id).readG 10 = 0x000002000A0FF744 := by decide +kernel

/-- MSEL24 on the codes of its worked example (R302). -/
theorem test_msel24 : let g := did (.msel24 { rf with fs := 3, mask := m1, d := .v 4, a := .v 1 }) (abF 0x000080007F30B838 0)
    g.readV 4 0 = 0x0000000080007F38 ∧ g.readV 5 0 = 0x4C := by decide +kernel

/-! ### Control flow and traps -/

/-- A BRD that divides: the taken half at the target, the other at the next instruction, under one frame (R101, R122). -/
theorem test_brd : let t := after (step ((State.reset.withFetchWord 128 0x00000000000000050400100000000009).setGroup 0 0 (setK 1 0xFFFF ((State.reset.withFetchWord 128 0x00000000000000050400100000000009).group 0 0))))
    let g := t.group 0 0
    (g.split 0).mask = 0xFFFF ∧ (g.split 0).pc = 0x10020 ∧ (g.split 1).mask = 0xFFFF0000 ∧ (g.split 1).pc = 0x10010 ∧ (g.frame (g.split 1).frame).token = 0x10028 ∧
      (g.split 0).frame = (g.split 1).frame := by decide +kernel

/-- CALL links in a g-register; BRU `.ltz` is taken; BRX `.any` of no thread is not (R121, R124, R129). -/
theorem test_branches : let g := did (.call { bf with d := .g 5, off := 2 }) id
    g.readG 5 = 0x10008 ∧ (g.split 0).pc = 0x10010 ∧ ((did (.bru { bf with fs := 2, a := .g 1, off := -1 }) (setG 1 (-5))).split 0).pc = 0xFFF8 ∧
    ((did (.brx { bf with mask := m1, off := 4 }) id).split 0).pc = 0x10008 ∧ ((did (.jmp { bf with off := 3 }) id).split 0).pc = 0x10018 := by decide +kernel

/-- RET to two targets makes a second split; to a misaligned one it traps ALIGN, here with no handler, so that the group stops (R125). -/
theorem test_ret : let g := did (.ret { rf with a := .v 1 }) (setVs 1 (fun t => if t < 8 then 0x100 else 0x200))
    (g.split 0).mask = 0xFF ∧ (g.split 0).pc = 0x100 ∧ (g.split 1).mask = 0xFFFFFF00 ∧ (g.split 1).pc = 0x200 ∧
    (did (.jmpi { rf with a := .g 1 }) (setG 1 4)).stopped = true ∧ AMap.get (did (.jmpi { rf with a := .g 1 }) (setG 1 4)).trap 0x20 0 = 0x07 := by decide +kernel

/-- RCV of the root's split only passes; JOIN of the whole group passes and leaves no frame (R123, R130). -/
theorem test_rcv_join : ((did (.rcv rf) id).split 0).pc = 0x10008 ∧ ((did (.join rf) id).split 0).st = 1 ∧ ((did (.join rf) (fun g => g.setSplit 0 { g.split 0 with mask := 1 })).split 0).st = 4 := by
  decide +kernel

/-- EXIT and DEMOTE of the threads in k1 (R126, R127); YIELD, NOP, PSAFE and IDEM pass. -/
theorem test_exit_demote : let s := setK 1 0xF
    (did (.exit { rf with mask := m1 }) s).live = 0xFFFFFFF0 ∧ (did (.demote { rf with mask := m1 }) s).live = 0xFFFFFFF0 ∧ (did (.demote { rf with mask := m1 }) s).dem = 0xF ∧
    (did (.idem { rf with fs := 1 }) id).idem = true ∧ ((did (.yield rf) id).split 0).pc = 0x10008 ∧ ((did (.nop rf) id).split 0).pc = 0x10008 ∧ ((did (.psafe rf) id).split 0).pc = 0x10008 := by
  decide +kernel

/-- The launch names a handler at 0x20000, and its fault records lie at 0x18000 on a mapped page (R80, R317). -/
def withHandler (s : State) : State :=
  s.setLaunch 1 { s.launch 1 with handler := some 0x20000, lrec := { (s.launch 1).lrec with privArea := 0x18000 } }

/-- TRAP enters the handler: state 6, SWTRAP in TRAPCODE, the operand in TRAPAUX, the address in TRAPPC, one record written (R79, R131, R317). -/
theorem test_trap : let t := after (exec (.trap { rf with a := .g 1 }) (withHandler (issue (setG 1 77))))
    let g := t.group 0 0
    (g.split 0).st = 6 ∧ (g.split 0).pc = 0x20000 ∧ AMap.get g.trap 0x20 0 = 0x13 ∧ AMap.get g.trap 0x21 0 = 0x10000 ∧ AMap.get g.trap 0x2D 0 = 77 ∧ g.event = 1 ∧
      (t.readPhys 0x18000 3).map (fun r => r / 65536) = some 0x13 := by decide +kernel

/-- BKPT without a handler stops the group (R131, R316). RTT goes past the instruction that trapped (R323). -/
theorem test_bkpt_rtt : (did (.bkpt rf) id).stopped = true ∧ AMap.get (did (.bkpt rf) id).trap 0x20 0 = 0x14 ∧
    (let g := did (.rtt rf) (fun g => { g.setSplit 0 { g.split 0 with st := 6, handler := true } with trap := [(0x21, 0x5000)] })
     (g.split 0).st = 1 ∧ (g.split 0).pc = 0x5008) ∧
    ((did (.rtt { rf with fs := 1 }) (fun g => { g.setSplit 0 { g.split 0 with st := 6, handler := true } with trap := [(0x21, 0x5000)] })).split 0).pc = 0x5000 := by decide +kernel

/-! ### Memory -/

/-- The example of R376: stack 4, die 2, stack offset 0x1_2345_0345. -/
theorem test_placement : physKey 0 0x1234502345 = some (4 * 2 ^ 36 + 0x123450345) ∧ homeDie (4 * 2 ^ 36 + 0x123450345) = 2 ∧ physKey 0 0xC000000000 = none := by decide +kernel

/-- The issuing state with a word at 0x11000. -/
def withWord (x : Nat) (f : Group → Group) : State := (issue f).writePhys 0x11000 (leBytes 8 x)

/-- LD of 4 bytes, sign-extended and not, pending for D in its active threads (R236). -/
theorem test_ld : let f := fun (sx : Bool) => pending ((after (exec (.ld { mf with mask := m1, d := .v 3, a := .g 1, b := .vz, size := 2, sx := sx }) (withWord 0xFFFFFFFF80000001 (fun g => setG 1 0x11000 (ab 0 0 g))))).group 0 0) 9
    f true = some 0xFFFFFFFF80000001 ∧ f false = some 0x80000001 := by decide +kernel

/-- A misaligned LD traps ALIGN with its address (R210). -/
theorem test_ld_misaligned : let g := did (.ld { mf with mask := m1, d := .v 3, a := .g 1, b := .vz, size := 2 }) (fun g => setG 1 0x11002 (ab 0 0 g))
    AMap.get g.trap 0x20 0 = 0x07 ∧ AMap.get g.trapAddr 9 0 = 0x11002 ∧ AMap.get g.trapAddr 8 0 = 0 ∧ g.stopped = true := by decide +kernel

/-- A ST waits, and STORE_PERFORMED writes its bytes; the core sees them (R218, R235). -/
theorem test_st : let t := after (exec (.st { mf with mask := m1, d := .v 1, a := .g 1, b := .v 2, size := 3 }) (issue (fun g => setG 1 0x11000 (setK 1 1 (setV 2 1 (setV 1 0x1122334455667788 g))))))
    let u := after (exec (.storePerformed (.performed 0) {}) t)
    t.stores.length = 1 ∧ u.stores.length = 0 ∧ (u.sees 0 ((physKey 0 0x11008).getD 0)) = 0x88 ∧ (u.sees 0 ((physKey 0 0x1100F).getD 0)) = 0x11 := by decide +kernel

/-- ATOM `.add` gives the old word and leaves the sum; ACAS writes on a match only (R245, R246). -/
theorem test_atoms : let run := fun (i : MemForm → Instr) (d : Word) =>
      (after (exec (.storePerformed (.performed 0) {}) (after (exec (i { mf with mask := m1, d := .v 3, a := .g 1, b := .vz, c := .v 2, size := 3, order := .relaxed }) (withWord 40 (fun g => setG 1 0x11000 (setK 1 8 (setV 3 d (setV 2 2 g)))))))))
    pending ((run .atom 0).group 0 0) 3 = some 40 ∧ (run .atom 0).readPhys 0x11000 8 = some 42 ∧ (run .acas 40).readPhys 0x11000 8 = some 2 ∧ (run .acas 41).readPhys 0x11000 8 = some 40 := by decide +kernel

/-- Words that atomics write: signed and unsigned minimum, OR (R245). -/
theorem test_atom_words : atomVal (.int 4) 4 1 0xFFFFFFFF 0 = 0xFFFFFFFF ∧ atomVal (.int 6) 4 1 0xFFFFFFFF 0 = 1 ∧ atomVal (.int 2) 8 0xF0 0x0F 0 = 0xFF := by decide +kernel

/-! ### Transactions, barriers and waits -/

/-- TCOMMIT of no transaction gives 8; of one aborted by TABORT 5, 0x506; of an empty one 0 (R254, R255). -/
theorem test_tcommit : let f := fun (x : Option Tx) => (did (.tcommit { rf with d := .g 3 }) (fun g => { g with tx := x })).readG 3
    f none = 8 ∧ f (some { abort := some (6, 5) }) = 0x506 ∧ f (some {}) = 0 ∧ (did (.tbegin rf) id).tx = some {} ∧
    (did (.tabort { rf with a := .g 1 }) (fun g => setG 1 0x105 { g with tx := some {} })).tx = some { abort := some (6, 5) } ∧
    (did (.fence rf) (fun g => { g with tx := some {} })).tx = some { abort := some (7, 0) } := by decide +kernel

/-- The one group of a team completes a barrier by itself; with E = 64 it parks; BARARV gives the phase (R256, R257). -/
theorem test_bar : let t := after (exec (.bar { rf with b := .vz, mod := 3 }) (issue id))
    (t.team 0).bar 3 = { q := 1 } ∧ ((t.group 0 0).split 0).st = 1 ∧
    (let u := after (exec (.bararv { rf with d := .g 4, b := .g 1 }) ((issue (setG 1 64)).setLaunch 1 { (issue id).launch 1 with lrec := { ((issue id).launch 1).lrec with ngrp := 2 } }))
     ((u.team 0).bar 0).arrivals = 32 ∧ ((u.team 0).bar 0).e = 64 ∧ (u.group 0 0).readG 4 = 0) ∧
    ((did (.barwt { rf with a := .g 1 }) (setG 1 0)).split 0).st = 5 := by decide +kernel

/-- The example of R344: three TBARV of 1 and a TBEXP `.arv` of 16 sectors, then sixteen sectors. -/
theorem test_tb : let t0 : Tb := ⟨0, 0, 4, 4, 0, 0, 0⟩
    let t4 := (((t0.update 1 0 0 0).update 1 0 0 0).update 1 0 0 0).update 1 0 16 0
    t4.phase = 0 ∧ t4.pendarr = 0 ∧ t4.pendsec = 16 ∧ t4.update 0 15 0 0 = ⟨0, 0, 4, 0, 1, 16, 0⟩ ∧ (t4.update 0 15 0 0).update 0 1 0 0 = ⟨1, 0, 4, 4, 0, 0, 0⟩ := by decide +kernel

/-- TBWAIT on the TB's parity parks and is counted; TBARV of its one arrival completes the phase and lets it go with PHASE 1 (R259, R343, R344). -/
theorem test_tb_wait : let s := (issue (setG 1 0x40)).setTb 0 0 0x40 ⟨0, 0, 1, 1, 0, 0, 0⟩
    let w := after (exec (.tbwait { rf with d := .g 2, a := .g 1, b := .vz }) s)
    let a := (w.updateTb 0 0 0x40 1 0 0 0).settleTbs
    ((w.group 0 0).split 0).st = 5 ∧ (w.tb 0 0 0x40).waiters = 1 ∧ ((a.group 0 0).split 0).st = 1 ∧ (a.group 0 0).readG 2 = 1 ∧ (a.tb 0 0 0x40).waiters = 0 := by decide +kernel

/-- WAITC whose word is there goes on with it in D; below the threshold it parks (R258). -/
theorem test_waitc : let f := fun (thr : Word) => (after (exec (.waitc { rf with d := .g 3, a := .g 1, b := .g 2 }) (withWord 7 (fun g => setG 2 thr (setG 1 0x11000 g))))).group 0 0
    (f 7).readG 3 = 7 ∧ ((f 7).split 0).st = 1 ∧ ((f 8).split 0).st = 5 := by decide +kernel

/-- HBAR parks with its threads noted; PROMO parks where a release of the named core covers a byte, and else completes (R251, R260). -/
theorem test_hbar_promo : (AMap.get (did (.hbar { rf with fs := 2 }) id).hbarArr 2 0) = 0xFFFFFFFF ∧ ((did (.hbar { rf with fs := 2 }) id).split 0).st = 5 ∧
    ((did (.promo { rf with a := .g 1 }) (setG 1 3)).split 0).st = 1 ∧
    (((after (exec (.promo { rf with a := .g 1 }) ((issue (setG 1 3)).setCore 3 { l1 := [(5, { val := 1, dirty := true, covered := true })] }))).group 0 0).split 0).wait = .promo 3 := by decide +kernel

/-! ### Codebooks, the matrix engine, the cluster engine -/

/-- Bank 2 with the active plane of the worked example of R268: f5, four indices of 6 bits. -/
def book : Bank := { p0 := { entries := [(1, 0x2222), (2, 0x7531), (3, 0xCA98)], valid := 15, config := 5 + 2 * 2 ^ 4 + 4 * 2 ^ 6 } }

/-- CBRD of entry 3; CBXP of 0x2043, the indices 3, 1, 2 and 0, four elements to each (R264, R268, R279, R280). -/
theorem test_codebook_reads : let s := fun (f : Group → Group) => (let s := issue f; s.setCore 0 { s.core 0 with banks := [(2, book)] })
    pending ((after (exec (.cbrd { rf with fs := 2, mask := m1, d := .v 3, a := .v 1 }) (s (ab 3 0)))).group 0 0) 0 = some 0xCA98 ∧
    pending ((after (exec (.cbxp { rf with fs := 5, mask := m1, d := .v 3, a := .v 1, mod := 0xA4 }) (s (abF 0x2043 0)))).group 0 0) 0 = some 0x000075312222CA98 := by decide +kernel

/-- CBWR writes the shadow plane; CBSWAP brings it up for the cycles after its own (R269, R271 to R275). -/
theorem test_codebook_writes : let w := after (exec (.cbwr { rf with fs := 2, mask := m1, a := .g 1, b := .v 1 }) (issue (fun g => setG 1 254 (ab 7 0 g))))
    let u := after (exec (.cbswap { rf with fs := 2 }) { w with latch := some here })
    ((w.core 0).bank 2).shadow.entry 254 = some 7 ∧ ((w.core 0).bank 2).shadow.entry 1 = some 7 ∧ ((w.core 0).bank 2).shadow.entry 0 = none ∧
      ((u.core 0).bank 2).reads.entry 1 = none ∧ ((u.newCycle.core 0).bank 2).reads.entry 1 = some 7 := by
  decide +kernel

/-- MZERO enters its core's order; the array clears the tile; completion drops the entry (R288, R303). -/
theorem test_mzero : let t := after (exec (.mzero { rf with fs := 1 }) (issue id))
    let u := after (exec (.matrixArrayStart { it := 0 }) (t.setCore 0 { t.core 0 with tiles := [(1, { invalid := true })] }))
    let v := after (exec (.matrixComplete 0 0) u)
    (t.core 0).order.length = 1 ∧ ((u.core 0).tile 1).invalid = false ∧ (v.core 0).order.length = 0 := by decide +kernel

/-- STGADV adds its step, and 1 without one (R360). -/
theorem test_stgadv : let t := after (exec (.stgadv { rf with a := .g 1 }) (issue (setG 1 3)))
    (t.team 0).stage = 3 ∧ ((after (exec (.stgadv { rf with a := .vz }) (issue id))).team 0).stage = 1 := by decide +kernel

/-! ### The hypotheses of each statement are met together -/

/-- The result is `.ok x`. -/
def isOk {α β : Type} [DecidableEq β] (e : Except α β) (x : β) : Bool :=
  match e with
  | .ok y => y == x
  | .error _ => false

/-- The result is `.error x`. -/
def isErr {α β : Type} [DecidableEq α] (e : Except α β) (x : α) : Bool :=
  match e with
  | .ok _ => false
  | .error y => y == x

theorem eq_ok {α β : Type} [DecidableEq β] {e : Except α β} {x : β} (h : isOk e x = true) : e = .ok x := by
  cases e with
  | ok y => simp [isOk] at h; rw [h]
  | error y => simp [isOk] at h

theorem eq_error {α β : Type} [DecidableEq α] {e : Except α β} {x : α} (h : isErr e x = true) : e = .error x := by
  cases e with
  | ok y => simp [isErr] at h
  | error y => simp [isErr] at h; rw [h]

/-- An addition of v1 and v2 into v3. -/
def addForm : RegForm := { rf with d := .v 3, a := .v 1, b := .v 2 }

/-- The fetching state of `iaddi v7, v7, -1`, and the state with its split taken off the queue. -/
def fetching : State := State.reset.withFetchWord 64 0x2F0000707FFFFFFE
def fetched : State := { fetching with issueQ := [] }

theorem wit_DecodeOfEncode : (Instr.iadd addForm).wf tableCtx = true ∧ (Instr.ld { mf with d := .v 188, a := .g 47, b := .vz, size := 5, disp := some 1 }).wf tableCtx = true := by decide +kernel

theorem wit_EncodeOfDecode : isOk (decodeWords tableCtx 0x7000005C40200181 64) (.ld { mf with d := .v 5, a := .g 4, b := .v 2, size := 3, disp := some 64 }) = true := by decide +kernel

theorem wit_StepRunsDecoded : fetching.exhausted ⟨0, 0, 0⟩ = false ∧ fetching.mates = [] ∧ fetching.agenda = [] ∧ fetching.issueQ = [⟨0, 0, 0⟩] ∧ (fetching.groupAt ⟨0, 0, 0⟩).issuable 0 = true ∧ (fetching.groupAt ⟨0, 0, 0⟩).stopped = false ∧
    fetched.fetch 0 (fetching.groupAt ⟨0, 0, 0⟩).core (fetching.splitAt ⟨0, 0, 0⟩).pc = .words fetched 0x2F0000707FFFFFFE 0 ∧
    isOk (decodeWords (fetched.decodeCtx ⟨0, 0, 0⟩) 0x2F0000707FFFFFFE 0) (.iaddi { imf with d := .v 7, a := .v 7, imm := -1 }) = true ∧
    fetched.hazard ⟨0, 0, 0⟩ (.iaddi { imf with d := .v 7, a := .v 7, imm := -1 }) = false := by decide +kernel

theorem wit_StepRunsDecoded_illop : let s := State.reset.withFetchWord 64 0x3F00000000000000
    let u : State := { s with issueQ := [] }
    s.agenda = [] ∧ s.issueQ = [⟨0, 0, 0⟩] ∧ (s.groupAt ⟨0, 0, 0⟩).issuable 0 = true ∧ (s.groupAt ⟨0, 0, 0⟩).stopped = false ∧
      u.fetch 0 (s.groupAt ⟨0, 0, 0⟩).core (s.splitAt ⟨0, 0, 0⟩).pc = .words u 0x3F00000000000000 0 ∧ isErr (decodeWords (u.decodeCtx ⟨0, 0, 0⟩) 0x3F00000000000000 0) 1 = true := by decide +kernel

theorem wit_FetchReadsBytes : fetchLeaf.covers (fetching.launchOf 0).region.djid 0x10000 = true ∧ fetchLeaf.place = 0 ∧ fetchLeaf.x = true ∧
    (fetching.core 0).tlb.find? (fun e => e.covers (fetching.launchOf 0).region.djid 0x10000) = some fetchLeaf ∧ 0x10000 + 16 < 2 ^ 57 ∧ 0x10000 % 65536 + 16 ≤ 65536 := by decide +kernel

/-- The last bytes of a page at which both words lie. -/
theorem wit_FetchReadsBytes_edge : fetchLeaf.covers 0 0x1FFF0 = true ∧ 0x1FFF0 % 65536 + 16 ≤ 65536 := by decide +kernel

theorem wit_StepKeepsCanonical : fetching.canonical = true ∧ goesOn (step fetching) = true := by decide +kernel

/-- The instruction issues, and its destination and sources agree: every statement of register instructions. -/
theorem wit_issuing : (issue id).issuing here = true ∧ uniformBad addForm.d [addForm.a, addForm.b] = false ∧ uniformBad (.g 3) [.g 1, .vz] = false ∧
    selUniformBad (.v 3) [.v 1, .v 2] (.k 1) = false ∧ selUniformBad (.g 3) [.g 1, .vz] (.g 2) = false := by decide +kernel

/-- A thread is active; a result held for a window makes its register not quiet, and only that one. -/
theorem wit_quiet : (issue id).activeSet here .none = 0xFFFFFFFF ∧ ((issue id).group 0 0).quiet 3 = true ∧
    (let g : Group := { ((issue id).group 0 0) with pends := [{ id := 0, inst := 0, pc := 0, reg := 4, mask := 1, arrived := true }] }
     g.quiet 3 = true ∧ g.quiet 4 = false) := by decide +kernel

theorem wit_CompareAndSelect : (0 : BitVec 4).toNat < 10 ∧ (9 : BitVec 4).toNat < 10 := by decide +kernel

theorem wit_MasksAndSpecialRegisters : (issue id).issuing here = true ∧ ¬ (isUni (Opnd.g 3) = true ∧ srPerThread 0x12 = true) ∧ fieldOf (.lit 0x15) = 0x15 ∧ srPerThread 0x20 = false ∧
    isVec (Opnd.g 1) = false ∧ srPerThread 0x2C = true ∧ srPerThread 0 = true := by decide +kernel

/-- The format state: E4M3 in f3, E2M1 with blocks in f5, stochastic rounding in f9. -/
def fmtState : State := issue (fun g => { abF 0x3F800000 0x40000000 g with f := ((abF 0 0 g).f.filter (fun p => p.1 < 9)) ++ [(9, 0x000002014A0FF744), (10, 0x0000020000001F05)] })

theorem wit_fmtClear : fmtState.issuing here = true ∧ fmtState.fmtClear here { ff with d := .v 3, a := .v 1, b := .v 2 } 0 := by unfold State.fmtClear; decide +kernel

theorem wit_FormatElements : (fmtState.fmtAt here 0).rnd ≠ 5 ∧ (fmtState.fmtAt here 0).s ≠ 0 ∧ (2 : Nat).testBit 2 = false ∧ (4 : Nat).testBit 2 = true ∧ (∀ n, (Opnd.v 4) ≠ .k n) := by decide +kernel

theorem wit_FormatSumsAndConversions : fieldOf (.lit 0x10) / 16 < partsOf (fmtState.fmtAt here 0).k (fmtState.fmtAt here 3).k ∧ (fmtState.fmtAt here 5).blk = 1 ∧
    7 < partsOf (fmtState.fmtAt here 5).k (fmtState.fmtAt here 0).k := by decide +kernel

theorem wit_FormatLongLatency : (fmtState.fmtAt here 9).rnd = 5 ∧ isUni (Opnd.v 3) = false ∧ 0 < (fmtState.fmtAt here 9).k ∧ fmtValid (fmtState.group 0 0 |>.readF 9) = true := by decide +kernel

/-- FADD under stochastic rounding adds one step in each of its threads, and no more (R40). -/
theorem wit_FormatStochastic : let f := { ff with slot := 9, mask := m1, d := .v 3, a := .v 1, b := .v 2 }
    let g := (after (exec (.fadd f) fmtState)).group 0 0
    (fmtState.fmtAt here 9).rnd = 5 ∧ fmtState.issuing here = true ∧ fieldOf (.lit 0) / 16 < partsOf (fmtState.fmtAt here 0).k (fmtState.fmtAt here 9).k ∧ (fmtState.fmtAt here 5).blk = 1 ∧
      g.readRng 3 = ((fmtState.group 0 0).readRng 3) + wd (((fmtState.fmtAt here 9).k + 3) / 4) ∧ g.readRng 4 = (fmtState.group 0 0).readRng 4 := by decide +kernel

theorem wit_FormatStochastic_clear : fmtState.fmtClear here { ff with slot := 9, d := .v 3, a := .v 1, b := .v 2 } 9 ∧ fmtState.fmtClear here { ff with slot := 9, d := .v 3, a := .v 1 } 0 := by
  unfold State.fmtClear; decide +kernel

theorem wit_FormatReductions : let f := { ff with d := .v 3, a := .v 1 }
    (fmtExpansion f f.xa f.slot.toNat).bind (fun x => x.shapeTrap (fmtState.core 0) (fmtState.groupAt here.ref)) = none ∧
      (fmtExpansion f f.xa f.slot.toNat).bind (fun x => x.invTrap (fmtState.core 0) (fmtState.groupAt here.ref) (threadsOf (fmtState.activeSet here f.mask)) (fmtState.operand here f.a)) = none := by
  decide +kernel

theorem wit_FormatDefinitions : fmtValid ((issue (setG 9 0x0A01852C)).operand here (.g 9) 0) = true ∧ fmtValid ((issue (setG 9 0x0A018524)).operand here (.vz) 0) = false := by decide +kernel

theorem wit_Branches : ((issue id).core 0).rr = false ∧ (1 : BitVec 4) = 1 ∧ (issue id).issuing here = true := by decide +kernel

/-- BRD whose threads agree, whose none are taken, and that divides with room. -/
theorem wit_Divergence : let g := (issue id).groupAt here.ref
    g.frames.length = 8 ∧ (g.split 0).st ≠ 0 ∧ (issue id).activeSet here .none = 0xFFFFFFFF ∧ (issue id).activeSet here m1 = 0 ∧ g.freeSplit ≠ none ∧ g.freeFrame ≠ none ∧
      (let s := issue (setK 1 1); s.activeSet here m1 ≠ 0 ∧ here.self s &&& ~~~(s.activeSet here m1) ≠ 0 ∧ s.issuing here = true) := by decide +kernel

/-- A group whose eight entries are in use, with one thread more in the issuing one, and `n` entries spilled. -/
def crowded (n : Nat) : State := issue (fun g => setK 1 1 { g with
  splits := { (g.split 0) with mask := 3 } :: (List.range 7).map (fun i => ({ st := 1, mask := BitVec.ofNat 32 (2 ^ (i + 2)), pc := 0x10000 } : Split))
  spill := List.replicate n { mask := 0x10000, token := 0x500, owner := 1, frame := 0, park := false, pc := 0x600 } })

/-- BRD without room, with the stack empty, nearly full and full. -/
theorem wit_Divergence_spill : (crowded 31).issuing here = true ∧ ((crowded 31).groupAt here.ref).freeSplit = none ∧ ((crowded 31).groupAt here.ref).spill.length < 32 ∧
    32 ≤ ((crowded 32).groupAt here.ref).spill.length ∧ (crowded 31).activeSet here m1 = 1 ∧ here.self (crowded 31) = 3 ∧ ((crowded 31).groupAt here.ref).frames.length = 8 ∧
    (let t := (after (exec (.brd { bf with mask := m1, off := 4, recv := some 8 }) (crowded 31))).group 0 0
     t.spill.length = 32 ∧ (t.split 0).mask = 1 ∧ (t.spill.getD 31 ⟨0, 0, 0, 0, true, 0, true⟩).mask = 2 ∧ (t.spill.getD 31 ⟨0, 0, 0, 0, true, 0, true⟩).pc = here.next) ∧
    AMap.get ((after (exec (.brd { bf with mask := m1, off := 4, recv := some 8 }) (crowded 32))).group 0 0).trap 0x20 0 = 0x17 := by decide +kernel

/-- Two splits under one frame whose token is the address of the RCV, the second running or not there. -/
def reconverging (two : Bool) : State := issue (fun g => { g with
  splits := [{ (g.split 0) with mask := 0xFFFF, frame := 1 }, if two then { st := 1, mask := 0xFFFF0000, pc := 0x9000, frame := 1 } else {}] ++ List.replicate 6 {}
  frames := [{ token := rootToken, valid := true }, { token := 0x10000, parent := 0, depth := 1, valid := true }] ++ List.replicate 6 {} })

theorem wit_Reconvergence_waits : let s := reconverging true
    let g := s.groupAt here.ref
    s.issuing here = true ∧ g.frames.length = 8 ∧ g.spill = [] ∧ (g.split 0).frame = 1 ∧ (g.frame 1).valid = true ∧ (g.frame 1).token = here.pc ∧ (g.frame 1).depth < 8 ∧
      (g.split 1).st = 1 ∧ (g.split 1).frame = 1 ∧ (∀ j, j < 8 → j ≠ 0 → (g.split j).st ≠ 3) ∧ (let t := (after (exec (.rcv rf) s)).group 0 0; (t.split 0).st = 3 ∧ (t.split 0).wait = .token 0x10000) := by
  decide +kernel

theorem wit_Reconvergence_passes : let s := reconverging false
    let g := s.groupAt here.ref
    s.issuing here = true ∧ (∀ j, j < 8 → j ≠ 0 → (g.split j).st = 0) ∧ (let t := (after (exec (.rcv rf) s)).group 0 0; (t.split 0).st = 1 ∧ (t.split 0).pc = 0x10008 ∧ (t.split 0).frame = 0) ∧
      (let h := (issue id).groupAt here.ref; h.topSpill 0 = none ∧ (h.chain (h.split 0).frame).all (fun x => (h.frame x).token != here.pc) = true) := by decide +kernel

/-- A spilled entry for the address of the RCV, that has not parked. -/
theorem wit_Reconvergence_spill : let s := issue (fun g => { g with spill := [{ mask := 0xF, token := 0x10000, owner := 0, frame := 0, park := false, pc := 0x9000 }], splits := g.splits.set 0 { g.split 0 with mask := 0xFFFFFFF0 } })
    let g := s.groupAt here.ref
    s.issuing here = true ∧ (g.topSpill 0).map (fun p => (p.1.token, p.1.park, p.2)) = some (here.pc, false, 0) ∧
      (let t := (after (exec (.rcv rf) s)).group 0 0; (t.split 0).mask = 0xF ∧ (t.split 0).pc = 0x9000 ∧ (t.spill.map (fun e => (e.mask, e.park))) = [(0xFFFFFFF0, true)]) := by decide +kernel

theorem wit_Join : let g := (issue id).groupAt here.ref
    (g.split 0).mask = g.present ∧ g.spill = [] ∧ (let h := (reconverging true).groupAt here.ref; (h.split 0).mask ≠ h.present ∧ (∀ j, j < 8 → j ≠ 0 → (h.split j).st ≠ 4)) := by decide +kernel

/-- Thirty-two targets do not fit in eight entries; two do. -/
theorem wit_IndirectBranch : let free := fun (s : State) => ((List.range 8).filter (fun k => !(s.groupAt here.ref).used k)).length
    let n := fun (s : State) => (ascending ((threadsOf (here.self s)).map (fun t => (s.operand here (.v 1) t).toNat))).length
    let many := issue (setVs 1 (fun t => wd (8 * t)))
    let two := issue (setVs 1 (fun t => if t < 8 then 0x100 else 0x204))
    free many + 1 < n many ∧ n two ≤ free two + 1 ∧ (two.operand here (.v 1) 9).toNat % 8 ≠ 0 ∧
      AMap.get ((after (exec (.ret { rf with a := .v 1 }) many)).group 0 0).trap 0x20 0 = 0x17 := by decide +kernel

theorem wit_ExitAndDemote : ((issue id).groupAt here.ref).tx = none ∧ ((issue id).splitAt here.ref).st = 1 ∧ ((issue (fun g => { g with tx := some {} })).groupAt here.ref).tx = some {} ∧
    here.self (issue id) &&& ~~~((issue (setK 1 1)).activeSet here m1) ≠ 0 := by decide +kernel

theorem wit_TrapEntry : let s := withHandler (issue id)
    s.issuing here = true ∧ (s.launchOf 0).handler = some 0x20000 ∧ (s.splitAt here.ref).handler = false ∧ (s.groupAt here.ref).handling 0 = false ∧ regionOnly 0x13 = false ∧
      (({ s with latch := none } : State).recordTrap 0 0 0 ⟨{ code := 0x13 }, here.pc, here.w0, here.w1, here.next⟩).isSome = true := by decide +kernel

/-- A split in the handler; no handler; another split in the handler. -/
theorem wit_TrapEntry_elsewhere : ((withHandler (issue (fun g => g.setSplit 0 { g.split 0 with st := 6, handler := true }))).splitAt here.ref).handler = true ∧ ((issue id).launchOf 0).handler = none ∧
    (let s := withHandler (issue (fun g => g.setSplit 1 { st := 6, mask := 1, handler := true }))
     s.issuing here = true ∧ (s.splitAt here.ref).handler = false ∧ (s.groupAt here.ref).handling 0 = true ∧ ((s.takeTrap here { code := 0x13 }).splitAt here.ref).st = 7) ∧
    (((issue id).takeTrap here { code := 0x10 }).groupAt here.ref).stopped = true := by decide +kernel

theorem wit_ReturnFromTrap : let s := issue (fun g => { g.setSplit 0 { g.split 0 with st := 6, handler := true } with trap := [(0x21, 0x5000)] })
    s.issuing here = true ∧ (s.splitAt here.ref).handler = true ∧ ((0x5000 : Word) + 8).toNat % 8 = 0 ∧ (∀ i, i < 8 → ((s.groupAt here.ref).split i).st ≠ 7) ∧
      ((issue id).splitAt here.ref).handler = false ∧ ((0x5004 : Word) + 8).toNat % 8 ≠ 0 := by decide +kernel

/-- A request that nothing stops, as one Boolean. -/
def reachesB (s : State) (l : Latch) (req : MemReq) (desc : Option Word) : Bool :=
  let g := s.groupAt l.ref
  g.tx.isNone && !s.det l.ref.team && (s.addressTrap l.ref.team g.core req desc).isNone && !s.logHolds (s.whoAt l) (l.self s) req &&
    (s.lockTrap g.core (s.launchOf l.ref.team).region.djid (req.op != .load) (req.accs.map (fun a =>
      if req.space = .scratch then ({ a with cells := s.reached l req a }, []) else (a, s.mapped l.ref.team g req.space a)))).isNone &&
    (req.space == .scratch || req.accs.all (fun a => (s.mapped l.ref.team g req.space a).all (fun v =>
      match s.reachedPage l req v with
      | .ok leaf => leaf.place != 2
      | _ => false)))

theorem reaches_of {s : State} {l : Latch} {req : MemReq} {desc : Option Word} (h : reachesB s l req desc = true) : s.Reaches l req desc := by
  simp only [reachesB, Bool.and_eq_true, Bool.not_eq_true', Option.isNone_iff_eq_none, Bool.or_eq_true, beq_iff_eq, List.all_eq_true] at h
  obtain ⟨⟨⟨⟨⟨h1, h2⟩, h3⟩, h4⟩, h5⟩, h6⟩ := h
  refine ⟨⟨h1, h2⟩, h3, h4, h5, fun hs a ha v hv => ?_⟩
  have := (h6.resolve_left hs) a ha v hv
  split at this
  · rename_i leaf e
    exact ⟨leaf, e, by simpa using this⟩
  · cases this

/-- A settled request, as one Boolean. -/
def settledB (s : State) (l : Latch) (req : MemReq) : Bool :=
  s.canonical && (req.accs.all (fun a => req.accs.all (fun b => (s.reached l req a).all (fun c => (s.reached l req b).all (fun d => c.loc != d.loc || c.path == d.path))))) &&
    (s.groupStores l.ref.team l.ref.grp).isEmpty && s.lockedLines.isEmpty

theorem settled_of {s : State} {l : Latch} {req : MemReq} (h : settledB s l req = true) : s.Settled l req := by
  simp only [settledB, Bool.and_eq_true, List.all_eq_true, Bool.or_eq_true, bne_iff_ne, beq_iff_eq, List.isEmpty_iff] at h
  obtain ⟨⟨⟨h1, h2⟩, h3⟩, h4⟩ := h
  exact ⟨h1, fun a ha b hb c hc d hd e => (h2 a ha b hb c hc d hd).resolve_left (fun n => n e), h3, h4⟩

/-- A location in package memory. -/
def isMem (c : Loc) : Bool :=
  match c with
  | .mem _ => true
  | _ => false

theorem mem_of_isMem {c : Loc} (h : isMem c = true) : ∃ k, c = .mem k := by
  cases c with
  | mem k => exact ⟨k, rfl⟩
  | host d a => cases h
  | sp t i o => cases h

/-- The issuing state with g1 = 0x11000 and thread 0 alone in k1, its word's bytes at 0x11000. -/
def memState : State := withWord 0x8877665544332211 (fun g => setG 4 0x3F (setG 2 8 (setG 1 0x11000 (setK 1 1 (setV 2 1 (setV 1 0x11000 (setF g)))))))

/-- Loads of thread 0 at 0x11000. -/
def loadForm : MemForm := { mf with mask := m1, d := .v 3, a := .g 1, b := .vz, size := 3 }

theorem wit_LoadsIssue_ld : memState.issuing here = true ∧ memState.Reaches here (memState.loadReq here loadForm false) none ∧ memState.Settled here (memState.loadReq here loadForm false) :=
  ⟨by decide +kernel, reaches_of (by decide +kernel), settled_of (by decide +kernel)⟩

theorem wit_LoadsIssue_ldu : let f := { loadForm with mask := .none, d := .g 3 }
    isUni f.d = true ∧ memState.Reaches here (memState.loadReq here f true) none ∧ memState.Settled here (memState.loadReq here f true) :=
  ⟨by decide +kernel, reaches_of (by decide +kernel), settled_of (by decide +kernel)⟩

/-- LDACQ with a range descriptor: 128 bytes at 0x11000. -/
theorem wit_LoadsIssue_ldacq : let s := memState.setGroup 0 0 (setG 5 (0x11000 + 7) (memState.group 0 0))
    let f := { loadForm with c := .g 5 }
    let req := { s.loadReq here f false with order := .acquire, range := rangeOf (rangeWord (s.groupAt here.ref) (here.self s) f) }
    uniformBad f.d [f.a, f.b] = false ∧ s.Reaches here req (rangeWord (s.groupAt here.ref) (here.self s) f) ∧ s.Settled here req :=
  ⟨by decide +kernel, reaches_of (by decide +kernel), settled_of (by decide +kernel)⟩

/-- LDP of f8 elements from element 8 on, LDV of one register, LDBK of f5 records. -/
theorem wit_LoadsIssue_packed : let f := { loadForm with fs := 8, b := .g 2, c := .vz, size := 6 }
    let start := packedStart (memState.groupAt here.ref) (here.self memState) f
    let req : MemReq := { baseReq f .load with align := 1, dests := [3], accs := [loadPieces 0 (wd (start / 8)) (packedPieces start 8 0 3)] }
    threadsOf (memState.activeSet here f.mask) = [0] ∧ memState.Reaches here req none ∧ memState.Settled here req :=
  ⟨by decide +kernel, reaches_of (by decide +kernel), settled_of (by decide +kernel)⟩

theorem wit_LoadsIssue_block : let base : Word := 0x11000
    let req : MemReq := { baseReq loadForm .load with dests := loadDests (.v 3) 8, accs := [{ thr := 0, ea := base, va := vecBytes base 1 0, recvs := loadRecvs (.v 3) 8 false }] }
    memState.Reaches here req none ∧ memState.Settled here req :=
  ⟨reaches_of (by decide +kernel), settled_of (by decide +kernel)⟩

theorem wit_LoadsIssue_records : let f := { loadForm with fs := 5, size := 7 }
    let base : Word := 0x11000
    let g := memState.groupAt here.ref
    let req : MemReq := { baseReq f .load with
      align := 1, dests := [3, 4], accs := [loadPieces 0 base ((blockPieces base.toNat (fmtWidth (g.readF 5)) 0).map (fun p => { p with reg := 3 + p.reg }))] }
    (g.fmt 5).blk = 1 ∧ blockProt memState 0 g f (fun t => memEa g (here.self memState) f t) [0] false = none ∧ memState.Reaches here req none ∧ memState.Settled here req :=
  ⟨by decide +kernel, by decide +kernel, reaches_of (by decide +kernel), settled_of (by decide +kernel)⟩

/-- Sizes of 1, 8, 16 and 32 bytes; the last word of the last register of a 32-byte load. -/
theorem wit_LoadedAndCombinedWords : (memState.activeSet here m1).getLsbD 0 = true ∧ 2 ^ (0 : Fin 8).val ≤ 8 ∧ 8 < 2 ^ (5 : Fin 8).val ∧ 8 * 3 < 2 ^ (5 : Fin 8).val ∧ 188 + 3 < 192 ∧
    (0xFF : Nat) < 2 ^ (8 * 1) := by decide +kernel

theorem wit_StoresIssue : memState.Reaches here (memState.storeReq here { loadForm with d := .v 1 } false) none ∧
    memState.Reaches here (memState.storeReq here { loadForm with mask := .none, d := .g 2 } true) none ∧
    memState.Reaches here { baseReq loadForm .store with accs := [{ thr := 0, ea := 0x11000, va := vecBytes 0x11000 1 0, val := 5 }] } none ∧
    memState.Reaches here { baseReq { loadForm with size := 6 } (.atomic .bits) with align := 1, accs := [storePieces 0 0x11000 (packedPieces (8 * 0x11000) 8 0 0) (fun _ => 5)] } none :=
  ⟨reaches_of (by decide +kernel), reaches_of (by decide +kernel), reaches_of (by decide +kernel), reaches_of (by decide +kernel)⟩

theorem wit_StoresIssue_records : let f := { loadForm with fs := 5, size := 7, d := .v 1 }
    let g := memState.groupAt here.ref
    blockProt memState 0 g f (fun t => memEa g (here.self memState) f t) [0] true = none ∧
      memState.Reaches here { baseReq f (.atomic .bits) with align := 1, accs := [storePieces 0 0x11000 (blockPieces 0x11000 4 0) (fun _ => 5)] } none :=
  ⟨by decide +kernel, reaches_of (by decide +kernel)⟩

/-- An issued store of two bytes, and an issued compare-and-swap of four, on one location each. -/
def twoBytes : PStore :=
  { id := 4, team := 0, grp := 0, split := 0, inst := 0, launch := 1, core := 0, op := .store
    accs := [{ thr := 0, ea := 0x11000, val := 0xBEEF, cells := [⟨.mem 0x500, .l1, 0x11000, none, false, none⟩, ⟨.mem 0x501, .l1, 0x11001, none, false, none⟩] }] }
def oneWord : PStore :=
  { twoBytes with op := .atomic .cas
                  accs := [{ thr := 3, ea := 0x11000, val := 9, cmp := 0x1234, recvs := [{ reg := 7, lo := 0, len := 32 }]
                             cells := (List.range 4).map (fun i => ⟨.mem (0x500 + i), .home, 0x11000 + i, none, false, none⟩) }] }

theorem wit_StoresAndAtomicsPerformed : let s : State := { issue id with stores := [twoBytes] }
    s.stores.find? (fun q => q.id = 4) = some twoBytes ∧ twoBytes.op = .store ∧ (s.stores.takeWhile (fun q => q.id != 4)).any (fun q => q.before twoBytes) = false ∧
      cellsLocked s.lockedLines twoBytes.cells = false ∧ s.matrixReads twoBytes = false ∧ (twoBytes.cells.map (fun c => c.loc)).Nodup ∧ twoBytes.cells.all (fun c => isMem c.loc) = true ∧
      (let t := after (exec (.storePerformed (.performed 4) {}) s); t.stores = [] ∧ t.sees 0 0x500 = 0xEF ∧ t.sees 0 0x501 = 0xBE ∧ t.sees 0 0x502 = 0) := by decide +kernel

theorem wit_noTbWaits : (issue id).noTbWaits := by
  have h : (issue id).allSplits.all (fun r => match ((issue id).splitAt r).wait with | .tb _ _ _ _ _ => false | _ => true) = true := by decide +kernel
  intro r hr d team side off par e
  have := List.all_eq_true.mp h r hr
  rw [e] at this
  cases this

/-- A compare-and-swap that writes, whose old word becomes ready for thread 3, and one that does not. -/
theorem wit_AtomicPerformed : let s := fun (x : Nat) => (({ issue id with stores := [oneWord], mem := Memory.writeL [] 0x500 (leBytes 4 x) } : State).setGroup 0 0
      { ((issue id).group 0 0) with pends := [{ id := 0, inst := 0, pc := 0, reg := 7, mask := 8, src := .memory }] })
    (s 0).stores.find? (fun q => q.id = 4) = some oneWord ∧ (s 0).matrixReads oneWord = false ∧ cellsLocked (s 0).lockedLines oneWord.cells = false ∧ (oneWord.cells.map (fun c => c.loc)).Nodup ∧
      (let t := after (exec (.storePerformed (.performed 4) {}) (s 0x1234)); t.mem.readN 0x500 4 = 9 ∧ pending (t.group 0 0) 3 = some 0x1234) ∧
      (let t := after (exec (.storePerformed (.performed 4) {}) (s 0x55)); t.mem.readN 0x500 4 = 0x55 ∧ pending (t.group 0 0) 3 = some 0x55) := by decide +kernel

theorem wit_AtomicsIssue : let f := { loadForm with order := .relaxed, c := .v 2 }
    memState.issuing here = true ∧ uniformBad f.d [f.a, f.b, f.c] = false ∧ memState.Reaches here (memState.atomReq here f (.int 0) false) none ∧
      memState.Reaches here (memState.atomReq here f .cas false) none ∧ (((memState.groupAt here.ref).fmt 0).kind = 0 ∧ ((memState.groupAt here.ref).fmt 0).rnd ≠ 5 ∧ ((memState.groupAt here.ref).fmt 0).blk = 0) ∧
      memState.Reaches here (memState.atomReq here { f with size := 2 } (.flt 0 0x000002000A0FF744) false) none :=
  ⟨by decide +kernel, by decide +kernel, reaches_of (by decide +kernel), reaches_of (by decide +kernel), by decide +kernel, reaches_of (by decide +kernel)⟩

theorem wit_OperandTraps : (memState.groupAt here.ref).tx = none ∧ memState.det 0 = false ∧
    ((threadsOf (memState.activeSet here m1)).filter (fun t => (memEa (memState.groupAt here.ref) (here.self memState) { loadForm with disp := some 4 } t).toNat % 8 != 0)) ≠ [] ∧
    isUni (Opnd.g 3) = true ∧ [Opnd.v 1, .vz].any isVec = true ∧ AMap.get (did (.iadd { rf with d := .g 3, a := .v 1, b := .vz }) id).trap 0x20 0 = 0x04 := by decide +kernel

/-- A state whose L1 holds a dirty byte at location 0x700. -/
def dirtyState : State := memState.setCore 0 { memState.core 0 with l1 := [(0x700, { val := 0xAB, dirty := true, covered := true }), (0x701, { val := 0xCD })] }

/-- FENCE at `.die` writes the dirty byte back and drops the clean one (R227, R250). -/
theorem wit_ReleaseAndAcquire : dirtyState.issuing here = true ∧ dirtyState.canonical = true ∧ (dirtyState.groupAt here.ref).tx = none ∧ dirtyState.det 0 = false ∧
    logWaits (dirtyState.groupAt here.ref) (here.self dirtyState) = false ∧ dirtyState.groupStores 0 0 = [] ∧ dirtyState.remoteOf 0 0 0xFFFFFFFF = false ∧ dirtyState.remotePending 0 0 = false ∧ dirtyState.lockedLines = [] ∧ wide false 3 = true ∧
    (let t := after (exec (.fence { rf with fs := 3 }) dirtyState); t.mem.read 0x700 = 0xAB ∧ (t.core 0).l1At 0x701 = none) ∧
    (let t := after (exec (.fence { rf with fs := 3, mod := 2 }) dirtyState); t.mem.read 0x700 = 0) := by decide +kernel

theorem wit_ReleaseAndAcquire_store : let f := { loadForm with d := .v 1, fs := 4, order := .release }
    let req := { dirtyState.storeReq here f false with order := .release, range := rangeOf none }
    dirtyState.Reaches here req none ∧ dirtyState.Settled here req ∧ ((req.accs.flatMap (dirtyState.reached here req)).map (fun x => x.loc)).Nodup ∧
      (let t := after (exec (.st f) dirtyState); t.stores = [] ∧ t.mem.read 0x700 = 0xAB) :=
  ⟨reaches_of (by decide +kernel), settled_of (by decide +kernel), by decide +kernel⟩

theorem wit_Maintenance : dirtyState.canonical = true ∧ (dirtyState.operand here (.g 2) 0).toNat < 4096 ∧ (dirtyState.splitAt here.ref).st = 1 ∧
    (let t := after (exec (.cmnt { mf with fs := 5, mask := m1, a := .g 1, b := .vz, size := 3 }) dirtyState); t.mem.read 0x700 = 0xAB ∧ (t.core 0).l1At 0x701 = none) := by decide +kernel

theorem wit_Maintenance_promo : let s := dirtyState.setSplitAt here.ref { dirtyState.splitAt here.ref with st := 5, wait := .promo 0, pc := 0x10008 }
    (s.splitAt here.ref).wait = .promo 0 ∧ (s.splitAt here.ref).st = 5 ∧ 0 < (s.groupAt here.ref).splits.length ∧
      (let t := after (exec (.promoWritebackDone here.ref) s); t.mem.read 0x700 = 0xAB ∧ (t.splitAt here.ref).st = 1) := by decide +kernel

/-- Every live thread in the split; a live thread outside it; open, aborted and filled transactions. -/
theorem wit_TransactionInstructions : let g := (issue id).groupAt here.ref
    g.live &&& ~~~(here.self (issue id)) = 0 ∧ (issue id).det 0 = false ∧ g.tx = none ∧
      (let s := issue (fun g => g.setSplit 0 { g.split 0 with mask := 1 }); (s.groupAt here.ref).live &&& ~~~(here.self s) ≠ 0) ∧
      (let x : Tx := { accs := [{ op := .store, acc := { thr := 0, ea := 0 } }] }
       let s := issue (fun g => { g with tx := some x })
       logWaits (s.groupAt here.ref) (here.self s) = false ∧ s.groupStores 0 0 = [] ∧ (∀ y ∈ x.accs, y.remote = none) ∧ x.accs ≠ [] ∧ s.issuing here = true) := by decide +kernel

/-- A buffered store of one byte at location 0x500 in a commit that was sent. -/
def txState (x : Tx) : State := (issue (fun g => { g.setSplit 0 { g.split 0 with st := 5, wait := .commit (.g 3) 0 } with tx := some { x with
  accs := [{ op := .store, acc := { thr := 0, ea := 0x11000, val := 0x5A, cells := [⟨.mem 0x500, .l1, 0x11000, none, false, none⟩] } }], home := some 0, sent := true } }))

/-- The commit locks its line, answers 0 and leaves its byte; one that finds the line locked answers 3 (R254). -/
theorem wit_TransactionCommit : let s := txState {}
    let u := after (exec (.commitArrival 0 0) s)
    let t := after (exec (.tcommitAnswer 0 0) u)
    (s.group 0 0).tx.isSome = true ∧ s.lockedLines = [] ∧ u.lockedLines ≠ [] ∧ ((u.group 0 0).tx.bind (fun x => x.answer)) = some 0 ∧ t.mem.read 0x500 = 0x5A ∧ (t.group 0 0).tx = none ∧
      (t.group 0 0).readG 3 = 0 ∧ ((t.group 0 0).split 0).st = 1 ∧ (u.group 0 0).splits.length = 8 ∧ (∀ j, j < 8 → j ≠ 0 → ((u.group 0 0).split j).st ≠ 5) ∧
      (∀ t ∈ u.teams, ∀ h ∈ t.2.groups, h.2.oplog = []) := by decide +kernel

theorem wit_TransactionCommit_refused : let t := after (exec (.tcommitAnswer 0 0) (txState { answer := some 3 }))
    t.mem.read 0x500 = 0 ∧ (t.group 0 0).readG 3 = 3 := by decide +kernel

/-- The hypotheses of BAR, BARARV and BARWT; the two sides of the completion, and of the phase test. -/
theorem wit_TeamBarriers : let s := issue (setG 1 64)
    AMap.sorted (s.team 0).groups = true ∧ (s.launchOf 0).lrec.ngrp * 32 ≤ 2048 ∧ (s.groupAt here.ref).tx = none ∧ (s.splitAt here.ref).st = 1 ∧ logWaits (s.groupAt here.ref) (here.self s) = false ∧
      s.groupStores 0 0 = [] ∧ countOf (s.groupAt here.ref) (here.self s) .vz = none ∧ countOf (s.groupAt here.ref) (here.self s) (.g 1) = some 64 ∧ s.det 0 = false ∧ s.matrixHolds 0 0 = false ∧
      (s.team 0).paired = false ∧ phaseDone 1 0 = true ∧ phaseDone 0 0 = false ∧ phaseDone 0 65535 = true := by decide +kernel

/-- A split that waits at a barrier in a launch whose region watches it, and the handler it is sent to (R115). -/
def stalled : State :=
  let s := withHandler (issue (fun g => g.setSplit 0 { g.split 0 with st := 5, wait := .bar 0 0, parkPc := 0x9000, pc := 0x9008 }))
  s.setLaunch 1 { s.launch 1 with region := { wdbar := 1 } }

theorem wit_TeamBarriers_watchdog : (stalled.team 0).saved = none ∧ (stalled.groupAt here.ref).stopped = false ∧ (stalled.launchOf 0).region.wdbar ≠ 0 ∧ (stalled.splitAt here.ref).st = 5 ∧
    (stalled.splitAt here.ref).wait.watched = true ∧ (stalled.launchOf 0).handler = some 0x20000 ∧ (stalled.groupAt here.ref).handling 0 = false ∧
    (let t := after (exec (.barstallWatchdog here.ref) stalled)
     (t.splitAt here.ref).st = 6 ∧ (t.splitAt here.ref).pc = 0x20000 ∧ AMap.get (t.groupAt here.ref).trap 0x20 0 = 0x0E ∧ AMap.get (t.groupAt here.ref).trap 0x21 0 = 0x9000) := by decide +kernel

/-- The state in which that trap is taken: the waiting threads are counted as arrived, and the split no longer waits. -/
def stalledCounted : State :=
  let g := stalled.groupAt here.ref
  (stalled.setGroupAt here.ref { g with counted := g.counted ||| (stalled.splitAt here.ref).mask }).setSplitAt here.ref { stalled.splitAt here.ref with st := 1, wait := .none }

/-- The record of that trap can be written whatever words the instruction has. -/
theorem wit_TeamBarriers_record (w : Word × Word) : (stalledCounted.recordTrap 0 0 0 ⟨{ code := 0x0E }, 0x9000, w.1, w.2, 0x9008⟩).isSome = true := by
  have h : ∀ t : TrapAt, (stalledCounted.recordTrap 0 0 0 t).isSome = (stalledCounted.recordTrap 0 0 0 { t with w0 := 0, w1 := 0 }).isSome := fun _ => rfl
  rw [h]
  show (stalledCounted.recordTrap 0 0 0 ⟨{ code := 0x0E }, 0x9000, 0, 0, 0x9008⟩).isSome = true
  decide +kernel

/-- The counted word and the TB that the instructions of CountedAndTransactionWaits reach. -/
theorem wit_CountedAndTransactionWaits : let s := withWord 7 (fun g => setG 2 0x40 (setG 1 0x11000 g))
    s.issuing here = true ∧ s.canonical = true ∧ s.det 0 = false ∧
      (match (s.advance here).placeUniform here .glob 0x11000 8 8 false with | .cells u cs => u == s.advance here && leNat (s.readCells 0 cs).1 == 7 | _ => false) = true ∧
      isOk ((s.advance here).placeTb here 0x40 true) (0, 0, 0x40) = true ∧ isOk ((s.advance here).placeTb here 0x40 false) (0, 0, 0x40) = true ∧
      here.self s &&& (s.groupAt here.ref).live ≠ 0 ∧ (let d := issue (fun g => { g with live := 0, dem := 0xFFFFFFFF }); here.self d &&& (d.groupAt here.ref).live = 0 ∧ d.issuing here = true) := by
  decide +kernel

/-- A WAITC parked on the word at 0x11000: below its threshold it stays, at it it goes on with the value. -/
theorem wit_WaitcRelease : let s := fun (x : Nat) => withWord x (fun g => g.setSplit 0 { g.split 0 with st := 5, wait := .counted 0 (.g 3) 0 0x11000 7 })
    (((s 6).splitAt here.ref).st = 5 ∧ ((s 6).team 0).saved = none ∧ ((s 6).waitWord here.ref 0 0x11000).isSome = true) ∧
      ((after (exec (.waitcRelease here.ref) (s 6))).splitAt here.ref).st = 5 ∧ ((after (exec (.waitcRelease here.ref) (s 7))).splitAt here.ref).st = 1 ∧
      ((after (exec (.waitcRelease here.ref) (s 7))).group 0 0).readG 3 = 7 := by decide +kernel

/-- The one team of a launch has arrived at scope cluster: the combiner counts it, completes and releases it (R401, R402). -/
def arrivedState : State := issue (fun g => { g.setSplit 0 { g.split 0 with st := 5, wait := .hbar 2 } with hbarArr := [(2, 0xFFFFFFFF)] })

theorem wit_HierarchicalBarriers : AMap.sorted arrivedState.teams = true ∧ (arrivedState.team 0).launch = 1 ∧ clusterOf (arrivedState.team 0).core = 0 ∧ AMap.get (arrivedState.launch 1).hbar (2 * 4096 + 0) 0 = 0 ∧
    (arrivedState.launch 1).region.det = false ∧ (arrivedState.team 0).hbarDone.contains 2 = false ∧ (arrivedState.team 0).allExited = false ∧ (arrivedState.team 0).hbarReady 2 = true ∧
    (let t := after (exec (.hbarCombinerArrival 1 2 0) arrivedState)
     let u := after (exec (.hbarRelease 1 2 0) t)
     (t.team 0).hbarDone = [2] ∧ AMap.get (t.launch 1).hbar (2 * 4096) 0 = 2 ∧ (u.splitAt here.ref).st = 1 ∧ AMap.get (u.launch 1).hbar (2 * 4096) 0 = 0 ∧ AMap.get (u.group 0 0).hbarArr 2 0 = 0 ∧
       (u.team 0).hbarDone = []) := by decide +kernel

/-- A second team of the launch there that has not arrived. -/
theorem wit_HierarchicalBarriers_others : let s := arrivedState.setTeam 1 { (issue id).team 0 with linear := 1 }
    (s.team 1).launch = 1 ∧ (s.team 1).hbarReady 2 = false ∧ (s.team 1).allExited = false ∧ (s.team 1).hbarDone.contains 2 = false ∧
      (let t := after (exec (.hbarCombinerArrival 1 2 0) s); (t.team 0).hbarDone = [2] ∧ AMap.get (t.launch 1).hbar (2 * 4096) 0 = 0) := by decide +kernel

theorem wit_Codebooks : let s := memState
    s.issuing here = true ∧ (s.groupAt here.ref).tx = none ∧ s.bookBusy 0 2 = false ∧ s.shadowBusy 0 2 = false ∧ s.bookRead 0 2 true = false ∧ s.bookRead 0 2 false = false ∧ here.self s &&& (s.groupAt here.ref).live ≠ 0 ∧ bindBad 0x400 = true ∧ bindBad 0x3AF = true ∧ bindBad 0x16F = false ∧
      (cbxpExpansion { rf with fs := 5, mod := 0xA4 }).shapeTrap (s.setCore 0 { s.core 0 with banks := [(2, book)] } |>.core 0) (s.groupAt here.ref) = none ∧ isUni (Opnd.g 1) = true := by decide +kernel

/-- The loads of CBLD (two entries), CBBIND and CBSAVE `.rst`, and the store of CBSAVE, reach their bytes. -/
theorem wit_Codebooks_memory : let g := memState.groupAt here.ref
    let load := bookReq g (here.self memState) .glob 8 0x11000 2 ⟨2, 255, .load⟩
    memState.Reaches here load none ∧ memState.Settled here load := ⟨reaches_of (by decide +kernel), settled_of (by decide +kernel)⟩

theorem wit_Codebooks_image : let g := memState.groupAt here.ref
    let whole : Acc := { thr := 0, ea := 0x11000, va := spanFrom 0x11000 4224, val := leNat ({} : Bank).image }
    memState.Reaches here (bookReq g (here.self memState) .glob 64 0x11000 528 ⟨2, 0, .image⟩) none ∧
      memState.Reaches here { op := .store, space := .glob, align := 64, cache := 0, order := .plain, scope := 0, accs := [whole] } none :=
  ⟨reaches_of (by decide +kernel), reaches_of (by decide +kernel)⟩

/-- A copy of two entries from 255 on wraps to entry 0 (R271, R273). -/
theorem wit_CodebookLoadDone : let x : BankLoad := { id := 3, team := 0, grp := 0, bank := 2, first := 255, vals := [5, 6], plane := true }
    let s := (issue id).setCore 0 { (issue id).core 0 with loads := [x] }
    let t := after (exec (.codebookLoadDone 0 { it := 3 }) s)
    (s.core 0).loads.find? (fun y => y.id = 3) = some x ∧ ((s.core 0).loads.find? (fun y => y.bank = 2)).map (fun y => y.id) = some 3 ∧ x.vals.length ≤ 256 ∧ x.first < 256 ∧
      ((t.core 0).bank 2).p1.entry 255 = some 5 ∧ ((t.core 0).bank 2).p1.entry 0 = some 6 ∧ ((t.core 0).bank 2).p1.entry 1 = none ∧ (t.core 0).loads = [] := by decide +kernel

/-- What the matrix instructions need, with descriptors in g4 and g5: BF16, rows of 256 bytes, B at 0x8000 (R289). -/
def matState : State := issue (fun g => setG 7 1 (setG 6 0x40 (setG 5 0x0000001010008000 (setG 4 0x0000001010000000 { setF g with f := [(0, 0x000002000A0FF744), (1, 0x000001000A0FE744)] }))))

theorem wit_MatrixInstructions : let f := { rf with fs := 1, d := .g 3, a := .g 4, b := .g 5 }
    let s1 := matState.advance here
    let g := matState.groupAt here.ref
    matState.issuing here = true ∧ g.tx = none ∧ (g.split 0).st = 1 ∧ here.self matState = g.present ∧ matState.drivesPair 0 g f = false ∧ matState.pairBlocks 0 0 = false ∧ (matState.core 0).orderRoom = true ∧
      mmaIllop false f here s1 = false ∧ here.self matState ≠ 0 ∧ firstTrap (mmaChecks false f here s1 (s1.groupAt here.ref) false) = none ∧ (matState.cluster 0).locks.length < 64 ∧ here.self matState &&& g.live ≠ 0 ∧ matState.det 0 = false ∧
      logWaits g (here.self matState) = false := by decide +kernel

/-- MMAS with its codes at 0x8000, MLDA and MDRAIN `.sp` of a tile in the scratchpad, MARM, and a peer target (R293 to R308). -/
theorem wit_MatrixInstructions_others : let s1 := matState.advance here
    let g1 := s1.groupAt here.ref
    align4 0 (rowStride { rf with b := .vz } g1 (here.self matState) 512) (here.self matState) false = none ∧ s1.rowsTrap here g1 .scratch (rowSpans 0 512 128 512) false = none ∧
      (matState.fmtAt here 0).rnd ≠ 5 ∧ s1.rowsTrap here g1 .scratch (rowSpans 0 512 128 (drainRow (matState.fmtAt here 0))) true = none ∧
      peerTrap { rf with fs := 1, a := .g 7, b := .vz } g1 (here.self matState) false = none ∧ isOk (s1.placeTb here 0x40 true) (0, 0, 0x40) = true ∧ (1 : Word).toNat % 65536 ≠ 0 ∧
      firstTrap (mmaChecks true { rf with a := .g 4, b := .g 5 } here s1 g1 false) = none := by decide +kernel

/-- MWAIT with and without an earlier instruction of its group on the tile; MSEL24's destinations and slots. -/
theorem wit_MatrixInstructions_waits : let o : MatrixOp := { id := 0, kind := .mzero, team := 0, grp := 0, split := 0, inst := 0, pc := 0, w0 := 0, tile := 1 }
    let s := (issue (fun g => { g with nextInst := 5 })).setCore 0 { (issue id).core 0 with order := [o] }
    s.matrixOwed 0 0 1 5 = true ∧ s.matrixOwed 0 0 2 5 = false ∧ s.matrixOwed 0 0 4 5 = true ∧ (matState.fmtAt here 1).k % 4 = 0 ∧ (2 : Nat) + 1 < 192 := by decide +kernel

/-- The worked example of R289 and R300 in small: A(0,0) = B(0,0) = 1.0 of BF16, one product, is added to tile element (0, 0). -/
def mmaOp : MatrixOp :=
  { id := 0, kind := .mma, team := 0, grp := 0, split := 0, inst := 0, pc := 0x10000, w0 := 0, tile := 1, a := 0x0000001010000000, b := 0x0000001010008000, reg := some 195
    fmts := [(0, 0x000002000A0FF744), (1, 0x000001000A0FE744)] }

theorem wit_MatrixEvents : let s := (issue id).setCore 0 { (issue id).core 0 with order := [mmaOp] }
    (s.core 0).order.find? (s.arrayFree 0) = some mmaOp ∧ s.bad = [] ∧ s.lockedLines = [] ∧ mmaOp.waits = [] ∧ mmaOp.lock = none ∧ mmaOp.fatal = none ∧ ((s.core 0).tile 1).armed = none ∧ ((s.core 0).tile 1).invalid = false ∧
      s.groupStores 0 0 = [] ∧ mmaOp.status = 0 ∧ bitAt mmaOp.mod 0 = false ∧ s.fab.contribs = [] := by decide +kernel

/-- The rows of an MDRAIN `.sp` of two-bit integers, 32 bytes apart, are the scratchpad bytes 0 to 4095. -/
def drainCells : List Loc :=
  ((List.range 128).flatMap (fun r => (issue id).spCells 0 0 { thr := 0, ea := wd r * 32, va := spanFrom (wd r * 32) 32 })).map (fun e => e.loc)

theorem drain_cells : drainCells = (List.range 4096).map (fun d => Loc.sp 0 0 d) := by decide +kernel

/-- No schedule has an entry due on the cluster. -/
theorem wit_noneDue : (issue id).noneDue 0 := by unfold State.noneDue; decide +kernel

theorem wit_MatrixEvents_drain : drainRow (fmtOf 0x0000002200000105) = 32 ∧ fmtValid 0x0000002200000105 = true ∧ drainCells.Nodup := by
  refine ⟨by decide +kernel, by decide +kernel, ?_⟩
  rw [drain_cells]
  exact List.pairwise_map.mpr (List.nodup_range.imp (fun h e => h (by injection e)))

/-- The completion makes the status ready, and wakes MWAIT; a drain without an answer defers REMFAULT (R296, R307). -/
theorem wit_MatrixComplete : let s := fun (o : MatrixOp) => (issue (fun g => { g.setSplit 0 { g.split 0 with st := 5, wait := .matrix 1 5 } with
        pends := [{ id := 0, inst := 0, pc := 0, reg := 195, mask := 0xFFFFFFFF, src := .unit }] })).setCore 0 { (issue id).core 0 with order := [{ o with started := true }] }
    let t := after (exec (.matrixComplete 0 0) (s mmaOp))
    let u := after (exec (.drainPeerTimeout 0 0) (s { mmaOp with kind := .mdrain, peers := 1 }))
    (t.core 0).order = [] ∧ (t.splitAt here.ref).st = 1 ∧ ((t.group 0 0).pends.map (fun p => p.src)) = [.ready] ∧ (u.core 0).order = [] ∧
      ((u.group 0 0).deferred.map (fun d => (d.trap.req.code, d.trap.req.aux))) = [(0x0F, 7)] := by decide +kernel


/-! ### The cluster engine, remote access and submissions -/

/-- A state with words placed from 0x11000 on, registers g8 to g11 a command from 0x11000 to scratchpad 0x100 that counts at the TB at 0x40. -/
def engState (ws : List Nat) (w3 : Word) (f : Group → Group) : State :=
  let s := (issue (fun g => f (setG 11 w3 (setG 10 0x40 (setG 9 0x8000000000000100 (setG 8 0x11000 (setF g))))))).writePhys 0x11000 (ws.flatMap (leBytes 8))
  s.setDie 0 { s.die 0 with tlb := [fetchLeaf] }

/-- GATH of two elements of eight bytes by the list at 0x11100: entry 1, and one beyond the extent of 3 (R362). -/
def gathForm : RegForm := { rf with fs := 1, d := .g 3, a := .g 8, b := .g 12, c := .g 13, mod := 0xC0 }
def gathState : State := (engState [0x1111, 0x2222, 0x3333] 3 (fun g => setG 13 2 (setG 12 0x11100 g))).writePhys 0x11100 (leBytes 8 1 ++ leBytes 8 7)

/-- A state with bytes of the team's scratchpad set. -/
def withSp (s : State) (off : Nat) (bs : List Byte) : State :=
  (bs.zipIdx).foldl (fun (acc : State) (x : Byte × Nat) => acc.poke { loc := .sp 0 0 (off + x.2), path := .home } x.1) s

/-- Whether an answer of a plan is an operation of that many ranges on core 0. -/
def plans (e : Except TrapReq (EngineOp × List RangeUse)) (n : Nat) : Bool :=
  match e with
  | .ok (op, rs) => op.core = 0 && rs.length = n
  | .error _ => false

/-- A recipe that copies four elements of 32 bits: a READ cell and a WRITE cell (R351). -/
def copyRecipe : List Nat := [2 ^ 32 * 4 + 2 ^ 48 + 2 ^ 64 + 2 ^ 80 + 2 ^ 96 * 4 + 2 ^ 112 + 2 ^ 128 + 2 ^ 144, 11]

theorem wit_EngineInstructions : let s := gathState
    let l := here
    let g := s.groupAt l.ref
    let self := l.self s
    let s1 := s.advance l
    let words := commandWord g self (.g 8)
    let new := fun (kind : EngineKind) => newOp kind s1 0 0 0 g.core l.pc l.w0
    s.issuing l = true ∧ g.tx = none ∧ (g.split 0).st = 1 ∧ logWaits g self = false ∧ s.groupStores 0 0 = [] ∧ self = g.present ∧ self &&& g.live ≠ 0 ∧
      plans (s1.listPlan false (new .gath) words (s.operand l (.g 12) 0) (s.operand l (.g 13) 0) 8 self none) 3 = true ∧
      plans (s1.listPlan true (new .scat) words (s.operand l (.g 12) 0) (s.operand l (.g 13) 0) 8 self none) 3 = true ∧
      plans (s1.cpyPlan (new .cpy) words (some copyRecipe) g.readF self none) 2 = true ∧
      (s.cluster 0).ops.length < 32 ∧ (s.cluster 0).locks = [] ∧ s.recipeBusy 0 0 = false ∧
      (let d := issue (fun g => { g with live := 0, dem := 0xFFFFFFFF }); here.self d = (d.groupAt l.ref).present ∧ here.self d &&& (d.groupAt l.ref).live = 0 ∧ d.issuing l = true) := by decide +kernel

/-- RGET and RPUT: W0 with NOTB names peer 0, W1 the remote address, W2 the local one, W3 the count (R475). -/
theorem wit_EngineInstructions_bulk : let s := (issue (fun g => setG 11 300 (setG 10 0x11000 (setG 9 0x20010 (setG 8 0x10000 g)))))
    let g := s.groupAt here.ref
    let plan := fun (put : Bool) => (s.advance here).bulkPlan put (newOp (if put then .rput else .rget) (s.advance here) 0 0 0 g.core here.pc here.w0) (commandWord g (here.self s) (.g 8)) (here.self s) none
    plans (plan false) 1 = true ∧ plans (plan true) 1 = true := by decide +kernel

/-- An image of that recipe at 0x11000 that RCPL reads (R351, R368). -/
def rcplState : State :=
  engState ([0x102, 0, 0, 0] ++ copyRecipe.flatMap (fun c => (List.range 4).map (fun i => c / 2 ^ (64 * i) % 2 ^ 64))) 0 id

def rcplReq : MemReq := rcplState.sized (rcplState.whoAt here)
  { op := .load, space := .glob, align := 32, cache := 0, order := .plain, scope := 0, accs := [{ thr := 0, ea := 0x11000 }], book := some ⟨0, 0, .recipe⟩ }

theorem wit_EngineInstructions_recipe : rcplState.Reaches here rcplReq none ∧ rcplState.Settled here rcplReq ∧
    recipeFault 0x102 copyRecipe = none ∧
    (let cells := cellsOf ((List.range rcplReq.dests.length).map (fun j => rcplState.loadedWord here rcplReq (1000 + j) (eventThread (rcplState.groupAt here.ref) (here.self rcplState))))
     cells = 0x102 :: copyRecipe) ∧
    AMap.find ((after (exec (.rcpl { rf with a := .g 8 }) rcplState)).cluster 0).recipes 0 = some copyRecipe :=
  ⟨reaches_of (by decide +kernel), settled_of (by decide +kernel), by decide +kernel, by decide +kernel, by decide +kernel⟩

/-- STGADV stops at 255, and an entry of a later stage waits. -/
theorem wit_EngineInstructions_stage : let s := (issue (setG 1 200)).setTeam 0 { (issue (setG 1 200)).team 0 with stage := 100 }
    (s.launchOf 0).sched = [] ∧ ((after (exec (.stgadv { rf with a := .g 1 }) s)).team 0).stage = 255 ∧ ((after (exec (.stgadv rf) s)).team 0).stage = 101 := by decide +kernel

/-- The GATH through its start, its sector and its completion: entry 1 is copied, the other gives zeros, and its one sector is counted last, when the cycle ends (R344, R346, R349, R362). -/
theorem wit_EngineOperations : let s0 := after (exec (.gath gathForm) (withSp (withSp gathState 0x40 (leBytes 16 (0x0001000100010001 + 2 ^ 64))) 0x100 (List.replicate 16 0xFF)))
    let s1 := after (exec (.engineOpStart 0 1) s0)
    let s2 := after (exec (.engineSectorWrite 0 { it := 1 }) s1)
    let s3 := after (exec (.engineOpComplete 0 1) s2)
    (s0.group 0 0).readG 3 = 1 ∧ ((s0.engineOp 0 1).map (fun o => (o.started, o.waits.isEmpty, o.fatal.isNone, o.strict))) = some (false, true, true, false) ∧ s0.lockFree 0 0 = true ∧
      ((s1.engineOp 0 1).map (fun o => (o.started, o.writes.length))) = some (true, 1) ∧ ((s1.cluster 0).status.map (fun x => (x.tag, x.state, x.err, x.srcb))) = [(1, 1, 1, 8)] ∧
      leNat ((List.range 16).map (fun i => s2.peek { loc := .sp 0 0 (0x100 + i), path := .home })) = 0x2222 ∧ (s2.engineOp 0 1).map (fun o => (o.writes.length, o.held.length)) = some (0, 1) ∧
      s2.tb 0 0 0x40 = s1.tb 0 0 0x40 ∧ (s3.cluster 0).ops.length = 0 ∧ (s3.cluster 0).locks = [] ∧ (s2.tb 0 0 0x40).pendsec = 65537 ∧ (s3.settleTbs.tb 0 0 0x40).pendsec = 65536 := by decide +kernel

/-- The control block of a region at 0x12000: version 1, priority 7, ring of 16 records at 0x13000 with its indices at 0x13400 and 0x13408, watchdog of the pager 5, save area of 32,768 bytes at 0x18000 (R428). -/
def rcbBits : Nat := 1 + 7 * 2 ^ 8 + 5 * 2 ^ 480 + 0x13000 * 2 ^ 896 + 4 * 2 ^ 960 + 7 * 2 ^ 976 + 0x13400 * 2 ^ 1024 + 0x13408 * 2 ^ 1088 + 0x18000 * 2 ^ 1152 + 0x8000 * 2 ^ 1216

/-- A launch record: one group of eight registers, the code object at 0x15000 (R424), and its number of teams. -/
def recordBits (teams : Nat) : Nat := 1 + 4 * 2 ^ 21 + 1 * 2 ^ 24 + 8 * 2 ^ 32 + 0x15000 * 2 ^ 64 + 0xFFFFFFFF * 2 ^ 160 + teams * 2 ^ 192 + 2 ^ 224 + 2 ^ 256

/-- Its code object: a native section of 64 bytes at 0x80, for this device (R89, R91). -/
def codeBits : Nat := 2 ^ 48 + 0x80 * 2 ^ 64 + 0x40 * 2 ^ 96 + deviceStamp * 2 ^ 512

/-- The stamp is the digest of the identity. -/
theorem test_device_stamp : deviceStamp = 37927684068104202951091177576970064659613712005797966072828079928862541356050626332843584395577018107187324089956527 := by decide +kernel

/-- SHA-384 of "abc" (FIPS 180-4). -/
theorem test_sha384 : leNat (sha384 [0x61, 0x62, 0x63]).reverse = 0xCB00753F45A35E8BB5A03D699AC65007272C32AB0EDED1631A8B605A43FF5BED8086072BA1E7CC2358BAECA134C825A7 := by decide +kernel

/-- The nonzero bytes of objects in the 32 KiB from 0x10000 on, by rising address, as memory holds them (R376). -/
def placed (xs : List (Nat × List Byte)) : Memory :=
  xs.flatMap (fun (x : Nat × List Byte) => (x.2.zipIdx.filter (fun (y : Byte × Nat) => y.1 != 0)).map (fun (y : Byte × Nat) => ((physKey 0 (x.1 + y.2)).getD 0, y.1)))

/-- A state with that region, record and code object besides objects above them, its page known to die 0, and its launch in the region. -/
def inWorld (s : State) (more : List (Nat × List Byte)) : State :=
  let s1 := { s with mem := placed ([(0x12000, leBytes 256 rcbBits), (0x14000, leBytes 256 (recordBits 2)), (0x15000, leBytes 112 codeBits)] ++ more) }
  let s2 := s1.setDie 0 { s1.die 0 with tlb := [fetchLeaf] }
  s2.setLaunch 1 { s2.launch 1 with region := regionOf [(0x12000, rcbBits)] }

/-- The issuing state there. -/
def world (f : Group → Group) : State := inWorld (issue f) []

theorem test_world : (world id).canonical = true ∧ isOk ((world id).region 0x12000) (regionOf [(0x12000, rcbBits)]) = true := by decide +kernel

/-- Whether a submission is accepted, or the status of its refusal. -/
def verdict (e : Except Nat (Nat × State)) : Nat :=
  match e with
  | .ok _ => 0
  | .error c => c

/-- Remote accesses of threads 0 and 1 to this package itself, at 0x11000 (R465). -/
def remForm : RegForm := { rf with fs := 0, mask := m1, d := .v 3, a := .v 1, b := .v 2, c := .v 4, mod := 0xC0 }
def remState : State := issue (fun g => setK 1 3 (setV 4 7 (setVs 2 (fun t => 0x11000 + 8 * wd t) (setV 3 9 (setV 1 0 g)))))

/-- The hypotheses of the thread accesses hold for each kind; and on their ends: the highest peer and the last address. -/
theorem wit_RemoteInstructions : let s := remState
    let g := s.groupAt here.ref
    let self := here.self s
    s.issuing here = true ∧ s.canonical = true ∧ g.tx = none ∧ s.det 0 = false ∧ logWaits g self = false ∧ s.groupStores 0 0 = [] ∧ s.remotePending 0 0 = false ∧ s.lockedLines = [] ∧
      (∀ k, k ∈ [RemKind.load, .store, .atomic, .cas] → uniformBad remForm.d (remSources k remForm) = false ∧ (remAccs k remForm g self).map (fun x => (x.thr, x.addr.toNat)) = [(0, 0x11000), (1, 0x11008)] ∧
        ∀ x ∈ remAccs k remForm g self, x.addr.toNat % remSize remForm = 0 ∧ x.peer.toNat < 1024 ∧ s.routeValid x.pkg = true ∧ x.addr.toNat < 2 ^ 57) ∧
      (({ s with fab := { s.fab with routes := [(1023, (1, 0))] } } : State).routeValid 1023 = true) := by decide +kernel

/-- RLD leaves D pending and sends a request for each thread; RST one for the block of both; the second RCAS of one block waits for the first (R472). -/
theorem wit_RemoteInstructions_requests :
    (let t := after (exec (.rld remForm) remState)
     (t.fab.reqs.map (fun r => (r.pkt.op, r.pkt.va, r.pkt.len))) = [(1, 0x11000, 8), (1, 0x11008, 8)] ∧ t.fab.net.length = 2 ∧ ((t.group 0 0).pends.map (fun p => (p.reg, p.mask.toNat))) = [(3, 3)]) ∧
    (let t := after (exec (.rst remForm) remState)
     (t.fab.reqs.map (fun r => (r.pkt.op, r.pkt.va, r.pkt.data))) = [(2, 0x11000, leBytes 8 9 ++ leBytes 8 9)] ∧ (t.group 0 0).pends = []) ∧
    (let t := after (exec (.rcas remForm) remState)
     ((t.fab.reqs ++ t.fab.queue).map (fun r => (r.pkt.op, r.pkt.data))) = [(4, leBytes 8 9 ++ leBytes 8 7), (4, leBytes 8 9 ++ leBytes 8 7)] ∧ t.fab.reqs.length = 1) := by decide +kernel

/-- RSIG to core 3 of this package, TB 0x40; DRED of eight words of v4 in a launch whose group is 1. -/
theorem wit_RemoteInstructions_signals : let s := issue (fun g => setV 4 7 (setG 2 0x40 (setG 1 3 g)))
    let f := { rf with a := .g 1, b := .g 2 }
    let g := s.groupAt here.ref
    here.self s &&& g.live ≠ 0 ∧ (s.operand here f.b 0).toNat % 16 = 0 ∧ (s.operand here f.a 0).toNat < 2 ^ 22 ∧ s.routeValid (fld (s.operand here f.a 0) 21 12) = true ∧
      (s.operand here f.b 0).toNat < 2 ^ 32 ∧ ((after (exec (.rsig f) s)).fab.reqs.map (fun r => (r.pkt.op, r.pkt.core, r.pkt.va, r.pkt.count))) = [(5, 3, 0x40, 1)] ∧
      uniformBad (Opnd.v 3) [.v 4] = false ∧ s.fab.phases.any (fun p => p.launch = (s.launchOf 0).id && !p.hbar && p.waiting) = false ∧
      ((after (exec (.dred { rf with d := .v 3, a := .v 4 }) s)).fab.phases.map (fun p => (p.dbgrp, p.waiting, p.own.map (fun o => o.words)))) = [(1, true, some (List.replicate 8 7))] := by decide +kernel

/-- What LNCH, LNCHD, LNTRG and SYSC need; the ring with and without room. -/
def subState : State := world (fun g => setG 2 0x99 (setG 1 0x14000 g))

theorem wit_SubmissionsAndSignals : let s := subState
    let g := s.groupAt here.ref
    let la := s.launchOf 0
    s.issuing here = true ∧ s.canonical = true ∧ g.tx = none ∧ logWaits g (here.self s) = false ∧ s.groupStores 0 0 = [] ∧ (s.core 0).l1 = [] ∧ here.self s &&& g.live ≠ 0 ∧ s.subs = [] ∧
      (List.range 64).all (fun q => !(s.queue q).open_) = true ∧ s.queues = [] ∧ la.region.prio < 8 ∧ la.ended = none ∧ la.armed = [] ∧
      la.region.rcb = 0x12000 ∧ la.region.apart = true ∧ s.ringRoom la.region = true ∧ (s.writePhys 0x13400 (leBytes 8 16)).ringRoom la.region = false := by decide +kernel

/-- The record at 0x14000 is accepted as launch 2, started from launch 1; a launch of no region is refused and answers 0. SYSC posts its record. -/
theorem wit_SubmissionsAndSignals_accepted : let t := after (exec (.lnch { rf with d := .g 5, a := .g 1 }) subState)
    pending (t.group 0 0) 0 = some 2 ∧ (t.launch 2).origin = .kernel 1 ∧ (t.launch 2).held = false := by decide +kernel

theorem wit_SubmissionsAndSignals_refused : let s := issue (setG 1 0x14000)
    isErr ((s.accept { addr := 0x14000, rcb := 0, origin := .armed 1, acquire := some 0, held := true }).map (fun x => x.1)) 0xF6 = true ∧
      pending ((after (exec (.lnchd { rf with d := .g 5, a := .g 1 }) s)).group 0 0) 0 = some 0 := by decide +kernel

theorem wit_SubmissionsAndSignals_sysc : let w := after (exec (.sysc { rf with a := .g 2, b := .g 1 }) subState)
    w.readPhys 0x13400 8 = some 1 ∧ (w.readPhys 0x13000 1, w.readPhys 0x13012 2, w.readPhys 0x13030 8) = (some 6, some 0x99, some 0x14000) := by decide +kernel

/-- GSIG's word at 0x11000. -/
theorem wit_SubmissionsAndSignals_gsig : let s := world (fun g => setG 2 0x55 (setG 1 0x11000 g))
    let acc : Acc := { thr := eventThread (s.groupAt here.ref) (here.self s), ea := 0x11000, va := spanFrom 0x11000 8, val := 0x55 }
    let req : MemReq := { op := .store, space := .glob, align := 8, cache := 0, order := .release, scope := 3, accs := [acc], untagged := true }
    s.Reaches here req none ∧ s.Settled here req ∧ ((s.reached here req acc).map (fun x => x.loc)).Nodup ∧
      (after (exec (.gsig { rf with fs := 3, a := .g 1, b := .g 2 }) s)).readPhys 0x11000 8 = some 0x55 :=
  ⟨reaches_of (by decide +kernel), settled_of (by decide +kernel), by decide +kernel, by decide +kernel⟩

/-! ### Packets -/

/-- A request of package 3 for the bytes at 0x11000 here. -/
def reqOf (op : Nat) (data : List Byte) : Packet :=
  { eseq := 9, djid := 0, dest := 0, src := 3, va := 0x11000, len := data.length, op := op, resp := false, rel := false, acq := false, resent := false, rtag := 5, asz := true, sub := 0
    index := 0, tile := 0, core := 0, count := 0, data := data }

/-- The package with a request of a context that its table admits: entry 0 at 0x16000, and the page known to the die that VA[18:16] names (R462, R463). -/
def served (p : Packet) : State :=
  let s := { issue id with mem := placed [(0x11000, leBytes 8 0x1122334455667788), (0x16000, [1])] }
  let s1 := s.setDie 1 { s.die 1 with tlb := [fetchLeaf] }
  { s1 with fab := { s1.fab with rctBase := 0x16000, inbox := [p] } }

/-- Whether a request is admitted to cells of package memory, no two alike and none locked, under an entry of a region that is not DET. -/
def admitted (s : State) (p : Packet) (n : Nat) (write u : Bool) : Bool :=
  match s.grant p n write u with
  | .cells t cs => cs.length = n && !cellsLocked t.lockedLines cs && cs.all (fun c => isMem c.loc) && (cs.map (fun c => c.loc)).Nodup &&
      (match s.remoteEntry p.djid with | some e => !e.region.det | none => true)
  | _ => false

/-- The one answer that left, its data and its code, and what the word then is. -/
def answer (t : State) : List (Nat × Nat) × Option Nat := (t.fab.net.map (fun n => (n.pkt.sub, leNat n.pkt.data)), t.readPhys 0x11000 8)

theorem wit_RequestsServed : (∀ op, op ∈ [1, 2, 3, 4, 6, 7] → let p := reqOf op (leBytes 8 1 ++ (if op = 4 then leBytes 8 2 else []))
      p.resp = false ∧ p ∈ (served p).fab.inbox ∧ (served p).fab.handled.find? (fun h => h.isOf p) = none ∧ ((served p).core noCore).l1 = []) ∧
    admitted (served (reqOf 1 (leBytes 8 0))) (reqOf 1 (leBytes 8 0)) 8 false false = true ∧ admitted (served (reqOf 2 (leBytes 8 1))) (reqOf 2 (leBytes 8 1)) 8 true false = true := by decide +kernel

/-- A LOAD, a STORE, an ADD of 1 and a CAS that fails. -/
theorem wit_RequestsServed_answers : let run := fun (p : Packet) (i : Packet → Instr) => answer (after (exec (i p) (served p)))
    let put := fun (p : Packet) => Instr.storeReq { it := p }
    run (reqOf 1 (leBytes 8 0)) .loadReq = ([(0, 0x1122334455667788)], some 0x1122334455667788) ∧ run (reqOf 2 (leBytes 8 7)) put = ([(0, 0)], some 7) ∧
      run (reqOf 3 (leBytes 8 1)) .atomicReq = ([(0, 0x1122334455667788)], some 0x1122334455667789) ∧
      run (reqOf 4 (leBytes 8 1 ++ leBytes 8 2)) .casReq = ([(0, 0x1122334455667788)], some 0x1122334455667788) := by decide +kernel

/-- A request of a context without an entry is answered with code 1 (R462). -/
theorem test_remote_no_context : answer (after (exec (.loadReq { reqOf 1 [0] with djid := 1 }) (served { reqOf 1 [0] with djid := 1 }))) = ([(1, 0)], some 0x1122334455667788) := by decide +kernel

/-- TBARRIVE at 0x40 and at the last TB of the scratchpad; DRAIN to tile 3; a transaction of one line and its commit; REDUCE at a root of one member. -/
theorem wit_RequestsServed_others : let tb := { reqOf 5 [] with va := 0x40, count := 2 }
    let dr := { reqOf 8 (List.replicate 256 0) with va := 0, tile := 3 }
    let ln := reqOf 9 ([0, 8, 0] ++ leBytes 8 6)
    let s := { served (reqOf 10 []) with fab := { (served (reqOf 10 [])).fab with incoming := [{ src := 3, rtag := 5, lines := [ln] }] } }
    let rd := { reqOf 11 (leBytes 8 77) with va := 4 }
    let r := { served rd with fab := { (served rd).fab with trees := [(4, 4 + 2 ^ 27 + 2 ^ 28 + 2 ^ 29 + 3 * 2 ^ 34)] } }
    (served tb).entryStatus tb = none ∧ ((served tb).teamInContext 0 0).map (fun x => x.1) = some 0 ∧ tb.va + 16 ≤ ((served tb).launch 1).lrec.scratch ∧ 0x7FFF0 + 16 ≤ ((served tb).launch 1).lrec.scratch ∧
      ((after (exec (.tbarriveReq tb) (served tb))).fab.net.map (fun n => n.pkt.sub)) = [0] ∧ (after (exec (.tbarriveReq tb) (served tb))).tbNow = [⟨⟨0, 0, 0x40⟩, 2, 0, 0, 0⟩] ∧
      (served dr).fab.contribs = [] ∧ (served dr).entryStatus dr = none ∧ (served dr).tileTeam 0 0 3 = some 0 ∧ ((after (exec (.drainReq dr) (served dr))).fab.contribs.map (fun c => c.parts.length)) = [1] ∧
      ((after (exec (.txlineReq ln) (served ln))).fab.incoming.map (fun x => x.lines.length)) = [1] ∧
      (match s.admitLines (orderLines [ln]) [] with | .inr (_, [a]) => a.op == .store && a.acc.cells.length == 8 && a.acc.cells.all (fun c => isMem c.loc) | _ => false) = true ∧
      answer (after (exec (.txcommitReq (reqOf 10 [])) s)) = ([(0, 0)], some 6) ∧
      r.treeNode 4 = some ⟨true, 0, [3]⟩ ∧ r.fab.phases = [] ∧ ((after (exec (.reducePkt rd) r)).fab.net.map (fun n => (n.pkt.dest, n.pkt.sub, leNat n.pkt.data))) = [(3, 0, 77)] := by decide +kernel

/-- Packets for this package, for one whose primary column is usable, and for one that has none (R495). -/
theorem wit_RequestsServed_routes : let s := fun (dest : Nat) => ({ issue id with fab := { (issue id).fab with routes := [(7, (0x8100, 0x8100))], ports := [(0, { lstate := 2, width := 16, session := true, peerRun := true, peerVc := 5 })], net := [{ pkt := { reqOf 1 [] with dest := dest }, hop := 0 }] } } : State)
    (after (exec .packetRoute (s 0))).fab.inbox.length = 1 ∧ ([0x8100, 0x8100].find? ((s 7).columnUsable 0) = some 0x8100) ∧ (after (exec .packetRoute (s 7))).fab.net = [] ∧
      ([0, 0].find? ((s 8).columnUsable 0) = none) ∧ (after (exec .packetRoute (s 8))).fab.drops = 1 := by decide +kernel

/-- A split's load of thread 2 that package 3 answers: with its word, and with code 2 (R468, R478). -/
def askedState : State :=
  let g := (issue id).groupAt here.ref
  let s := (issue id).setGroup 0 0 { g with pends := [{ id := 4, inst := 6, pc := 0x9000, reg := 3, mask := 4, src := .remote }] }
  { s with fab := { s.fab with reqs := [{ pkt := { reqOf 1 [] with dest := 3, src := 0, len := 8 }, owner := .thread 0 0 0 6, pc := 0x9000, parts := [(2, 0, 0x11000)], size := 8, reg := some 3 }] } }

def answerPkt (code : Nat) : Packet := { reqOf 1 (leBytes 8 0xABC) with resp := true, sub := code }

theorem wit_AnswersAtTheSource : let s := fun (p : Packet) => ({ askedState with fab := { askedState.fab with inbox := [p] } } : State)
    let t := after (exec (.remoteResponse (answerPkt 0)) (s (answerPkt 0)))
    let u := after (exec (.remoteResponse (answerPkt 2)) (s (answerPkt 2)))
    let v := after (exec (.remoteTimeout 3 0 9) askedState)
    ((s (answerPkt 0)).requestOf (answerPkt 0)).isSome = true ∧ askedState.fab.reqs.length = 1 ∧ askedState.fab.queue = [] ∧ askedState.fab.fails = [] ∧ (askedState.team 0).saved = none ∧
      (askedState.requestNamed 3 0 9).isSome = true ∧ ((t.group 0 0).pends.map (fun p => (p.src, AMap.get p.vals 2 0))) = [(.ready, 0xABC)] ∧ t.fab.reqs = [] ∧
      ((u.group 0 0).deferred.map (fun d => (d.trap.req.code, d.trap.req.aux))) = [(0x0F, 2)] ∧ ((v.group 0 0).deferred.map (fun d => (d.trap.req.code, d.trap.req.aux))) = [(0x0F, 7)] ∧
      ((after (exec (.requestResend 3 0 9) askedState)).fab.net.map (fun n => n.pkt.resent)) = [true] ∧ (s { answerPkt 0 with eseq := 10 }).requestOf { answerPkt 0 with eseq := 10 } = none := by decide +kernel

/-- A phase whose result has come, one that failed, and one still awaited (R486, R487). -/
theorem wit_AnswersAtTheSource_reduction : let s := fun (v : Option TreeVal) => ({ askedState with fab := { askedState.fab with reqs := [], phases := [{ dbgrp := 1, phase := 0, hbar := false, launch := 1, inst := 6, active := 0xFF, waiting := true, result := v }] } } : State)
    let t := after (exec (.dredResult 1) (s (some { n := 3, words := [7, 8, 9] })))
    let u := after (exec (.dredResult 1) (s (some { status := 6 })))
    ((s none).dredOf 1).isSome = true ∧ ((t.group 0 0).pends.map (fun p => (p.src, AMap.get p.vals 2 0))) = [(.ready, 9)] ∧ t.fab.phases = [] ∧
      ((u.group 0 0).deferred.map (fun d => d.trap.req.aux)) = [6] ∧ (((after (exec (.dredPhaseTimeout 1) (s none))).group 0 0).deferred.map (fun d => d.trap.req.aux)) = [7] := by decide +kernel

/-! ### Selection, arrivals, teams and launches -/

/-- A state with a fresh split 0 that can issue at 0x10000, and one whose code page no table maps. -/
def farState : State := fetched.setSplitAt here.ref { fetched.splitAt here.ref with pc := 0x200000 }

theorem wit_SelectionAndFetch : let s0 := fetched.turnOf 0 0
    let s1 := (s0.slotGroups 0 0).foldl (fun (acc : State) x => acc.prepare x.2.1 x.2.2) (s0.settlePick 0 0)
    fetched.selectsAgain 0 0 = false ∧ s0.slotGroups 0 0 = [(0, 0, 0)] ∧ s1.candidates [(0, 0, 0)] = [(0, 0, [0])] ∧ s0.slotGroups 0 1 = [] ∧ fetched.slotAt = 0 ∧ (after (exec (.slotSelect 0 0) { fetched with slotAt := 1 })).ctl.clk = 1 ∧ (after (exec (.slotSelect 0 0) fetched)).issueQ = [⟨0, 0, 0⟩] ∧ (after (exec (.slotSelect 0 1) fetched)).issueQ = [] ∧
      (let u := fetched.setSplitAt here.ref { fetched.splitAt here.ref with waitCnt := 192 }; 192 ≤ (u.splitAt here.ref).waitCnt ∧ 0 < (u.groupAt here.ref).splits.length ∧
        ((after (exec (.splitUrgent here.ref) u)).splitAt here.ref).urgent = true) := by decide +kernel

/-- Two splits of one group, at `fmad.f12` and at `fdef f12`: the lower goes first though the higher issued last, and the higher goes in the next cycle (R14, R192). -/
theorem test_select_apart : let s := (fetched.writePhys 0x10000 (leBytes 8 0x430C004010203000)).writePhys 0x10020 (leBytes 8 0x5A0C000C90000000)
    let g := s.group 0 0
    let s1 := (s.setGroup 0 0 ((g.setSplit 0 { g.split 0 with mask := 1 }).setSplit 1 { g.split 0 with mask := 2, pc := 0x10020 })).setCore 0 { s.core 0 with last := [(0, ⟨0, 0, 1, 0, true⟩)] }
    let t := after (exec (.slotSelect 0 0) s1)
    let u := after (exec (.slotSelect 0 0) { t with issueQ := [] })
    t.issueQ = [⟨0, 0, 0⟩] ∧ (AMap.find (t.core 0).pick 0).bind (fun p => p.next) = some ⟨0, 0, 1⟩ ∧ u.issueQ = [⟨0, 0, 1⟩] := by decide +kernel

theorem wit_SelectionAndFetch_pages : let t := after (exec (.instructionFetch here.ref) farState)
    (farState.splitAt here.ref).st = 1 ∧ (match farState.fetch 0 0 0x200000 with | .page va => va == 0x200000 | _ => false) = true ∧
      (match fetched.fetch 0 0 0x10000 with | .words _ w _ => w == 0x2F0000707FFFFFFE | _ => false) = true ∧ (t.splitAt here.ref).st = 2 ∧ t.pri = [(0, 0x200000)] ∧
      (t.splitAt here.ref).wait = .fetch 0x200000 ∧ t.allSplits.filter (fun q => (t.splitAt q).st = 2) = [here.ref] ∧
      ((after (exec (.priResponse 0 0x200040 true) t)).splitAt here.ref).st = 1 ∧ AMap.get ((after (exec (.priResponse 0 0x200040 false) t)).group 0 0).trap 0x20 0 = 0x0A := by decide +kernel

/-- A formed result for v3 in threads 0 to 3, and one for g5. -/
def formed (reg : Nat) (mask : Half) : State :=
  (issue id).setGroup 0 0 { (issue id).group 0 0 with pends := [{ id := 4, inst := 6, pc := 0x10000, reg := reg, mask := mask, src := .ready, vals := [(0, 0x77)] }] }

theorem wit_ArrivalsAndPages_results : let g := (formed 3 0xF).group 0 0
    (g.pends.find? (fun x => x.id = 4)).isSome = true ∧ ((formed 3 0xF).team 0).saved = none ∧ (g.pends.map (fun p => (p.cnt.length, p.disc, p.arrived))) = [(0, 0, false)] ∧
      (g.split 0).canTrap = true ∧ ((after (exec (.resultArrival 0 0 4 0) (formed 3 0xF))).group 0 0).readV 3 0 = 0x77 ∧
      ((after (exec (.resultArrival 0 0 4 1) (formed 197 1))).group 0 0).readG 5 = 0x77 ∧ ((after (exec (.resultArrival 0 0 4 1) (formed 197 1))).group 0 0).bad = [] := by decide +kernel

theorem wit_ArrivalsAndPages_deferred : let d : Deferred := { inst := 6, split := 0, trap := ⟨{ code := 0x0F, aux := 2, deferred := true }, 0x9000, 0, 0, 0⟩ }
    let s := (formed 3 0xF).setGroup 0 0 { (formed 3 0xF).group 0 0 with deferred := [d] }
    let t := (after (exec (.deferredTrap 0 0) s)).group 0 0
    (s.group 0 0).stopped = false ∧ (s.group 0 0).deferred = [d] ∧ (s.group 0 0).used 0 = true ∧ d.trap.req.code ≠ 0x09 ∧ AMap.get t.trap 0x20 0 = 0x0F ∧ AMap.get t.trap 0x21 0 = 0x9000 ∧ t.pends = [] := by decide +kernel

/-- A logged load of thread 0 that waits for request 12 of die 0, in the region of `world`. -/
def pagedReq : PagerReq := { reqid := 12, djid := 0, va := 0x11000, log := 16, region := regionOf [(0x12000, rcbBits)], waiters := [.inst 0 0 6] }
def pagedEntry : LogEntry :=
  { inst := 6, split := 0, pc := 0x10000, w0 := 0, w1 := 0, active := 1, waits := [(0, 12)]
    req := { op := .load, space := .glob, align := 8, cache := 0, order := .plain, scope := 0, dests := [3], accs := [{ thr := 0, ea := 0x11000, va := spanFrom 0x11000 8, recvs := [{ reg := 3, lo := 0, len := 64 }] }] } }
def pagedState : State :=
  let s := (world id).setDie 0 { (world id).die 0 with requests := [pagedReq], tlb := [fetchLeaf] }
  s.setGroup 0 0 { s.group 0 0 with oplog := [pagedEntry], pends := [{ id := 4, inst := 6, pc := 0x10000, reg := 3, mask := 1, src := .logged }] }

theorem wit_ArrivalsAndPages_pager : ((pagedState.die 0).requests.find? (fun x => x.reqid = 12)) = some pagedReq ∧ pagedReq.waiters = [.inst 0 0 6] ∧ (pagedState.group 0 0).oplog = [pagedEntry] ∧
    pagedEntry.waits = [(0, 12)] ∧ (pagedState.team 0).saved = none ∧ (pagedState.team 0).restoring = false ∧ fld (wd (12 * 2 ^ 32)) 63 32 = 12 ∧ fld (wd (12 * 2 ^ 32)) 1 0 = 0 ∧ fld (wd (12 * 2 ^ 32 + 1)) 1 0 = 1 ∧
    pagedReq.region.wdpager = 5 := by decide +kernel

/-- Serviced: the log is empty and the word ready. Fatal: PGFAULT with cause 2, deferred. A response to no request is counted. -/
theorem wit_ArrivalsAndPages_responses : let t := after (exec (.pagerResponse 0 (wd (12 * 2 ^ 32))) pagedState)
    let u := after (exec (.pagerResponse 0 (wd (12 * 2 ^ 32 + 1))) pagedState)
    (t.group 0 0).oplog = [] ∧ ((t.group 0 0).pends.map (fun p => p.src)) = [.ready] ∧ (u.group 0 0).oplog = [] ∧ ((u.group 0 0).deferred.map (fun d => (d.trap.req.code, d.trap.req.aux))) = [(0x09, 2)] ∧
      (u.die 0).requests = [] ∧ AMap.get ((after (exec (.pagerResponse 0 (wd (13 * 2 ^ 32))) pagedState)).die 0).errors 32 0 = 1 := by decide +kernel

/-- A region with a device pager whose ring holds a record; its launch is refused, for it names no record. -/
theorem wit_ArrivalsAndPages_launch : let s : State := { issue id with mem := placed [(0x12000, leBytes 256 (rcbBits + 2 * 2 ^ 14 + 0x16000 * 2 ^ 512 + 4 * 2 ^ 576 + 0x13800 * 2 ^ 640 + 0x13808 * 2 ^ 704 + 0x14040 * 2 ^ 832)), (0x13800, [1])] }
    (match s.region 0x12000 with | .ok r => r.pager = 2 && s.ringUsed r.pprod r.pcons != 0 && (s.ringBad r.pprod r.pcons).isEmpty && s.ctl.service = 2 && !s.pagerRuns 0x12000 && s.ringRoom r && r.apart | .error _ => false) = true ∧
      (after (exec (.pagerLaunchStart 0x12000) s)).readPhys 0x13000 1 = some 2 := by decide +kernel

theorem wit_ArrivalsAndPages_host : let s : State := { issue id with atsWaits := [9] }
    s.atsWaits.contains 9 = true ∧ (∀ t ∈ s.teams, ∀ g ∈ t.2.groups, g.2.oplog = []) ∧ (after (exec (.atsCompletion 9 (some 7)) s)).atc = [(9, 7)] := by decide +kernel

/-- Launch 2 with two teams of one group that die 0 owns. -/
def placing : Launch := { id := 2, lrec := { nx := 2 }, entry := 0x10000, args := [5], shares := (List.range 8).map (fun d => (d, { lo := 0, hi := if d = 0 then 2 else 0 })) }
def placeState : State := { State.reset with launches := [(2, placing)], ctl := { State.reset.ctl with service := 2 } }

theorem wit_TeamsAndLaunches_place : let t := after (exec (.teamPlace 0) placeState)
    placeState.running = true ∧ placeState.launchOrder = [placing] ∧ placeState.launch 2 = placing ∧ placeState.detMayStart placing = true ∧ placeState.restoreWaits 0 placing.prio = false ∧ placeState.lockedLines = [] ∧
      placing.nextOn 0 = some 0 ∧ placeState.coreFor placing 0 = some 0 ∧ (t.teams.map (fun x => (x.1, x.2.launch, x.2.linear, x.2.core))) = [(placeState.nextTeam, 2, 0, 0)] ∧
      (t.group placeState.nextTeam 0).readG 0 = 5 ∧ (t.group placeState.nextTeam 0).live = 0xFFFFFFFF ∧ ((t.launch 2).share 0).lo = 1 ∧
      ((after (exec (.teamPlace 0) t)).teams.map (fun x => (x.2.linear, x.2.core))) = [(0, 0), (1, 0)] := by decide +kernel

/-- A stopped group that is its team's last, and one of two. -/
theorem wit_TeamsAndLaunches_retire : let one := issue (fun g => { g with stopped := true })
    let two := one.setTeam 0 { one.team 0 with groups := (one.team 0).groups ++ [(1, { one.group 0 0 with gidx := 1, resid := 1 })] }
    one.canonical = true ∧ one.tests = [] ∧ one.lockedLines = [] ∧ two.canonical = true ∧ one.groupQuiet 0 0 = true ∧ two.groupQuiet 0 0 = true ∧ (two.group 0 1).retired = false ∧ (after (exec (.groupRetire 0 0) one)).teams = [] ∧ ((after (exec (.groupRetire 0 0) one)).launch 1).retired = 1 ∧
      ((after (exec (.groupRetire 0 0) two)).group 0 0).retired = true ∧ ((after (exec (.groupRetire 0 0) two)).launch 1).retired = 0 := by decide +kernel

/-- A group with 8 private bytes a thread retires: 256 bytes take free values, and a byte beyond them stays (R216). -/
theorem test_private_bytes_free : let one := issue (fun g => { g with stopped := true })
    let s := one.setLaunch 1 { one.launch 1 with lrec := { (one.launch 1).lrec with privArea := 0x11000, privSize := 8 } }
    (s.privCells 0 0).length = 256 ∧ ((s.privCells 0 0).all (fun c => c.loc != .mem 0x10FFF && c.loc != .mem 0x11100)) = true ∧
      (after (exec (.groupRetire 0 0) s)).free = s.free + 256 ∧ (after (exec (.groupRetire 0 0) s)).teams = [] := by decide +kernel

/-- A launch of queue 5 whose teams have retired, with a word to count at, and with a notification; launch 4 is held for it. -/
def doneState (notify : Bool) : State :=
  let s := { world id with launches := [(2, { (world id).launch 1 with id := 2, retired := 2, started := true, origin := .queue 5 3, lrec := { nx := 2, addr := 0x14000, doneAddr := if notify then 0 else 0x11000 } }),
                                        (4, { id := 4, origin := .kernel 2, held := true })], teams := [] }
  s.setQueue 5 { s.queue 5 with rcb := 0x12000, taken := [{ idx := 3, kind := 1, tag := 0x66, addr := 0x14000, word := 0, value := 0, notify := notify, region := regionOf [(0x12000, rcbBits)] }] }

theorem wit_TeamsAndLaunches_complete : let l := (doneState false).launch 2
    l.complete = false ∧ l.ended = none ∧ l.lrec.teams ≤ l.retired ∧ l.lrec.dbgrp = 0 ∧ l.cores = [] ∧ (doneState false).subs = [] ∧
      (match (doneState false).madderCells (regionCtx l.region 0) 0x11000 8 .write with | some cs => cs.all (fun c => isMem c.loc) && (cs.map (fun c => c.loc)).Nodup | none => false) = true ∧
      (let t := after (exec (.launchComplete 2) (doneState false)); t.readPhys 0x11000 8 = some 1 ∧ (t.launch 2).complete = true ∧ (t.launch 4).held = false ∧ (t.queue 5).taken = []) := by decide +kernel

theorem wit_TeamsAndLaunches_notify : let t := after (exec (.launchComplete 2) (doneState true))
    (doneState true).ringRoom (regionOf [(0x12000, rcbBits)]) = true ∧ t.readPhys 0x13000 1 = some 1 ∧ t.readPhys 0x13028 8 = some 0x66 := by decide +kernel

/-- Launch 4 is armed by launch 1, whose one team has triggered. -/
theorem wit_TeamsAndLaunches_armed : let s := (issue (fun g => { g with trigger := 0xFFFFFFFF })).setLaunch 4 { id := 4, origin := .armed 1, held := true }
    let t := after (exec (.armedSuccessorStart 4) s)
    (s.launch 4).held = true ∧ (s.launch 1).region.det = false ∧ (s.launch 1).shares = [] ∧ (s.launch 1).redo = [] ∧ (s.launch 1).held = false ∧
      (∀ x ∈ s.launchTeams 1, x.2.allTriggered = true) ∧ (t.launch 4).held = false := by decide +kernel

/-- A team of launch 1, which is IDEM or has an address to stop at, and a launch of priority 3 that no core can take while none else waits. -/
def waitingState (idem : Bool) : State :=
  let s := issue id
  let s1 := s.setLaunch 1 { s.launch 1 with lrec := { idem := idem }, side := [0, 8], native := 0x10000 - 8, region := { saveBase := 0x18000, saveSize := 0x200000 } }
  s1.setLaunch 2 { placing with lrec := { nx := 2, scratch := 524296 }, region := { prio := 3 } }

theorem wit_PreemptionAndRestore_request : (∀ idem, idem ∈ [true, false] → (waitingState idem).victim 0 = some 0) ∧ (waitingState true).running = true ∧ (waitingState true).discardable ((waitingState true).team 0) = true ∧
    (waitingState false).discardable ((waitingState false).team 0) = false ∧ (((after (exec (.preemptRequest 0) (waitingState true))).splitAt here.ref).halted) = true ∧
    ((after (exec (.preemptRequest 0) (waitingState false))).team 0).preempt = true := by decide +kernel

/-- A split at an address that the side table lists stops there; one that is not does not. -/
theorem wit_PreemptionAndRestore_listed : let s := waitingState false
    let u := s.setLaunch 1 { s.launch 1 with native := 0x10000, side := [0] }
    ((u.launch 1).sideAt 0x10000).isSome = true ∧ ((s.launch 1).sideAt 0x10004).isNone = true ∧ ((after (exec (.preemptRequest 0) u)).splitAt here.ref).halted = true := by decide +kernel

theorem wit_PreemptionAndRestore_force : let s := (waitingState false).setGroup 0 0 { (waitingState false).group 0 0 with preCount := 2048 }
    let u := s.setTeam 0 { s.team 0 with preempt := true }
    (u.team 0).preempt = true ∧ 2048 ≤ (u.group 0 0).preCount ∧ (u.group 0 0).forced = false ∧ (u.group 0 0).splits.all Split.stoppedNow = false ∧
      (((after (exec (.preemptForceStop 0 0) u)).group 0 0).split 0).halted = true := by decide +kernel

/-- A stopped team: discarded where it is IDEM, with room for its image else. -/
theorem wit_PreemptionAndRestore_save : let s := fun (idem : Bool) => after (exec (.preemptRequest 0) (waitingState idem))
    let u := (s false).setSplitAt here.ref { (s false).splitAt here.ref with halted := true }
    (∀ g ∈ ((s true).team 0).groups, g.2.splits.all Split.stoppedNow = true) ∧ (s true).teamQuiet 0 ((s true).team 0) = true ∧ (s true).lockedLines = [] ∧ u.hbmAllows (u.launch 1).region ((u.launch 1).lrec.imageSize (u.launch 1).lrec.scratch) = true ∧ ((after (exec (.preemptSave 0) (s true))).launch 1).redo = [(0, 0)] ∧
      (∀ g ∈ (u.team 0).groups, g.2.splits.all Split.stoppedNow = true) ∧ u.teamQuiet 0 (u.team 0) = true ∧ (u.team 0).saved = none ∧ u.discardable (u.team 0) = false ∧
      (u.imagePlace (u.launch 1).region ((u.launch 1).lrec.imageSize (u.launch 1).lrec.scratch)).isSome = true := by decide +kernel

/-- A saved group that two acknowledgements are missing of; its team then comes back to core 0. -/
def savedState : State :=
  let s := { waitingState false with launches := [(1, (waitingState false).launch 1)] }
  let s1 := (s.setGroup 0 0 { s.group 0 0 with ackcnt := 2 }).setTeam 0 { (s.setGroup 0 0 { s.group 0 0 with ackcnt := 2 }).team 0 with saved := some 0x18000, spBytes := 0 }
  { s1 with fab := { s1.fab with inbox := [{ answerPkt 0 with data := [] }], reqs := [{ pkt := { reqOf 2 (leBytes 8 1) with dest := 3, src := 0 }, owner := .thread 0 0 0 6 }] } }

theorem wit_PreemptionAndRestore_reply : let p : Packet := { answerPkt 0 with data := [] }
    (savedState.requestOf p).isSome = true ∧ (savedState.group 0 0).replies = [] ∧ 0x18000 + gimgOff false 0 + 0 * groupImageSize 8 + 30 ≤ physEnd ∧
      ((after (exec (.replyToImage p) savedState)).group 0 0).ackcnt = 1 ∧ (after (exec (.replyToImage p) savedState)).readPhys (0x18000 + gimgOff false 0 + 28) 2 = some 1 := by decide +kernel

theorem wit_PreemptionAndRestore_timeout : let t := after (exec (.remoteTimeout 3 0 9) savedState)
    (savedState.requestNamed 3 0 9).isSome = true ∧ (t.group 0 0).ackcnt = 1 ∧ t.readPhys (0x18000 + gimgOff false 0 + 28) 2 = some 1 := by decide +kernel

/-- A load of a saved group that is not answered: its entry has FAIL, not VALID, and none is pending; the register keeps its value, and REMFAULT waits (R330, R331). -/
theorem test_timeout_in_image : let g := savedState.group 0 0
    let p : Pend := { id := 4, inst := 6, pc := 0x9000, reg := 3, mask := 4, src := .remote }
    let s := savedState.setGroup 0 0 { g with pends := [p] }
    let base := 0x18000 + gimgOff false 0
    let s1 := (s.writePhys (base + 0xA08) (leBytes 1 0x20)).writePhys (base + 9) (leBytes 1 1)
    let t := after (exec (.remoteTimeout 3 0 9) { s1 with fab := { s1.fab with reqs := s1.fab.reqs.map (fun r => { r with reg := some 3, parts := [(2, 0, 0x11000)] }) } })
    (t.readPhys (base + 0xA08) 1, t.readPhys (base + 9) 1) = (some 0x40, some 0) ∧ (t.team 0).replied = true ∧
      ((t.group 0 0).deferred.map (fun d => (d.trap.req.code, d.trap.req.aux))) = [(0x0F, 7)] := by decide +kernel

theorem wit_PreemptionAndRestore_restore : let s := savedState
    s.running = true ∧ (s.nextRestore 0).map (fun x => x.1) = some 0 ∧ (s.launchOrder.all (fun x => decide (x.prio ≤ (s.launch 1).prio))) = true ∧ (s.team 0).replied = true ∧
      s.coreFor (s.launch 1) 0 = some 0 ∧ (match s.restoreAt 0 0 with | some u => (u.team 0).saved.isNone && u.teams.all (fun t => t.2.groups.all (fun g => g.2.oplog.isEmpty)) | none => false) = true := by decide +kernel

/-! ### Queues, graphs and rings -/

/-- An entry of 64 bytes: kind, NOTIFY, ADDR, VALUE and the tag 0x66 (R421). -/
def entryBits (kind addr value : Nat) : Nat := kind + 2 ^ 9 + addr * 2 ^ 64 + value * 2 ^ 128 + 0x66 * 2 ^ 448

/-- Queue 5 with one entry announced in its ring at 0x11800, in the region of `world` or in none, the word 7 at 0x11000, and more objects. -/
def queueState (rcb : Word) (entry : Nat) (more : List (Nat × List Byte)) : State :=
  let s := { issue id with mem := placed ([(0x11000, leBytes 8 7), (0x11800, leBytes 64 entry)] ++ (if rcb = 0 then [] else [(0x12000, leBytes 256 rcbBits)]) ++ more) }
  let s1 := s.setDie 0 { s.die 0 with tlb := [fetchLeaf] }
  s1.setQueue 5 { s1.queue 5 with base := 0x11800, enable := true, logsz := 4, rcb := rcb, eff := 1, qwrite := 1 }

/-- The head of queue 5 may be taken. -/
def headReady (s : State) (kind : Nat) : Bool :=
  s.serving && (s.queue 5).open_ && s.subs.isEmpty && !(s.headEntry 5).bad && (s.headEntry 5).kind = kind && s.pickQueue = some 5 && (s.queue 5).taken.isEmpty

/-- Doorbells on both sides of the ring's end, behind E, and a doorbell word that changed (R420, R421). -/
theorem wit_HardwareQueues_doorbells : let s := queueState 0 0 []
    let t := fun (v : Word) => (after (exec (.qwrite 5 v) s)).queue 5
    (t 16).eff = 16 ∧ (t 17).err = true ∧ (t 17).eff = 1 ∧ (t 0).eff = 1 ∧ (let x := { s.queue 5 with qdoor := 0x11000 }; let d := (s.setQueue 5 x); d.readPhys 0x11000 8 = some 7 ∧ x.door ≠ some 7 ∧
      ((after (exec (.qdoorCandidate 5) d)).queue 5).eff = 7 ∧ (after (exec (.qdoorCandidate 5) (after (exec (.qdoorCandidate 5) d)))).queues = (after (exec (.qdoorCandidate 5) d)).queues) ∧
      ((after (exec (.queueErrClear 5) (s.setQueue 5 (t 17)))).queue 5).err = false := by decide +kernel

/-- A bad entry, a NOP, and a LAUNCH that no region takes. -/
theorem wit_HardwareQueues_none : let b := queueState 0 (entryBits 7 0 0) []
    let n := queueState 0 (entryBits 5 0 0) []
    let l := queueState 0 (entryBits 1 0x14000 0) []
    b.serving = true ∧ (b.queue 5).open_ = true ∧ (b.headEntry 5).bad = true ∧ ((after (exec (.queueNop 5) b)).queue 5).err = true ∧ headReady n 5 = true ∧ ((after (exec (.queueNop 5) n)).queue 5).qread = 1 ∧
      headReady l 1 = true ∧ verdict (l.accept { addr := 0x14000, rcb := 0, origin := .queue 5 0, tag := 0x66, notify := true, producers := [] }) = 0xF6 ∧ ((after (exec (.queueLaunch 5) l)).queue 5).taken = [] := by decide +kernel

theorem wit_HardwareQueues_wait : let s := queueState 0x12000 (entryBits 3 0x11000 7) []
    headReady s 3 = true ∧ isOk (s.region 0x12000) (regionOf [(0x12000, rcbBits)]) = true ∧ s.readRegion (regionOf [(0x12000, rcbBits)]) 0x11000 8 = some 7 ∧
    (after (exec (.queueWait 5) s)).readPhys 0x13000 1 = some 1  := by decide +kernel

/-- A WAIT whose word has not come, taken; then it has. -/
theorem wit_HardwareQueues_waiting : let s := queueState 0x12000 (entryBits 3 0x11000 8) []
    let t := s.setQueue 5 { s.queue 5 with taken := [{ idx := 0, kind := 3, tag := 0x66, addr := 0x11800, word := 0x11000, value := 8, notify := false, region := regionOf [(0x12000, rcbBits)] }] }
    (after (exec (.queueWait 5) s)).mem = s.mem ∧ ((after (exec (.queueWait 5) s)).queue 5).taken.length = 1 ∧ (after (exec (.queueWaitSatisfied 5) t)).queues = t.queues ∧
      ((after (exec (.queueWaitSatisfied 5) (t.writePhys 0x11000 [9]))).queue 5).taken = [] := by decide +kernel

theorem wit_HardwareQueues_signal : let s := queueState 0x12000 (entryBits 4 0x11000 0x55) []
    headReady s 4 = true ∧ (s.writeVa (regionCtx (regionOf [(0x12000, rcbBits)]) 0) 0x11000 (leBytes 8 0x55)).isSome = true ∧ (after (exec (.queueSignal 5) s)).readPhys 0x11000 8 = some 0x55 := by decide +kernel

theorem wit_HardwareQueues_inval : let s := queueState 0x12000 (entryBits 6 0x10000 16) []
    headReady s 6 = true ∧ (after (exec (.queueInval 5) s)).invals = [{ djid := 0, base := 0x10000, log := 16, queue := some (5, 0) }] := by decide +kernel

theorem wit_HardwareQueues_graph : let s := queueState 0x12000 (entryBits 2 0x11040 0) []
    headReady s 2 = true ∧ ((after (exec (.queueGraph 5) s)).graphs.map (fun g => (g.1, g.2.q, g.2.idx, g.2.arrivals))) = [(s.nextGraph, 5, 0, [(0x11040, false)])] := by decide +kernel

theorem wit_HardwareQueues_launch : let s := queueState 0x12000 (entryBits 1 0x14000 0) [(0x14000, leBytes 256 (recordBits 2)), (0x15000, leBytes 112 codeBits)]
    headReady s 1 = true ∧ (after (exec (.queueLaunch 5) s)).launches.map (fun l => (l.1, l.2.origin)) = [(1, fetchLaunch.origin), (2, .queue 5 0)] := by decide +kernel

/-- A node of 64 bytes at 0x11040: kind, CMP, predecessors, arrivals, ADDR, VALUE and two successors, 0x11080 by a true outcome and 0x110C0 by a false one where the node has outcomes (R431). -/
def nodeBits (kind cmp npred arrived value : Nat) : Nat :=
  kind + 2 * 2 ^ 4 + cmp * 2 ^ 8 + npred * 2 ^ 16 + arrived * 2 ^ 48 + 0x11000 * 2 ^ 64 + value * 2 ^ 128 + 0x11080 * 2 ^ 256 + (0x110C0 + if kind = 2 ∨ kind = 3 then 2 else 0) * 2 ^ 320

/-- Instance 0 of queue 5 with one arrival at that node. -/
def graphState (node : Nat) (back : Bool) : State :=
  let s := queueState 0 0 []
  let s1 := { s with mem := placed [(0x11000, leBytes 8 7), (0x11040, leBytes 64 node)] }
  { s1.setQueue 5 { s1.queue 5 with taken := [{ idx := 0, kind := 2, tag := 0x66, addr := 0x11800, word := 0, value := 0, notify := false }] } with
    graphs := [(0, { q := 5, idx := 0, region := regionOf [(0x12000, rcbBits)], arrivals := [(0x11040, back)] })] }

/-- The arrivals that wait after one, and whether the instance has ended, with its status. -/
def walked (node : Nat) (back : Bool) : List (List (Nat × Bool) × Bool × Nat) := (after (exec (.graphNodeArrival 0) (graphState node back))).graphs.map (fun g => (g.2.arrivals, g.2.ended, g.2.status))

/-- The first of two arrivals only counts; BACK starts: a true and a false COND, LOOP, JOIN, HOST, END. -/
theorem wit_GraphsAndRings : let s := graphState (nodeBits 4 0 2 0 0) false
    addrOk 0x11040 64 = true ∧ (s.readRegion (regionOf [(0x12000, rcbBits)]) 0x11040 64) = some (nodeBits 4 0 2 0 0) ∧ s.serving = true ∧ s.subs = [] ∧
      (s.writeVa (regionCtx (regionOf [(0x12000, rcbBits)]) 0) 0x11046 (leBytes 2 1)).isSome = true := by decide +kernel

theorem wit_GraphsAndRings_kinds : (walked (nodeBits 4 0 2 0 0) false == [([], false, 0)]) = true ∧
      [1, 2, 3, 4, 5, 6].all (fun k => (nodeOf (nodeBits k 0 0 0 7)).ok && (((graphState (nodeBits 4 0 0 0 0) true).successors (regionOf [(0x12000, rcbBits)]) (nodeOf (nodeBits k 0 0 0 7))).map
        (fun ws => ws.all (succOk (nodeOf (nodeBits k 0 0 0 7)).branches))).getD false) = true ∧
      (walked (nodeBits 2 0 0 0 7) true == [([(0x11080, false)], false, 0)]) = true ∧ (walked (nodeBits 3 2 0 0 7) true == [([(0x110C0, false)], false, 0)]) = true ∧ (walked (nodeBits 4 0 0 0 0) true == [([(0x11080, false), (0x110C0, false)], false, 0)]) = true ∧
      (walked (nodeBits 6 0 0 0 0) true == [([], true, 0)]) = true := by decide +kernel

/-- A LAUNCH node whose record is refused ends its instance with the status; a HOST node posts KIND 4. -/
theorem wit_GraphsAndRings_launch : walked (nodeBits 1 0 0 0 0) true = [([], true, 0xF6)] ∧ (after (exec (.graphNodeArrival 0) (graphState (nodeBits 5 0 0 0 0x99) true))).readPhys 0x13028 8 = some 0x99 := by decide +kernel

/-- An instance that failed, its entry taken: KIND 5. -/
theorem wit_GraphsAndRings_complete : let s0 := world id
    let s1 := s0.setQueue 5 { s0.queue 5 with rcb := 0x12000, taken := [{ idx := 0, kind := 2, tag := 0x66, addr := 0x11800, word := 0, value := 0, notify := false, region := regionOf [(0x12000, rcbBits)] }] }
    let s := { s1 with graphs := [(0, { q := 5, idx := 0, region := regionOf [(0x12000, rcbBits)], ended := true, failed := true, status := 0xF2 })] }
    let t := after (exec (.graphInstanceComplete 0) s)
    t.graphs = [] ∧ (t.queue 5).taken = [] ∧ t.readPhys 0x13000 3 = some 0xF20005 := by decide +kernel

/-- One held record, room for it, and a split that waits for the ring; an open window. -/
theorem wit_GraphsAndRings_rings : let s0 := (world id).setSplitAt here.ref { (world id).splitAt here.ref with st := 5, wait := .sysc }
    let r := regionOf [(0x12000, rcbBits)]
    let s := { s0 with rings := [(0x13400, { region := r, held := [(r, ({ kind := 6, arg := 5 } : Note).bits)] })] }
    let t := after (exec (.heldRecordPost 0x12000) s)
    let w := { s0 with rings := [(0x13400, { region := r, window := true })] }
    r.apart = true ∧ r.nprod = 0x13400 ∧ r.rcb = 0x12000 ∧ s.ringBad r.nprod r.ncons = [] ∧ s.ringUsed r.nprod r.ncons < 2 ^ r.nlogsz ∧ (t.splitAt here.ref).st = 1 ∧ t.readPhys 0x13000 1 = some 6 ∧ t.ringRoom r = true ∧
      w.msixMasked 7 = true ∧ r.msix = 7 ∧ (after (exec (.msixCoalesce 0x12000) w)).msix = [7] ∧ ((after (exec (.msixCoalesce 0x12000) w)).ring r).window = false := by decide +kernel

/-! ### The host's side and the ports -/

/-- What the host's clauses need: a window at the end of memory, invalidations of both kinds, and the sensors on both sides of their limits. -/
theorem wit_HostAndService : let s := issue id
    let x : Inval := { djid := 0, base := 0x10000, log := 16 }
    let i := { s with invals := [x] }
    let t := after (exec .invalidationComplete i)
    physEnd - 2 + 2 ≤ physEnd ∧ (after (exec (.bar2Write (physEnd - 2) [5, 6]) s)).readPhys (physEnd - 2) 2 = some 0x605 ∧ s.stores = [] ∧ s.clusters = [] ∧ s.lockedLines = [] ∧
      (after (exec (.atsInvalidate 0x1000 0x1000) { s with atc := [(1, 5), (2, 6), (3, 7)] })).atc = [(2, 6), (3, 7)] ∧ x.queue = none ∧ i.invalBusy x = false ∧ (s.core 0).tlb = [fetchLeaf] ∧
      x.drops fetchLeaf = true ∧ (t.core 0).tlb = [] ∧ t.invals = [] ∧ t.ctl.invdone = 1 ∧ (after (exec (.invgo 15) s)).ctl.inverr = true ∧ (after (exec (.invgo 57) s)).invals.length = 1 ∧
      (after (exec (.registerWrite 0x50 10001) s)).ctl.pwrcap = 10000 ∧ (after (exec (.registerWrite 0x50 1999) s)).ctl.pwrcap = 2000 ∧ s.ctl.service = 2 ∧ s.running = true ∧ s.ctl.calibrating = false ∧
      (after (exec (.clockStepDown 100 20 95) s)).ctl.steps = 1 ∧ (after (exec (.clockStepDown 100 20 110) s)).ctl.failcode = 4 ∧ (after (exec (.clockStepUp 100 20 94) { s with ctl := { s.ctl with steps := 2 } })).ctl.steps = 1 := by decide +kernel

/-- A quiescent package that calibrates, and one in recovery. -/
theorem wit_HostAndService_service : let q := { placeState with launches := [] }
    let c := after (exec .reqfull q)
    let f := after (exec (.packageReset [{ version := 3 }, { formOk := false }] 0xFF 0xFFFF) q)
    c.ctl.calibrating = true ∧ c.quiescent = true ∧ c.ctl.calbusy = true ∧ (after (exec (.calibrationDone true) c)).ctl.service = 3 ∧ (after (exec .calibrationTimeout c)).ctl.calfail = true ∧
      (let b := after (exec .reqbasic (after (exec (.calibrationDone true) c))); b.ctl.calibrating = true ∧ b.ctl.calbusy = false ∧ (after (exec (.calibrationDone false) b)).ctl.service = 2) ∧
      f.ctl.recovery = true ∧ (after (exec (.packageReset [{ version := 3, raise := true }, { version := 2 }] 0xFF 0xFFFF) q)).ctl.minSvn = 3 ∧ f.ctl.failcode = 1 ∧ (after (exec (.recoveryImageLoad true true 4 true 0xFF 0xFFFF) f)).ctl.minSvn = 4 ∧ (after (exec (.recoveryImageLoad true true 4 true 0xFF 0x7FFF) f)).ctl.failcode = 3 ∧
      (after (exec (.packageReset [] 0x7F 0xFFFF) q)).ctl.failcode = 2 ∧ (after (exec .supplyFault q)).ctl.failcode = 5 ∧ (after (exec .thermalTrip q)).ctl.failcode = 4 ∧
      (let r := { q with ctl := { q.ctl with scrub := 1 } }; r.ctl.scrub ≠ 0 ∧ AMap.get ((after (exec (.scrub 7 7 3 0 { loc := 0 }) r)).die 7).errors 24 0 = 3) := by decide +kernel

/-- A port up to its training, session, lock and start. -/
def linked : State := { State.reset with ctl := { State.reset.ctl with service := 2 } }
def portAt (x : Port) : State := linked.setPort 17 x

theorem wit_PortsAndFlits_states : let c := after (exec (.pcfgWrite 17 0xFFFF8C05) linked)
    let t := after (exec (.linkTrained 17 0xFFFF) c)
    let s := after (exec (.sessionAttempt 17 true 5 3) t)
    let l := after (exec (.lockPort 17) s)
    let r := after (exec (.startPort 17) l)
    let p := after (exec (.stopPort 17) r)
    (c.port 17).enable = true ∧ (c.port 17).train = true ∧ (c.port 17).peerPkg = 5 ∧ (c.port 17).peerPort = 3 ∧ widthOf (0xFFFF &&& (c.port 17).laneMask) = some (3, 0) ∧ (t.port 17).width = 3 ∧ (t.port 17).vcTop = 5 ∧
      (s.port 17).session = true ∧ (l.port 17).lstate = 1 ∧ (r.port 17).lstate = 2 ∧ (p.port 17).stopping = true ∧ ((after (exec (.portStopDrained 17) p)).port 17).lstate = 0 ∧
      ((after (exec (.pcfgWrite 17 0) l)).port 17).lstate = 3 ∧ linked.fab.ports = [] ∧ l.fab.ports = [(17, l.port 17)] ∧ ((after (exec (.fabricConfigWrite 0xA40 1) l)).port 17).lstate = 3 ∧
      (after (exec (.fabricConfigWrite 0xA40 1) linked)).ctl.self = 1 ∧ bitAt (after (exec (.sessionAttempt 17 true 5 4) t)).fab.fevt 17 = true := by decide +kernel

/-- Lanes and banks: half width, a bank that is spare and one that is not, a port without a width. -/
theorem wit_PortsAndFlits_lanes : let x : Port := { enable := true, width := 3, lstate := 1, session := true, banks := 0x0FFF }
    let f := after (exec (.laneFail 17 15) (portAt x))
    let r := after (exec (.retrainComplete 17 true) f)
    (f.port 17).retraining = true ∧ (f.port 17).retrainWidth = some (2, 0) ∧ (f.port 17).waiting = [] ∧ (r.port 17).width = 2 ∧ ((after (exec (.retrainComplete 17 false) f)).port 17).width = 0 ∧
      3 ≤ x.healthy ∧ x.banks.getLsbD 11 = true ∧ ((after (exec (.rxBankError 17 11) (portAt x))).port 17).vcTop = 4 ∧ ((after (exec (.rxBankError 17 0) (portAt { x with banks := 7 }))).port 17).vcTop = 0 ∧
      ({ x with laneFail := 0x8888 } : Port).retrainWidth = none ∧ ((after (exec (.portDown 17) (portAt { x with laneFail := 0x8888 }))).port 17).lstate = 0 ∧
      2 ^ 36 ≤ (2 : Nat) ^ 36 ∧ ((after (exec (.keyUpdate 17 true) (portAt { x with sent := 2 ^ 36 }))).port 17).kph = true ∧ ((after (exec (.keyUpdate 17 false) (portAt { x with sent := 2 ^ 36 }))).port 17).lstate = 3 := by
  decide +kernel

/-- A running port: a flit in sequence with one packet, a repeated one 1 and 1024 back, one ahead, and one that is not corrected. -/
def inFlit : Flit := ⟨0, false, false, false, 0, 0, 0, ((({} : Port).append 0 { bytes := packetBytes (reqOf 2 (leBytes 8 7)) }).takeFlit 0).1⟩

theorem wit_PortsAndFlits_flits : let x : Port := { enable := true, width := 3, lstate := 2, session := true, peerRun := true, peerVc := 7 }
    let t := fun (n seq : Nat) (ok : Bool) => after (exec (.flitReceive 17 { inFlit with seq := seq } ok true) (portAt { x with expected := n }))
    inFlit.ctrl = false ∧ x.retained = [] ∧ x.waiting = [] ∧ ((t 4095 4095 true).port 17).expected = 0 ∧ (t 4095 4095 true).fab.net = [{ pkt := reqOf 2 (leBytes 8 7), hop := 1, buf := some (17, 0) }] ∧
      (0 + 1) % 4096 = 1 ∧ ((t 1 0 true).port 17).control = none ∧ (3073 + 1024) % 4096 = 1 ∧ ((t 1 3073 true).port 17).control = none ∧ ((t 1 3072 true).port 17).control = some (2, 1) ∧
      ((t 1 2 true).port 17).control = some (2, 1) ∧ (t 1 2 true).fab.net = [] ∧ ((t 1 1 false).port 17).control = some (2, 1) ∧ x.repeats { inFlit with seq := 4000 } = true ∧ ((after (exec (.flitReceive 17 inFlit true false) (portAt x))).port 17).tagFail = 1 ∧
        ((after (exec (.flitReceive 17 inFlit true false) (portAt { x with session := false }))).port 17).tagFail = 0 ∧ ((t 1 1 false).port 17).asked = some (1, 0) ∧ (0 : Nat) < 0 + 1000 ∧
      ((after (exec (.flitReceive 17 { inFlit with seq := 2 } true true) (portAt { x with expected := 1, asked := some (1, 0) }))).port 17).control = none := by decide +kernel

/-- What the messages need, and the first advertisement and a change of it. -/
theorem wit_PortsAndFlits_messages : let x : Port := { enable := true, width := 3, lstate := 2, session := true, peerRun := true, peerVc := 7, retained := [inFlit, { inFlit with seq := 1 }], txSeq := 2 }
    let v := after (exec (.vcadvMsg 17 5) (portAt x))
    (x.retained.dropWhile (fun f => f.seq != 1)).length = 1 ∧ ((after (exec (.replayMsg 17 1) (portAt x))).port 17).replays = 1 ∧ (v.port 17).peerVc = 5 ∧ bitAt v.fab.fevt 17 = false ∧
      bitAt (after (exec (.vcadvMsg 17 4) v)).fab.fevt 17 = true ∧ ((after (exec (.stateMsg 17 2) (portAt { x with retained := [] }))).port 17).peerRun = true ∧
      ((after (exec (.peerSilenceTimeout 17) (portAt { x with peerRun := true }))).port 17).peerRun = false := by decide +kernel

/-- A load of the route tables: a column to package 7 of port 0. -/
theorem wit_PortsAndFlits_tables : let s := { linked with mem := placed [(0x11000 + 28, leBytes 4 0x8100)] }
    let t := { s with fab := { s.fab with rtBase := 0x11000, loading := true } }
    t.fab.loading = true ∧ t.readPhys (0x11000 + 28) 4 = some 0x8100 ∧ columnOf 0x8100 = 0x8100 := by decide +kernel

/-! ### Uncorrectable words and failing stores -/

/-- The store of two bytes whose sector fails twice: nothing is written, the group stops with E2E and its launch ends with status 0x10 (R397, R441). -/
theorem wit_UncorrectableWords_store : let s : State := { issue id with stores := [twoBytes] }
    let fails : List SectorFail := [{ sector := 0x28, stored := 2 }]
    let t := after (exec (.storePerformed (.performed 4) { fails := fails }) s)
    firstFail fails (twoBytes.cells.map (fun c => c.loc)) = some (0x500, { sector := 0x28, stored := 2 }) ∧ (AMap.find (s.team 0).groups 0).isSome = true ∧ (s.launch 1).ended = none ∧
      (s.launch 1).complete = false ∧ t.sees 0 0x500 = 0 ∧ t.stores = [] ∧ (t.group 0 0).stopped = true ∧ AMap.get (t.group 0 0).trap 0x20 0 = 0x10 ∧ (t.launch 1).ended = some 0x10 := by decide +kernel

/-- A dirty sector with an uncorrectable word, and HBM's bytes 7: written back, or put back (R379, R397, R399). -/
theorem wit_UncorrectableWords_writeBack : let s : State := { issue id with mem := Memory.writeL [] 0x500 [1, 2], l2 := [(0x28, { code := 0, old := List.replicate 32 7 })], bad := [{ place := .l2 0xA1, cause := 4 }] }
    let t := after (exec (.storePerformed (.writeBack 0x28 0 0) { mismatches := 1 }) s)
    s.canonical = true ∧ (AMap.find s.l2 0x28).isSome = true ∧ t.l2 = [] ∧ t.mem.read 0x500 = 1 ∧ t.badAt (.l2 0xA1) = none ∧ t.badAt (.hbm 0xA1) = some 7 ∧ (s.dropL2 0x28).mem.read 0x51F = 7 := by decide +kernel

/-- Bytes from the host leave the code of the merged sector, beside zeros in HBM (R379, R396). -/
theorem wit_UncorrectableWords_code : let t := after (exec (.bar2Write 0x500 [5]) (issue id))
    physKey 0 (0x500 + 0) = some 0x500 ∧ (AMap.find t.l2 0x28).map (fun e => (e.code, e.old)) = some (checkCode (5 :: List.replicate 31 0) (2 ^ 32 - 1), List.replicate 32 0) := by decide +kernel

/-- CRC-32C of the digits 1 to 9, the check value of the polynomial of R395. -/
theorem test_crc32c : crc32c (([0x31, 0x32, 0x33, 0x34, 0x35, 0x36, 0x37, 0x38, 0x39] : List Byte)) = 0xE3069283 := by decide +kernel

/-- A word whose read check failed twice stands in its register, and its next consumer traps UCE with cause 8 and its address in TRAPADDR (R398, R399). -/
theorem wit_UncorrectableWords_read : let s := (formed 1 0xF).setGroup 0 0 { (formed 1 0xF).group 0 0 with pends := ((formed 1 0xF).group 0 0).pends.map (fun p => { p with addrs := some [(0, 0x11000)] }) }
    let t := after (exec (.resultArrival 0 0 4 2) s)
    let l := { here with w0 := 0x1000004010200000 }
    let f := { rf with d := .v 4, a := .v 1, b := .v 2 }
    let u := (after (exec (.iadd f) { t with latch := some l })).group 0 0
    ((t.group 0 0).bad.map (fun b => (b.reg, b.thr, b.cause))) = [(1, 0, 8), (1, 1, 8), (1, 2, 8), (1, 3, 8)] ∧ (t.group 0 0).readV 1 0 = 0x77 ∧ (t.groupAt l.ref).splits.length = 8 ∧
      isOk (decodeWords (t.decodeCtx l.ref) l.w0 l.w1) (.iadd f) = true ∧ AMap.get u.trap 0x20 0 = 0x11 ∧ AMap.get u.trap 0x2D 0 = 8 ∧ AMap.get u.trapAddr 0 0 = 0x11000 ∧ u.readV 4 0 = 0 := by decide +kernel

/-- Scrub finds the word of 0x11000 uncorrectable in the L2, and register 7 of thread 3; the load of the word traps UCE with cause 4 (R399). -/
theorem wit_UncorrectableWords_scrub : let w := ((physKey 0 0x11000).getD 0) / 8
    let s := after (exec (.scrub 0 5 0 0 { loc := 0, words := [.l2 w, .reg 0 0 7 3] }) memState)
    let u := (after (exec (.ld loadForm) s)).group 0 0
    memState.ctl.scrub ≠ 0 ∧ s.badAt (.l2 w) = some 4 ∧ ((s.group 0 0).bad.map (fun b => (b.reg, b.thr, b.cause))) = [(7, 3, 1)] ∧
      ((s.loadReq here loadForm false).accs.any (fun a => (s.reached here (s.loadReq here loadForm false) a).any (fun c => (s.badCell 0 c).isSome))) = true ∧
      AMap.get u.trap 0x20 0 = 0x11 ∧ AMap.get u.trap 0x2D 0 = 4 ∧ AMap.get u.trapAddr 0 0 = 0x11000 := by decide +kernel

theorem wit_UncorrectableWords_load : let s : State := { memState with bad := [{ place := .l2 (((physKey 0 0x11000).getD 0) / 8), cause := 4 }] }
    s.Reaches here (s.loadReq here loadForm false) none ∧ s.Settled here (s.loadReq here loadForm false) := ⟨reaches_of (by decide +kernel), settled_of (by decide +kernel)⟩

/-! ### Litmus tests of the spec -/

/-- The TB at 0x40 after updates of one cycle: PHASE, PENDARR and PENDSEC. -/
def tbAfter (us : List (Int × Int)) : Nat × Int × Int :=
  let s := (issue id).setTb 0 0 0x40 ⟨0, 0, 1, 1, 0, 0, 0⟩
  let t := (us.foldl (fun (acc : State) u => acc.updateTb 0 0 0x40 u.1 0 0 u.2) s).settleTbs.tb 0 0 0x40
  (t.phase, t.pendarr, t.pendsec)

/-- TB-cycle: an arrival that completes the phase and a sector expected after it, in one cycle and in either order, make one update (R344, R371). -/
theorem test_tb_cycle : tbAfter [(1, 0), (0, 1)] = (1, 1, 1) ∧ tbAfter [(0, 1), (1, 0)] = (1, 1, 1) := by decide +kernel

/-- A plain store of 8 bytes and a relaxed load of half of it: the whole unit goes back, so no other core sees half a store (R223). -/
theorem test_no_torn_unit : let s := memState.setCore 0 { memState.core 0 with l1 := (List.range 8).map (fun i => (0x700 + i, { val := 0xAA, dirty := true })) }
    let t := s.evictUnit 0 0x702
    (t.core 0).l1 = [] ∧ t.mem.readN 0x700 8 = 0xAAAAAAAAAAAAAAAA := by decide +kernel

/-- Two updates of one cycle at one TB are one update, and complete one phase (R344). -/
theorem wit_CountedAndTransactionWaits_cycle : let u : TbUpdate := ⟨⟨0, 0, 0x40⟩, 1, 0, 0, 0⟩
    let s := { (issue id).setTb 0 0 0x40 ⟨0, 0, 1, 1, 0, 0, 0⟩ with slotAt := 1, tbNow := [u, u] }
    let t := after (exec (.slotSelect 0 0) s)
    (4 * 0 + 0 < s.slotAt ∧ (AMap.find s.teams 0).isSome = true) ∧ t.tbNow = [] ∧ (t.tb 0 0 0x40).phase = 1 := by decide +kernel
end Sys2Proof.Tests
end

section
/-! PROOFS. What a load gives the registers of D, and what an atomic writes (R2, R67, R236, R245, R246). -/

namespace Sys2Proof.Machine

/-! ### The word of a register, from the pieces that it receives -/

/-- Sign extension looks at the low `n` bits alone. -/
theorem sextNat_mod (n v : Nat) : sextNat n (v % 2 ^ n) = sextNat n v := by
  simp only [sextNat, Nat.mod_mod]

/-- The word of a register that receives one piece. -/
theorem recvWord_of_filter_eq_singleton {recvs : List Recv} {reg : Nat} {r : Recv} (h : recvs.filter (fun x => x.reg = reg) = [r])
    (data : Nat) : recvWord recvs reg data =
      wd ((if r.sx then wrapNat 64 (sextNat r.len (data / 2 ^ r.lo)) else data / 2 ^ r.lo % 2 ^ r.len) * 2 ^ r.dst) := by
  simp only [recvWord, h, List.foldl_cons, List.foldl_nil, Nat.zero_add, Nat.shiftRight_eq_div_pow, sextNat_mod]

/-- Register `j` of a v-tuple, where the file has it (R68). -/
theorem destField_tupleAt_v (d : Fin 192) (j : Nat) :
    destField (tupleAt (.v d) j) = if d.val + j < 192 then some (d.val + j) else none := by
  simp only [tupleAt]
  split <;> rfl

/-- Of the 64-bit pieces of `m` registers from D on, register `j` receives the one at bit 64j alone. -/
theorem filter_tuplePieces (d : Fin 192) {j : Nat} (hj : d.val + j < 192) (m : Nat) :
    ((List.range m).filterMap (fun i => (destField (tupleAt (.v d) i)).map (fun r => ({ reg := r, lo := 64 * i, len := 64 } : Recv)))).filter
      (fun x => x.reg = d.val + j) = if j < m then [{ reg := d.val + j, lo := 64 * j, len := 64 }] else [] := by
  induction m with
  | zero => rfl
  | succ m ih =>
    rw [List.range_succ, List.filterMap_append, List.filter_append, ih, List.filterMap_cons, destField_tupleAt_v, List.filterMap_nil]
    rcases Nat.lt_trichotomy j m with h | rfl | h
    · have hne : m ≠ j := by omega
      by_cases hm : d.val + m < 192 <;> simp [h, hm, hne, Nat.lt_succ_of_lt h]
    · simp [hj]
    · have hne : m ≠ j := by omega
      have hm : d.val + m < 192 := by omega
      simp [hm, hne, Nat.not_lt_of_gt h, show ¬ j < m + 1 by omega]

/-- A load of at most 8 bytes extends them to the word of its register (R236). -/
theorem recvWord_loadRecvs_le (d : Fin 192) {n : Nat} (hn : n ≤ 8) (sx : Bool) (data : Nat) :
    recvWord (loadRecvs (.v d) n sx) d.val data =
      if sx then wordOfInt (sextNat (8 * n) data) else wd (data % 2 ^ (8 * n)) := by
  have hone : (loadRecvs (.v d) n sx).filter (fun x => x.reg = d.val) = [{ reg := d.val, lo := 0, len := 8 * n, sx := sx }] := by
    simp [loadRecvs, hn, destField]
  rw [recvWord_of_filter_eq_singleton hone]
  cases sx <;> simp [wordOfInt, wd]

/-- Of a load of whole words, register `j` of D receives bytes 8j to 8j + 7 (R236). -/
theorem recvWord_loadRecvs_gt (d : Fin 192) {n j : Nat} (hn : 8 < n) (hj : j < n / 8) (hd : d.val + j < 192) (sx : Bool) (data : Nat) :
    recvWord (loadRecvs (.v d) n sx) (d.val + j) data = wd (data / 2 ^ (64 * j) % 2 ^ 64) := by
  have hone : (loadRecvs (.v d) n sx).filter (fun x => x.reg = d.val + j) = [{ reg := d.val + j, lo := 64 * j, len := 64 }] := by
    rw [loadRecvs, if_neg (by omega), filter_tuplePieces d hd, if_pos hj]
  rw [recvWord_of_filter_eq_singleton hone]
  simp

/-! ### The access of one thread of a load -/

/-- The access that LD makes for thread `t` (R67, R236). -/
def State.loadAcc (s : State) (l : Latch) (f : MemForm) (t : Nat) : Acc :=
  let ea := memEa (s.groupAt l.ref) (l.self s) f t
  { thr := t, ea := ea, va := spanFrom ea (2 ^ f.size.val), recvs := loadRecvs f.d (2 ^ f.size.val) f.sx }

/-- LD makes one access for each active thread. -/
theorem loadReq_accs (s : State) (l : Latch) (f : MemForm) :
    (s.loadReq l f false).accs = (threadsOf (s.activeSet l f.mask)).map (s.loadAcc l f) := rfl

/-- The first thread of a mask that is `t`, for a thread `t` of the mask. -/
theorem find?_threadsOf {m : Half} {t : Nat} (ht : t < 32) (hm : m.getLsbD t = true) : (threadsOf m).find? (fun x => x == t) = some t := by
  rw [threadsOf, List.find?_filter, List.find?_range_eq_some]
  refine ⟨by simp [hm], by simpa using ht, fun j hj => ?_⟩
  simp [Nat.ne_of_lt hj]

/-- The word that LD gives a register in an active thread is made of the bytes of that thread's access. -/
theorem loadedWord_loadReq {s : State} {l : Latch} {f : MemForm} {t : Nat} (ht : t < 32) (hm : (s.activeSet l f.mask).getLsbD t = true)
    (r : Nat) : s.loadedWord l (s.loadReq l f false) r t =
      recvWord (loadRecvs f.d (2 ^ f.size.val) f.sx) r (s.found l (s.loadReq l f false) (s.loadAcc l f t)) := by
  have hfind : (s.loadReq l f false).accs.find? (fun a => (s.loadReq l f false).uniform || a.thr == t) = some (s.loadAcc l f t) := by
    rw [loadReq_accs, List.find?_map]
    exact congrArg (Option.map (s.loadAcc l f)) (find?_threadsOf ht hm)
  rw [State.loadedWord, hfind]
  rfl

/-- A SIZE of more than 8 bytes is a number of whole words. -/
theorem eight_dvd_size (k : Fin 8) (h : 8 < 2 ^ k.val) : 8 ∣ 2 ^ k.val := by
  revert k
  decide

/-- LD gives an active thread the bytes at its effective address, extended, or one word of them for each register of D (R2, R67, R236). -/
theorem loadReq_gives_words {s : State} {l : Latch} {f : MemForm} {d : Fin 192} {t : Nat} (hd : f.d = .v d) (ht : t < 32)
    (hm : (s.activeSet l f.mask).getLsbD t = true) :
    let req := s.loadReq l f false
    let n := 2 ^ f.size.val
    let data := s.found l req (s.loadAcc l f t)
    s.loadAcc l f t ∈ req.accs ∧
      (n ≤ 8 → s.loadedWord l req d.val t = if f.sx then wordOfInt (sextNat (8 * n) data) else wd (data % 2 ^ (8 * n))) ∧
      (8 < n → ∀ j, 8 * j < n → d.val + j < 192 → s.loadedWord l req (d.val + j) t = wd (data / 2 ^ (64 * j) % 2 ^ 64)) := by
  refine ⟨?_, fun hn => ?_, fun hn j hj hdj => ?_⟩
  · rw [loadReq_accs]
    exact List.mem_map_of_mem ((mem_threadsOf _ t).mpr ⟨ht, hm⟩)
  · rw [loadedWord_loadReq ht hm, hd, recvWord_loadRecvs_le d hn]
  · have hdvd := eight_dvd_size f.size hn
    rw [loadedWord_loadReq ht hm, hd, recvWord_loadRecvs_gt d hn (by omega) hdj]

/-! ### The word that an atomic writes (R245, R246) -/

section
variable (n old v c : Nat)

@[simp] theorem atomVal_add : atomVal (.int 0) n old v c = (old + v) % 2 ^ (8 * n) := rfl
@[simp] theorem atomVal_and : atomVal (.int 1) n old v c = old &&& v := rfl
@[simp] theorem atomVal_or : atomVal (.int 2) n old v c = old ||| v := rfl
@[simp] theorem atomVal_xor : atomVal (.int 3) n old v c = old ^^^ v := rfl
@[simp] theorem atomVal_minu : atomVal (.int 6) n old v c = min old v := rfl
@[simp] theorem atomVal_maxu (k : Nat) : atomVal (.int (k + 7)) n old v c = max old v := rfl
@[simp] theorem atomVal_cas : atomVal .cas n old v c = if old = c then v else old := rfl

/-- The signed minimum is one of the two words. -/
theorem atomVal_mins : atomVal (.int 4) n old v c = if sextNat (8 * n) old ≤ sextNat (8 * n) v then old else v := rfl

/-- The signed maximum is one of the two words. -/
theorem atomVal_maxs : atomVal (.int 5) n old v c = if sextNat (8 * n) old ≤ sextNat (8 * n) v then v else old := rfl

/-- The signed minimum, by the values of the words. -/
theorem sextNat_atomVal_mins :
    sextNat (8 * n) (atomVal (.int 4) n old v c) = min (sextNat (8 * n) old) (sextNat (8 * n) v) := by
  rw [atomVal_mins, Int.min_def, apply_ite (sextNat (8 * n))]

/-- The signed maximum, by the values of the words. -/
theorem sextNat_atomVal_maxs :
    sextNat (8 * n) (atomVal (.int 5) n old v c) = max (sextNat (8 * n) old) (sextNat (8 * n) v) := by
  rw [atomVal_maxs, Int.max_def, apply_ite (sextNat (8 * n))]

variable {n old v}

/-- What an integer atomic writes fits the word, as its old word and its operand do. -/
theorem atomVal_int_lt (ho : old < 2 ^ (8 * n)) (hv : v < 2 ^ (8 * n)) (o : Nat) : atomVal (.int o) n old v c < 2 ^ (8 * n) := by
  match o with
  | 0 => exact Nat.mod_lt _ (Nat.two_pow_pos _)
  | 1 => exact Nat.and_lt_two_pow _ hv
  | 2 => exact Nat.or_lt_two_pow ho hv
  | 3 => exact Nat.xor_lt_two_pow ho hv
  | 4 => rw [atomVal_mins]; split <;> assumption
  | 5 => rw [atomVal_maxs]; split <;> assumption
  | 6 => exact Nat.lt_of_le_of_lt (Nat.min_le_left _ _) ho
  | k + 7 => exact Nat.max_lt.mpr ⟨ho, hv⟩

end

/-- Settles O30: the access of the thread gives its words by the pieces it has for D, and an atomic's word is read off its operation. -/
theorem loadedAndCombinedWords : Obligations.LoadedAndCombinedWords := by
  refine ⟨fun s l f d t hd ht hm => ?_, fun n old v c _ ho hv => ?_⟩
  · obtain ⟨hmem, hle, hgt⟩ := loadReq_gives_words hd ht hm
    exact ⟨s.loadAcc l f t, hmem, rfl, rfl, rfl, hle, hgt⟩
  · exact ⟨atomVal_add .., atomVal_and .., atomVal_or .., atomVal_xor .., sextNat_atomVal_mins .., sextNat_atomVal_maxs ..,
      atomVal_minu .., atomVal_maxu n old v c 0, atomVal_cas .., atomVal_int_lt c ho hv⟩

end Sys2Proof.Machine
end

section
/-! PROOFS. FRED and FSCAN: the words they write, and the random counters they step (R22, R56, R57, R156). -/

namespace Sys2Proof.Machine

open Host

/-! ### Random counters -/

/-- A value set in a list of threads. -/
theorem get_setPerThread (m : AMap Word) (ts : List Nat) (f : Nat → Word) (n : Nat) :
    AMap.get (setPerThread m ts f) n 0 = if n ∈ ts then f n else AMap.get m n 0 := by
  induction ts generalizing m with
  | nil => simp [setPerThread]
  | cons t rest ih =>
    rw [setPerThread, ih, AMap.get_set]
    by_cases h : n = t
    · subst h; simp
    · simp [h]

/-- Stepping advances the counters of the listed threads, and of no other (R22). -/
@[simp] theorem Group.readRng_stepRng (g : Group) (ts : List Nat) (k n : Nat) :
    (g.stepRng ts k).readRng n = if n ∈ ts then g.readRng n + wd k else g.readRng n :=
  get_setPerThread g.rngc ts _ n

/-- The counters of a group are part of its rest. -/
theorem Group.readRng_congr {g h : Group} (e : g.rest = h.rest) (n : Nat) : g.readRng n = h.readRng n :=
  congrArg (fun x => x.readRng n) e

/-- Stepping the counters of no thread changes nothing. -/
@[simp] theorem Group.stepRng_nil (g : Group) (k : Nat) : g.stepRng [] k = g := rfl

/-- Stepping on a condition is stepping the counters of the threads that it leaves. -/
theorem Group.ite_stepRng (c : Prop) [Decidable c] (g : Group) (ts : List Nat) (k : Nat) :
    (if c then g.stepRng ts k else g) = g.stepRng (if c then ts else []) k := by
  split <;> rfl

/-! ### What the move of the split's PC leaves -/

@[simp] theorem State.core_advance (s : State) (l : Latch) (c : Nat) : (s.advance l).core c = s.core c := rfl

@[simp] theorem State.bad_advance (s : State) (l : Latch) : (s.advance l).bad = s.bad := rfl

@[simp] theorem State.launchOf_advance (s : State) (l : Latch) (t : Nat) : (s.advance l).launchOf t = s.launchOf t :=
  State.launchOf_setGroup ..

/-- A team's number does not hang on its groups. -/
@[simp] theorem State.linear_advance (s : State) (l : Latch) : ((s.advance l).team l.ref.team).linear = (s.team l.ref.team).linear := by
  rw [State.advance, State.setSplitAt, State.setGroupAt, State.team_setGroup, if_pos rfl]

/-- The random words of the issuing instruction are those of the state before it (R22). -/
@[simp] theorem State.rngWord_advance (s : State) (l : Latch) (t i j : Nat) : (s.advance l).rngWord l t i j = s.rngWord l t i j := by
  rw [State.rngWord, State.linear_advance, State.launchOf_advance, State.groupAt_advance]
  rfl

section
variable (s : State) (l : Latch)

@[simp] theorem State.groupAt_advance_core : ((s.advance l).groupAt l.ref).core = (s.groupAt l.ref).core := by
  rw [State.groupAt_advance]
  rfl

@[simp] theorem State.groupAt_advance_fmt (n : Nat) : ((s.advance l).groupAt l.ref).fmt n = s.fmtAt l n := by
  rw [State.groupAt_advance]
  rfl

@[simp] theorem State.groupAt_advance_active (m : Mask) : ((s.advance l).groupAt l.ref).active (l.self s) m = s.activeSet l m := by
  rw [State.groupAt_advance]
  rfl

@[simp] theorem State.groupAt_advance_readOpnd (o : Opnd) : ((s.advance l).groupAt l.ref).readOpnd (l.self s) o = s.operand l o := by
  rw [State.groupAt_advance]
  rfl

@[simp] theorem Expansion.shapeTrap_advance (x : Expansion) (c : Core) :
    x.shapeTrap c ((s.advance l).groupAt l.ref) = x.shapeTrap c (s.groupAt l.ref) := by
  rw [State.groupAt_advance]
  rfl

@[simp] theorem Expansion.invTrap_advance (x : Expansion) (c : Core) (ts : List Nat) (src : Nat → Word) :
    x.invTrap c ((s.advance l).groupAt l.ref) ts src = x.invTrap c (s.groupAt l.ref) ts src := by
  rw [State.groupAt_advance]
  rfl

@[simp] theorem Expansion.word_advance (x : Expansion) (c : Core) (w : Word) :
    x.word c ((s.advance l).groupAt l.ref) w = x.word c (s.groupAt l.ref) w := by
  rw [State.groupAt_advance]
  rfl

end

/-! ### An instruction that steps counters and writes D -/

/-- `o` goes on with the next instruction, D has received `w` in the threads of `act`, the counters of the threads `ts` have advanced by `k` steps, and nothing else has changed (R10 to R12, R22). -/
def State.WritesStepping (s : State) (l : Latch) (o : Outcome State Fault Refusal) (act : Half) (d : Opnd) (ts : List Nat) (k : Nat) (w : Nat → Word) : Prop :=
  ∃ t, o = .next t ∧ s.Went t l l.next (fun g => { g with rngc := [] }) ∧ (s.groupAt l.ref).Wrote (t.groupAt l.ref) act d w ∧
    ∀ n, (t.groupAt l.ref).readRng n = if n ∈ ts then (s.groupAt l.ref).readRng n + wd k else (s.groupAt l.ref).readRng n

/-- A body that steps the counters of some threads and writes D does this and nothing else. -/
theorem issue_writesStepping {s : State} {l : Latch} (h : s.issuing l = true) {b : Latch → State → Res} (name : String) {act : Half}
    {d : Opnd} {ts : List Nat} {k : Nat} {w : Nat → Word}
    (hb : b l (s.advance l) = doneGroup l (s.advance l) ((((s.advance l).groupAt l.ref).stepRng ts k).writeOpnd d act w)) :
    s.WritesStepping l (issue name s b) act d ts k w := by
  rw [State.groupAt_advance] at hb
  generalize hg : ((s.groupAt l.ref).setSplit l.ref.split { s.splitAt l.ref with pc := l.next }).stepRng ts k = g at hb
  have hbad : g.bad = [] := by rw [← hg]; exact State.issuing_bad s l h
  have hfail : ∀ p ∈ g.pends, p.failed = false := by rw [← hg]; exact State.issuing_failed s l h
  obtain ⟨hr, hs, hn, hq, hv, hu, hk⟩ := Group.writeOpnd_spec g d act w hbad
  obtain ⟨t, ht, hwent, hrest, pv, pg, pk, -⟩ := issue_went s l h b name _ (fun g => { g with rngc := [] }) hb
    (by rw [hs, ← hg]; rfl) (by rw [hr, ← hg]; rfl) ((congrArg Group.bad hr).trans hbad) (by rw [hn, ← hg]; rfl)
    (Group.writeOpnd_failed g d act w hfail)
  subst hg
  refine ⟨t, ht, hwent, ⟨fun n x hx hqn => ?_, fun n hqn => ?_, fun n x hn0 hx => ?_⟩, fun n => ?_⟩
  · rw [pv n.val x hx n.isLt ((hq _).trans hqn)]
    exact hv n x hx
  · rw [pg n.val ((hq _).trans hqn)]
    exact hu n
  · refine Eq.trans ?_ (hk n x hn0 hx)
    simp only [Group.readK, hn0, if_false, pk]
  · rw [Group.readRng_congr (hrest.trans hr), Group.readRng_stepRng]
    rfl

/-- The same as the statement of FRED and FSCAN says it, by a predicate on the threads that step. -/
theorem State.WritesStepping.of_draws {s : State} {l : Latch} {o : Outcome State Fault Refusal} {act : Half} {d : Opnd} {ts : List Nat} {k : Nat}
    {w : Nat → Word} (h : s.WritesStepping l o act d ts k w) {draws : Nat → Prop} (hts : ∀ n, n < 32 → (n ∈ ts ↔ draws n)) :
    ∃ t, o = .next t ∧ s.Went t l l.next (fun g => { g with rngc := [] }) ∧ (s.groupAt l.ref).Wrote (t.groupAt l.ref) act d w ∧
      ∀ n, n < 32 → (draws n → (t.groupAt l.ref).readRng n = (s.groupAt l.ref).readRng n + wd k) ∧
        (¬ draws n → (t.groupAt l.ref).readRng n = (s.groupAt l.ref).readRng n) := by
  obtain ⟨t, ht, hwent, hwrote, hrng⟩ := h
  refine ⟨t, ht, hwent, hwrote, fun n hn => ?_⟩
  rw [← hts n hn, hrng]
  exact ⟨fun hmem => if_pos hmem, fun hmem => if_neg hmem⟩

/-! ### Words made of elements -/

/-- A word of a format is known by its elements. -/
theorem wordOf_congr (F : Fmt) {v w : Nat → Nat} (h : ∀ e, e < F.k → v e = w e) : wordOf F v = wordOf F w :=
  congrArg (wordOfElems F.w) (List.map_congr_left fun e he => h e (List.mem_range.mp he))

/-! ### The shared start of FRED and FSCAN -/

/-- Where no word is uncorrectable, an expansion meets none (R399). -/
theorem Expansion.uceTrap_eq_none (x : Expansion) {s : State} (hs : s.bad = []) (core : Nat) (g : Group) (ts : List Nat) (src : Nat → Word) :
    x.uceTrap s core g ts src = none := by
  simp [Expansion.uceTrap, State.bookUce, hs]

/-- While an instruction issues, no word of a memory or tile is uncorrectable. -/
theorem State.bad_eq_nil_of_issuing {s : State} {l : Latch} (h : s.issuing l = true) : s.bad = [] := by
  simp only [State.issuing, State.sound, Bool.and_eq_true, List.isEmpty_iff] at h
  obtain ⟨-, ⟨⟨hbad, -⟩, -⟩, -⟩ := h
  exact hbad

section
variable {s : State} {l : Latch} (h : s.issuing l = true) {f : FmtForm}
  (hshape : (fmtExpansion f f.xa f.slot.toNat).bind (fun x => x.shapeTrap (s.core (s.groupAt l.ref).core) (s.groupAt l.ref)) = none)
  (hinv : (fmtExpansion f f.xa f.slot.toNat).bind (fun x => x.invTrap (s.core (s.groupAt l.ref).core) (s.groupAt l.ref)
    (threadsOf (s.activeSet l f.mask)) (s.operand l f.a)) = none)
include h hshape hinv

/-- A reduction whose codebook checks raise no trap steps counters and writes D as its own part `fin` does, on the expanded words of A (R171, R267, R268). -/
theorem reduction_writesStepping (name : String) {fin : Latch → State → Group → Fmt → Half → (Nat → Word) → Group}
    {ts : List Nat} {k : Nat} {w : Nat → Word}
    (hfin : fin l (s.advance l) ((s.advance l).groupAt l.ref) (s.fmtAt l f.slot.toNat) (s.activeSet l f.mask) (s.fmtSource l f f.xa f.slot.toNat f.a) =
      (((s.advance l).groupAt l.ref).stepRng ts k).writeOpnd f.d (s.activeSet l f.mask) w) :
    s.WritesStepping l (reduction name f s fin) (s.activeSet l f.mask) f.d ts k w := by
  refine issue_writesStepping h name ?_
  rw [← hfin]
  have hbad : (s.advance l).bad = [] := (State.bad_advance s l).trans (State.bad_eq_nil_of_issuing h)
  unfold State.fmtSource
  cases hx : fmtExpansion f f.xa f.slot.toNat with
  | none => simp [Latch.self_advance s l h, firstTrap]
  | some x =>
    rw [hx, Option.bind_some] at hshape hinv
    simp [Latch.self_advance s l h, firstTrap, hshape, hinv, x.uceTrap_eq_none hbad]

/-! ### The words that FRED and FSCAN write -/

/-- FRED writes the root of each element's tree, rounded by the words of the lowest active thread, which alone steps its counter (R56, R57, R156). -/
theorem execFred_writesStepping :
    let act := s.activeSet l f.mask
    let low := lowBit 32 act.toNat
    let F := s.fmtAt l f.slot.toNat
    let leaves := leafNodes F act (s.fmtSource l f f.xa f.slot.toNat f.a)
    s.WritesStepping l (execFred f s) act f.d (if F.rnd = 5 ∧ act ≠ 0 then [low] else []) (ceilDiv F.k 4) (fun _ =>
      wordOf F (fun e => nodeCode F (treeRoot F (leaves e)) (if F.rnd = 5 then s.rngWord l low (e / 4) (e % 4) else 0))) := by
  refine reduction_writesStepping h hshape hinv "FRED" ?_
  simp only [State.rngWord_advance, Group.ite_stepRng, Bool.and_eq_true, decide_eq_true_eq, bne_iff_ne]

/-- FSCAN writes each active thread the node of its place in each element's network, rounded by the thread's own words, and each of them steps its counter (R57, R156). -/
theorem execFscan_writesStepping :
    let act := s.activeSet l f.mask
    let F := s.fmtAt l f.slot.toNat
    let leaves := leafNodes F act (s.fmtSource l f f.xa f.slot.toNat f.a)
    s.WritesStepping l (execFscan f s) act f.d (if F.rnd = 5 then threadsOf act else []) (ceilDiv F.k 4) (fun n =>
      wordOf F (fun e => nodeCode F ((scanNet F (leaves e)).getD n none) (if F.rnd = 5 then s.rngWord l n (e / 4) (e % 4) else 0))) := by
  refine reduction_writesStepping h hshape hinv "FSCAN" ?_
  simp only [State.rngWord_advance, Group.ite_stepRng]
  refine congrArg _ (funext fun n => wordOf_congr _ fun e he => ?_)
  simp [he]

end

/-- Settles O21: the two instructions share their start, and each has its words and its stepping threads from its own part. -/
theorem formatReductions : Obligations.FormatReductions := by
  intro s l f h c g act low F a leaves R runs hshape hinv
  refine ⟨(execFred_writesStepping h hshape hinv).of_draws fun n _ => ?_, (execFscan_writesStepping h hshape hinv).of_draws fun n hn => ?_⟩
  · rw [List.mem_ite_nil_right, List.mem_singleton, and_assoc]
  · rw [List.mem_ite_nil_right, mem_threadsOf, and_iff_right hn]

end Sys2Proof.Machine
end

section
/-! PROOFS. The format instructions: the shape that forms one word per thread, the element-wise instructions, sums, conversions and the long-latency ones (R40, R164 to R188, R201). -/

namespace Sys2Proof.Machine

open Host

/-! ### What a format instruction's word is formed from -/

/-- The issuing group with its split's PC moved on, which an instruction's body reads. -/
def State.movedOn (s : State) (l : Latch) : Group :=
  (s.groupAt l.ref).setSplit l.ref.split { s.splitAt l.ref with pc := l.next }

/-- It is the group of the advanced state. -/
theorem State.groupAt_advance_movedOn (s : State) (l : Latch) : (s.advance l).groupAt l.ref = s.movedOn l :=
  State.groupAt_advance s l

/-- Moving the PC on counts no instruction. -/
@[simp] theorem State.movedOn_nextInst (s : State) (l : Latch) : (s.movedOn l).nextInst = (s.groupAt l.ref).nextInst := rfl

/-- What the issuing format instruction meets in thread `t`, with A and B read in `slot`; an instruction that counts `n` results draws its random words from the thread's stream, or for a g-register from that of the split's lowest thread (R22, R40, R164 to R171). -/
def State.fmtArgs (s : State) (l : Latch) (f : FmtForm) (slot n t : Nat) : FArgs where
  a := s.fmtSource l f f.xa slot f.a t
  b := s.fmtSource l f f.xb slot f.b t
  c := s.operand l f.c t
  d := s.operand l f.d t
  t := t
  rnd := fun i => if n = 0 then 0 else s.rngWord l (if isUni f.d then lowBit 32 (l.self s).toNat else t) (i / 4) (i % 4)

@[simp] theorem State.fmtArgs_c (s : State) (l : Latch) (f : FmtForm) (slot n t : Nat) : (s.fmtArgs l f slot n t).c = s.operand l f.c t := rfl

@[simp] theorem State.fmtArgs_t (s : State) (l : Latch) (f : FmtForm) (slot n t : Nat) : (s.fmtArgs l f slot n t).t = t := rfl

/-- The threads whose counters a drawing instruction steps (R22, R40). -/
def State.fmtDrawers (s : State) (l : Latch) (f : FmtForm) : List Nat :=
  if isUni f.d then [lowBit 32 (l.self s).toNat] else threadsOf (s.activeSet l f.mask)

/-- The results that count for random draws: none but under stochastic rounding (R40). -/
def State.fmtDraws (s : State) (l : Latch) (f : FmtForm) (results : Group → Nat) : Nat :=
  if (s.fmtAt l f.slot.toNat).rnd = 5 then results (s.movedOn l) else 0

/-- Under a rounding other than the stochastic one nothing is drawn (R40). -/
theorem State.fmtDraws_of_rnd {s : State} {l : Latch} {f : FmtForm} (results : Group → Nat) (hr : (s.fmtAt l f.slot.toNat).rnd ≠ 5) :
    s.fmtDraws l f results = 0 :=
  if_neg hr

/-- An instruction that counts no results draws nothing. -/
theorem State.fmtDraws_zero {s : State} {l : Latch} {f : FmtForm} {results : Group → Nat} (h : ∀ g, results g = 0) : s.fmtDraws l f results = 0 := by
  rw [State.fmtDraws, h, ite_self]

/-- While an instruction issues, its expansions meet no uncorrectable word (R399). -/
theorem fmtExpansion_uceTrap {s : State} {l : Latch} (h : s.issuing l = true) (f : FmtForm) (on : Bool) (slot core : Nat) (g : Group)
    (ts : List Nat) (src : Nat → Word) : (fmtExpansion f on slot).bind (fun x => x.uceTrap (s.advance l) core g ts src) = none := by
  have hbad : (s.advance l).bad = [] := (State.bad_advance s l).trans (State.bad_eq_nil_of_issuing h)
  simp [Expansion.uceTrap_eq_none _ hbad]

section
variable {s : State} {l : Latch} (h : s.issuing l = true) {f : FmtForm} {slotIn : Nat} (hclear : s.fmtClear l f slotIn)
include h hclear

/-- An instruction of the format shape that raises no trap forms its word in each active thread, and either writes it or leaves it pending, after stepping the counters it draws from. -/
theorem fmtLanes_body (name : String) {srcs : List Opnd} (hu : uniformBad f.d srcs = false) (long : Bool) {pre : Group → Option TrapReq}
    (hpre : pre (s.movedOn l) = none) (results : Group → Nat) (val : Group → FArgs → Word) :
    ∃ b, fmtLanes name f srcs slotIn long pre results val s = issue name s b ∧
      b l (s.advance l) =
        let g := s.movedOn l
        let n := s.fmtDraws l f results
        let g1 := if n = 0 then g else g.stepRng (s.fmtDrawers l f) (ceilDiv n 4)
        let word := fun t => val g (s.fmtArgs l f slotIn n t)
        doneGroup l (s.advance l)
          (if long then g1.pendOpnd g.nextInst l.pc f.d (s.activeSet l f.mask) f.la.toNat word else g1.writeOpnd f.d (s.activeSet l f.mask) word) := by
  obtain ⟨hsa, hsb, hia, hib⟩ := hclear
  refine ⟨_, rfl, ?_⟩
  -- the laws of the advanced state speak of its group in this form
  rw [← State.groupAt_advance_movedOn] at hpre
  simp only [← State.groupAt_advance_movedOn, State.fmtDraws]
  simp only [Latch.self_advance s l h, State.core_advance, State.groupAt_advance_core, State.groupAt_advance_active, State.groupAt_advance_readOpnd,
    State.groupAt_advance_fmt, State.rngWord_advance, Expansion.shapeTrap_advance, Expansion.invTrap_advance, Expansion.word_advance,
    hu, hpre, hsa, hsb, hia, hib, fmtExpansion_uceTrap h, firstTrap, Bool.false_eq_true, if_false]
  unfold State.fmtArgs State.fmtSource
  cases fmtExpansion f f.xa slotIn with
  | none => cases fmtExpansion f f.xb slotIn <;> rfl
  | some x => cases fmtExpansion f f.xb slotIn <;> rfl

/-! ### The format shape where nothing is drawn -/

/-- The same where no random word is drawn: the group is left with its counters. -/
theorem fmtLanes_undrawn (name : String) {srcs : List Opnd} (hu : uniformBad f.d srcs = false) (long : Bool) {pre : Group → Option TrapReq}
    (hpre : pre (s.movedOn l) = none) {results : Group → Nat} (hn : s.fmtDraws l f results = 0) {val : Group → FArgs → Word} {w : Nat → Word}
    (hw : ∀ t, val (s.movedOn l) (s.fmtArgs l f slotIn 0 t) = w t) :
    ∃ b, fmtLanes name f srcs slotIn long pre results val s = issue name s b ∧
      b l (s.advance l) = doneGroup l (s.advance l)
        (if long then ((s.advance l).groupAt l.ref).pendOpnd (s.groupAt l.ref).nextInst l.pc f.d (s.activeSet l f.mask) f.la.toNat w
          else ((s.advance l).groupAt l.ref).writeOpnd f.d (s.activeSet l f.mask) w) := by
  obtain ⟨b, hb, hbody⟩ := fmtLanes_body h hclear name hu long hpre results val
  refine ⟨b, hb, hbody.trans ?_⟩
  simp only [hn, if_true, State.groupAt_advance_movedOn, State.movedOn_nextInst, hw]

section
variable {name : String} {srcs : List Opnd} {pre : Group → Option TrapReq} {results : Group → Nat} {val : Group → FArgs → Word} {w : Nat → Word} (i : Instr)

/-- An instruction of the format shape that writes at once. -/
theorem fmtLanes_computes (hi : exec i s = fmtLanes name f srcs slotIn false pre results val s)
    (hpre : pre (s.movedOn l) = none) (hn : s.fmtDraws l f results = 0)
    (hw : ∀ t, val (s.movedOn l) (s.fmtArgs l f slotIn 0 t) = w t) : s.Computes l f.mask f.d i srcs w := by
  intro hu
  obtain ⟨b, hb, hbody⟩ := fmtLanes_undrawn h hclear name hu false hpre hn hw
  rw [hi, hb]
  exact writes_of_writeOpnd s l h b name f.mask f.d w hbody

/-- An instruction of the format shape that is long-latency. -/
theorem fmtLanes_begins (hi : exec i s = fmtLanes name f srcs slotIn true pre results val s)
    (hpre : pre (s.movedOn l) = none) (hn : s.fmtDraws l f results = 0)
    (hw : ∀ t, val (s.movedOn l) (s.fmtArgs l f slotIn 0 t) = w t) : s.Begins l f.mask f.d i srcs w := by
  intro hu
  obtain ⟨b, hb, hbody⟩ := fmtLanes_undrawn h hclear name hu true hpre hn hw
  rw [hi, hb]
  exact starts_of_pendOpnd s l h b name f.mask f.d f.la.toNat w hbody

end

end

/-! ### Checks and selection -/

/-- A part within the number of parts of the conversion raises no trap (R186). -/
theorem partTrap_eq_none {s : State} {l : Latch} {f : FmtForm}
    (hp : fieldOf f.c / 16 < partsOf (s.fmtAt l (fieldOf f.c % 16)).k (s.fmtAt l f.slot.toNat).k) : partTrap f (s.movedOn l) = none :=
  if_neg (Nat.not_le.mpr hp)

/-- FSEL by a k-register takes the thread's bit of it (R183). -/
theorem execFsel_of_mask {f : FmtForm} {n : Fin 8} (hc : f.c = .k n) (hd : isUni f.d = false) (s : State) :
    execFsel f s = fmtLanes "FSEL" f [f.a, f.b, f.c] f.slot.toNat false (fun _ => none) (fun _ => 0)
      (fun g x => let F := g.fmt f.slot.toNat; wordOf F (fun e => if x.c.getLsbD x.t then elemOf F.w x.a e else elemOf F.w x.b e)) s := by
  simp only [execFsel, hc, hd, Bool.and_false, Bool.false_eq_true, if_false, if_true]

/-- FSEL by elements takes A's where the element of C is not zero (R183). -/
theorem execFsel_of_elements {f : FmtForm} (hc : ∀ n, f.c ≠ .k n) (s : State) :
    execFsel f s = fmtLanes "FSEL" f [f.a, f.b, f.c] f.slot.toNat false (fun _ => none) (fun _ => 0)
      (fun g x => let F := g.fmt f.slot.toNat; wordOf F (fun e => if elemOf F.w x.c e ≠ 0 then elemOf F.w x.a e else elemOf F.w x.b e)) s := by
  cases e : f.c with
  | k n => exact absurd e (hc n)
  | _ => simp only [execFsel, e, Bool.false_and, Bool.false_eq_true, if_false, bne_iff_ne]

/-- A k-register as an operand has bits of its threads alone (R133). -/
theorem State.getLsbD_operand_k (s : State) (l : Latch) (n : Fin 8) (t i : Nat) :
    (s.operand l (.k n) t).getLsbD i = true ↔ i < 32 ∧ ((s.groupAt l.ref).readK (l.self s) n.val).getLsbD i = true := by
  simp only [State.operand, Group.readOpnd, BitVec.getLsbD_setWidth, Bool.and_eq_true, decide_eq_true_eq]
  exact ⟨fun ⟨_, hb⟩ => ⟨BitVec.lt_of_getLsbD hb, hb⟩, fun ⟨hlt, hb⟩ => ⟨by omega, hb⟩⟩

/-! ### The element-wise instructions -/

/-- The word of an element-wise instruction in thread `t`, its random words zero (R164). -/
def State.elementWord (s : State) (l : Latch) (f : FmtForm) (op : Fmt → Nat → Nat → Nat → Nat → Nat) (t : Nat) : Word :=
  let F := s.fmtAt l f.slot.toNat
  wordOf F (fun e => op F (elemOf F.w (s.fmtSource l f f.xa f.slot.toNat f.a t) e) (elemOf F.w (s.fmtSource l f f.xb f.slot.toNat f.b t) e)
    (elemOf F.w (s.operand l f.c t) e) 0)

/-- The word of an element-wise instruction of one operand, each exact result rounded once (R173). -/
def State.unaryWord (s : State) (l : Latch) (f : FmtForm) (op : Fmt → Ex → Ex) (t : Nat) : Word :=
  let F := s.fmtAt l f.slot.toNat
  wordOf F (fun e => encode1 F (op F (decodeCode F (elemOf F.w (s.fmtSource l f f.xa f.slot.toNat f.a t) e))) 0)

section
variable {s : State} {l : Latch} (h : s.issuing l = true) {f : FmtForm} (hclear : s.fmtClear l f f.slot.toNat)
include h hclear

section
variable {name : String} {srcs : List Opnd} {op : Fmt → Nat → Nat → Nat → Nat → Nat} (i : Instr)

/-- An element-wise instruction that rounds nothing writes its word at once, under every rounding. -/
theorem elementwise_computes_unrounded (hi : exec i s = elementwise name f srcs false false op s) :
    s.Computes l f.mask f.d i srcs (s.elementWord l f op) :=
  fmtLanes_computes h hclear i hi rfl (State.fmtDraws_zero fun _ => rfl) (fun _ => rfl)

variable (hr : (s.fmtAt l f.slot.toNat).rnd ≠ 5)
include hr

/-- An element-wise instruction that rounds writes its word at once. -/
theorem elementwise_computes (hi : exec i s = elementwise name f srcs false true op s) :
    s.Computes l f.mask f.d i srcs (s.elementWord l f op) :=
  fmtLanes_computes h hclear i hi rfl (State.fmtDraws_of_rnd _ hr) (fun _ => rfl)

/-- A long-latency element-wise instruction leaves its word pending. -/
theorem elementwise_begins (hi : exec i s = elementwise name f srcs true true op s) :
    s.Begins l f.mask f.d i srcs (s.elementWord l f op) :=
  fmtLanes_begins h hclear i hi rfl (State.fmtDraws_of_rnd _ hr) (fun _ => rfl)

/-- So does one of one operand. -/
theorem unary_begins {op : Fmt → Ex → Ex} (hi : exec i s = unary name f true op s) :
    s.Begins l f.mask f.d i [f.a] (s.unaryWord l f op) :=
  elementwise_begins h hclear i hr hi

end

/-- FSEL by a k-register, whose bits are the threads' (R183). -/
theorem fsel_computes_of_mask {n : Fin 8} (hc : f.c = .k n) (hd : isUni f.d = false) :
    let F := s.fmtAt l f.slot.toNat
    s.Computes l f.mask f.d (.fsel f) [f.a, f.b, f.c] (fun t => wordOf F (fun e =>
      if t < 32 ∧ ((s.groupAt l.ref).readK (l.self s) n.val).getLsbD t then elemOf F.w (s.fmtSource l f f.xa f.slot.toNat f.a t) e
        else elemOf F.w (s.fmtSource l f f.xb f.slot.toNat f.b t) e)) := by
  refine fmtLanes_computes h hclear (.fsel f) (execFsel_of_mask hc hd s) rfl (State.fmtDraws_zero fun _ => rfl) (fun t => ?_)
  simp only [State.fmtArgs_c, State.fmtArgs_t, hc, State.getLsbD_operand_k]
  rfl

end

/-! ### The obligations -/

/-- Settles O19: the six are element-wise and long-latency, and each rounds its exact result once. -/
theorem formatLongLatency : Obligations.FormatLongLatency := by
  intro s l f h hclear hr F dx dy each
  refine ⟨?_, ?_, ?_, ?_, ?_, ?_⟩
  · exact elementwise_begins h hclear (.fdiv f) hr (execFdiv.eq_1 f s)
  · exact unary_begins h hclear (.fsqrt f) hr (execFsqrt.eq_1 f s)
  · exact unary_begins h hclear (.frcp f) hr (execFrcp.eq_1 f s)
  · exact unary_begins h hclear (.frsq f) hr (execFrsq.eq_1 f s)
  · exact unary_begins h hclear (.fexp2 f) hr (execFexp2.eq_1 f s)
  · exact unary_begins h hclear (.flog2 f) hr (execFlog2.eq_1 f s)

/-- Settles O17: most are element-wise instructions; the others have the same shape, with a check, a shared operand or a word of their own. -/
theorem formatElements : Obligations.FormatElements := by
  refine ⟨fun s l f h hclear => ?_, fun s l f h hclear => ?_⟩
  · intro F lit x y z dx dy ones each sum
    refine ⟨fun hr => ⟨?_, ?_, ?_, ?_, ?_, ?_⟩, ?_, ?_, ?_, ?_, fun hs => ?_, ?_⟩
    · exact elementwise_computes h hclear (.fadd f) hr (execFadd.eq_1 f s)
    · exact elementwise_computes h hclear (.fsub f) hr (execFsub.eq_1 f s)
    · exact elementwise_computes h hclear (.fmul f) hr (execFmul.eq_1 f s)
    · exact elementwise_computes h hclear (.fmad f) hr (execFmad.eq_1 f s)
    · exact elementwise_computes h hclear (.ffrc f) hr (execFfrc.eq_1 f s)
    · exact fmtLanes_computes h hclear (.fscl f) (execFscl.eq_1 f s) rfl (State.fmtDraws_of_rnd _ hr) (fun _ => rfl)
    · exact elementwise_computes_unrounded h hclear (.fmin f) (execFmin.eq_1 f s)
    · exact elementwise_computes_unrounded h hclear (.fmax f) (execFmax.eq_1 f s)
    · exact elementwise_computes_unrounded h hclear (.fcmp f) (execFcmp.eq_1 f s)
    · exact elementwise_computes_unrounded h hclear (.fclass f) (execFclass.eq_1 f s)
    · exact fmtLanes_computes h hclear (.fsgn f) (execFsgn.eq_1 f s) (if_neg hs) (State.fmtDraws_zero fun _ => rfl) (fun _ => rfl)
    · exact fmtLanes_computes h hclear (.famax f) (execFamax.eq_1 f s) rfl (State.fmtDraws_zero fun _ => rfl) (fun _ => rfl)
  · intro F lit a b hit ty e0
    refine ⟨?_, fun hc => ?_, fun n hc hd _ => ?_, fun hto => ?_, fun hfrom hr => ?_⟩
    · exact fmtLanes_computes h hclear (.fcmpk f) (execFcmpk.eq_1 f s) rfl (State.fmtDraws_zero fun _ => rfl) (fun _ => rfl)
    · exact fmtLanes_computes h hclear (.fsel f) (execFsel_of_elements hc s) rfl (State.fmtDraws_zero fun _ => rfl) (fun _ => rfl)
    · exact fsel_computes_of_mask h hclear hc hd (by simp [uniformBad, hd])
    · have hto' : lit.testBit 2 ≠ true := Bool.eq_false_iff.mp hto
      exact fmtLanes_computes h hclear (.fcvti f) (execFcvti.eq_1 f s) rfl (State.fmtDraws_zero fun _ => if_neg hto') (fun _ => if_neg hto')
    · exact fmtLanes_computes h hclear (.fcvti f) (execFcvti.eq_1 f s) rfl (State.fmtDraws_of_rnd _ hr) (fun _ => if_pos hfrom)

/-- Settles O18: the four have the shape of a format instruction, with A and B read in the source slot; the conversions' checks pass by the hypotheses. -/
theorem formatSumsAndConversions : Obligations.FormatSumsAndConversions := by
  intro s l f h m p F M a b z first hclear hr
  have hn (results : Group → Nat) : s.fmtDraws l f results = 0 := State.fmtDraws_of_rnd results hr
  refine ⟨?_, ?_, fun hp => ?_, fun hp hblk => ?_⟩
  · exact fmtLanes_computes h hclear (.fdot f) (execFdot.eq_1 f s) rfl (hn _) (fun _ => rfl)
  · exact fmtLanes_computes h hclear (.fsum f) (execFsum.eq_1 f s) rfl (hn _) (fun _ => rfl)
  · exact fmtLanes_computes h hclear (.fcvt f) (execFcvt.eq_1 f s) (partTrap_eq_none hp) (hn _) (fun _ => rfl)
  · refine fmtLanes_computes h hclear (.fbscl f) (execFbscl.eq_1 f s) ?_ (hn _) (fun _ => ?_)
    · have hblk' : ((s.movedOn l).fmt (fmtLit f % 16)).blk = 1 := hblk
      simp [firstTrap, partTrap_eq_none hp, hblk']
    · simp only [Nat.shiftRight_eq_div_pow]
      rfl

end Sys2Proof.Machine
end
